-- ==== Sys2Proof/Word.lean ====
section
/-! DEFINITION. The words of the module (R14): bytes, 32-bit registers, 64-bit times, and the sparse map that holds keyed data in one sorted form. -/

namespace Sys2Proof

/-- A byte is 8 bits (R14). -/
abbrev Byte := BitVec 8

/-- A register is 32 bits (R14). -/
abbrev Word32 := BitVec 32

/-- A Station-clock time, a store address of the fabric and other 64-bit quantities (R346). -/
abbrev Word64 := BitVec 64

/-- Keyed data with keys strictly rising, so that equal maps are equal lists. A key that is not listed has the default the reader names. -/
abbrev SMap (α : Type) := List (Nat × α)

end Sys2Proof
end

