-- ==== Sys2Proof/Syntax.lean ====
section
/-! DEFINITION. The commands of the module, one constructor per row of spec/opcode_table.json, and the types of their operands.
An operand is what the sender of the command supplies: a written value, a frame, or what the world outside the module's rules brings about (a measured voltage, a bit error, the cycle in which a phase ended). -/

namespace Sys2Proof

/-- The three host interfaces (R22, Table HIF-1: 0 PCIe, 1 management SPI, 2 debug). -/
inductive Iface where
  | pcie | mgt | debug
  deriving DecidableEq, Repr

/-- The two variants (Table SCP-1). -/
inductive Variant where
  | gw968 | gw488
  deriving DecidableEq, Repr

/-- The modes (Table RST-1). -/
inductive Mode where
  | starting | safe | run | service | split | incomplete | parked
  deriving DecidableEq, Repr

/-- The regions that have a reset of their own (Table RST-9), coded 0 to 4 in RST.CMD.REGION. -/
inductive Region where
  | logic | storage | host | field | standby
  deriving DecidableEq, Repr

/-- The outcome of the check of one word (Table ARC-16): the decoded position is the bit, or the lower bit of the pair. -/
inductive WordCheck where
  | good
  | single (pos : Nat)
  | adjacent (pos : Nat)
  | uncorrectable
  deriving DecidableEq, Repr

/-- A report on its way to the fault collector (R370): its source, syndrome and detail, the page of the reporting block, the events it stands for, whether an injection caused it, and whether it was detected together with the one before. -/
structure Report where
  src : Nat
  synd : Word32 := 0
  detail : Nat := 0
  page : Nat := 0
  k : Nat := 1
  injected : Bool := false
  /-- Detected in the same CLK_SYS cycle as the report before it, so both reach the collector in one cycle -/
  joined : Bool := false
  /-- The event carries COINCIDENT whatever reaches the collector with it (R90) -/
  coinc : Bool := false
  deriving DecidableEq, Repr

/-- Where a host command came from (R324, R335): a submission queue or the mailbox. -/
inductive CmdSrc where
  | sq (q : Fin 4)
  | mbx
  deriving DecidableEq, Repr

/-- Names one host command in flight: its source and its place among the commands of that source, oldest first. -/
structure CmdId where
  src : CmdSrc
  cid : BitVec 16
  deriving DecidableEq, Repr

/-- What the wire delivered of a frame: the frame as sent, a frame that fails its check, nothing, or the bytes given. -/
inductive Rx where
  | good | corrupt | lost | raw (l : List Byte)
  deriving DecidableEq, Repr

/-- The two evaluator channels (R61); also the A and B streams and sides of a safety output tile (R215). -/
inductive Chan where
  | a | b
  deriving DecidableEq, Repr

/-- What a fault in one channel's hardware does to an Evaluate phase: an offset of the tick time the channel reads (R116), word-code results met in its signal memory (by word, Table ILK-8) and its table memory, result-vector bits it computes wrong, and word signals that read 0x8000 (R63). Empty in a channel without a fault. -/
structure EvalFault where
  tickSkew : Nat := 0
  sig : List (Nat × WordCheck) := []
  tbl : List (Nat × WordCheck) := []
  flips : List Nat := []
  bad8000 : Bool := false
  deriving DecidableEq, Repr

/-- Who asks for a phase of Table ILK-5. -/
inductive LatePhase where
  | sample | exchange | evaluate | compare | output
  deriving DecidableEq, Repr

/-- A row of the Touchmark array, as it reads at the normal, low-margin and high-margin references (R408). -/
structure Fuse where
  n : BitVec 140 := 0
  l : BitVec 140 := 0
  h : BitVec 140 := 0
  deriving DecidableEq, Repr

/-- A frame written to a Tablet mailbox (R176): its 128-bit words, and what its transfer meets: words of the mailbox and of the receiver's inbound area that are disturbed, with their word-code outcome, whether the frame fails the receiver's CRC, and whether its check ends in the same cycle as that of the frame of the other direction before it (R178). -/
structure TabFrame where
  header : BitVec 128
  payload : List (BitVec 128) := []
  trailer : BitVec 128
  mbx : List (Nat × WordCheck) := []
  inbound : List (Nat × WordCheck) := []
  rxCorrupt : Bool := false
  sameCycle : Bool := false
  deriving DecidableEq, Repr

/-- The gate bits of core A's delayed copy in one cycle (R160, Table DHD-2). -/
structure PairGates where
  ibus : Bool := false
  dbus : Bool := false
  dbusWrite : Bool := false
  dbusStrb : BitVec 4 := 0
  retire : Bool := false
  wb : Bool := false
  csr : Bool := false
  xb : Bool := false
  xbWrite : Bool := false
  xbStrb : BitVec 16 := 0
  tcm : Bool := false
  tcmWrite : Bool := false
  tcmStrb : BitVec 4 := 0
  deriving DecidableEq, Repr

/-- Read data that reaches the rendezvous register (R164): a word of the TCM or of the ROM and what the array gives for it, or data of a crossbar read. -/
inductive PairRead where
  | tcm (w : Nat) (k : WordCheck)
  | rom (w : Nat) (k : WordCheck)
  | port (d : BitVec 128)
  deriving DecidableEq, Repr

/-- An output of the pair that awaits its comparison (R158): a refresh of the supervisor watchdog, an interrupt acknowledge, a TCM write, a request of `words` words to a page through a core's crossbar port, and the entry of a fatal trap. -/
inductive PairOut where
  | refresh
  | ack (n : Fin 32)
  | tcmWrite (core : Chan) (a : Nat) (data : List Byte)
  | request (core : Chan) (page words : Nat)
  | fatalTrap (core : Chan)
  deriving DecidableEq, Repr

/-- One cycle of the comparator: core A's gates, the outputs that await release, the data read, the groups whose two values need not be equal, and in a periodic injection cycle the two values that stand in the injected group (R160, R171). -/
structure PairCycle where
  gates : PairGates := {}
  outs : List PairOut := []
  read : Option PairRead := none
  groups : List (Fin 64 × BitVec 16 × BitVec 16) := []
  inj : Option (BitVec 16 × BitVec 16) := none
  deriving DecidableEq, Repr

/-- A queue and the requests for joining that its two sides have made (R45). -/
structure RejoinAsk where
  queue : Nat
  prod : Bool := false
  cons : Bool := false
  deriving DecidableEq, Repr

/-- The cycle of the scan in which Compare ends, and the disturbed words of signal memory that the channels read in it (R77, R91). -/
structure CompareEnd where
  stop : Nat
  fa : List (Nat × WordCheck) := []
  fb : List (Nat × WordCheck) := []
  deriving DecidableEq, Repr

/-- What the Tail meets: a test pair of the Tablet that was not flagged (R172), and disturbed words of the channels' table memories (R80, R91). -/
structure TailMeets where
  missed : Bool := false
  sa : List (Nat × WordCheck) := []
  sb : List (Nat × WordCheck) := []
  deriving DecidableEq, Repr

/-- A path's comparator has shown a level for `n` consecutive samples (R203). -/
structure LevelRun where
  level : Bool
  n : Nat
  deriving DecidableEq, Repr

/-- The end of a die's migration: the words that could not be read and stand poisoned in the spare (R250). -/
structure MigrationEnd where
  die : Fin 2
  lost : List Nat := []
  deriving DecidableEq, Repr

/-- What P0 finds: the clocks within their limits (R48), and those of queues 4 to 7 whose test failed (R276). -/
structure PhaseZeroTests where
  mon : BitVec 7
  queuesBad : BitVec 4 := 0
  deriving DecidableEq, Repr

/-- What a tile side measures at the start of a period (R192): its read-back comparator (R234), the switches it reads closed and the other switches of the same outputs as it senses them (R218), its supply, its junction temperature, and whether the junction is below 145 °C (R220). -/
structure TileMeas where
  rb : Bool := false
  sw : BitVec 8 := 0
  other : BitVec 8 := 0
  volt : BitVec 12 := 0
  temp : BitVec 8 := 25
  cool : Bool := true
  deriving DecidableEq, Repr

/-- Supply bands (Table FT-18), best first. -/
inductive Band where
  | normal | low | belowTrip | missing
  deriving DecidableEq, Repr


/-- A submission descriptor (Table HIF-5) with the elements of its SGL (R327). -/
structure Desc where
  opcode : BitVec 8 := 0
  flags : BitVec 8 := 0
  cid : BitVec 16 := 0
  addr : Word64 := 0
  hostAddr : Word64 := 0
  length : Word32 := 0
  source : BitVec 16 := 0
  cls : BitVec 8 := 0
  oparg : List Byte := []
  /-- The reserved fields at offsets 4 and 31, and those of the SGL, are 0 -/
  reservedZero : Bool := true
  sgl : List (Word64 × Word32) := []
  deriving DecidableEq, Repr

/-- The kinds of PCIe reset (R322). -/
inductive PcieReset where
  | fundamental | hot | linkDown | flr
  deriving DecidableEq, Repr

/-- A management SPI frame as the host drives it (Table HIF-10): the SPI mode taken from SCK, OPB, ADDR, HCRC, DATA and DCRC. -/
structure MgtFrame where
  mode3 : Bool := false
  opb : BitVec 8
  addr : BitVec 24
  hcrc : Word32
  data : List Word32 := []
  dcrc : Word32 := 0
  deriving DecidableEq, Repr

/-- How far a management SPI frame had come when CS rose (R334): before its accesses; a write frame after DCRC; or a READ during WAIT, with its read effects made or not. -/
inductive MgtAbort where
  | early
  | write (f : MgtFrame)
  | read (f : MgtFrame) (made : Bool)
  deriving DecidableEq, Repr

/-- What an Assay test finds faulty, or could not test (Table AST-2): a port by page; the logic-side reference; the monitor of a rail, of HOLD or of a feed (FEED_B where true); a tile position; a pin index; a store bank; a cell of a block's memory, by page and word address; a part without a number of its own. -/
inductive AssayItem where
  | port (page : Nat)
  | logicRef
  | rail
  | hold
  | feed (b : Bool)
  | tile (p : Nat)
  | pin (i : Nat)
  | bank (b : Nat)
  | cell (page word : Nat)
  | whole
  deriving DecidableEq, Repr

/-- How the start-up set went (R388 to R395): durations in µs by test, failures, tests skipped, and tiles whose part of test 14 or 15 has not run. -/
structure StartSet where
  us : List Nat := []
  fails : List (Nat × AssayItem) := []
  skips : List Nat := []
  notRun : List (Nat × Nat) := []
  deriving DecidableEq, Repr

/-- The registers whose reads capture a CLK_TB value (R349): TIME_LO, SNAP_TIME_LO, and MATCH_LO of a compare channel. -/
inductive TimeReg where
  | time | snap
  | matchLo (n : Fin 32)
  deriving DecidableEq, Repr

/-- The registers of a compare channel that R356 names. -/
inductive CmpReg where
  | cfg | interval | cmpLo | cmpHi
  deriving DecidableEq, Repr


/-- The commands of the module. Each docstring gives the rule that owns the command. The commands without an operand stand last, since Lean's compiler gives no tag above 244 to a constructor with one. -/
inductive Instr where
  /-- CELL_TRANSACTION_FAIL (R26). -/
  | cellTransactionFail (page cell : Nat) (fresh unserved : Bool)
  /-- FABRIC_TIMEOUT (R28). -/
  | fabricTimeout (page : Nat)
  /-- FENCE_REMOVE (R29). -/
  | fenceRemove (page : Nat) (checked drained : Bool)
  /-- QUEUE_SEVER (R44). -/
  | queueSever (q : Nat) (prod cons : Bool)
  /-- QUEUE_REJOINING (R45). -/
  | queueRejoining (q : RejoinAsk)
  /-- QUEUE_JOINED (R45). -/
  | queueJoined (q : Nat) (resetProd resetCons : Bool)
  /-- CLK_MEAS_START (R49). -/
  | clkMeasStart (i : Iface) (domain : BitVec 3)
  /-- CLK_MEAS_DONE (R49). -/
  | clkMeasDone (freq : BitVec 24)
  /-- PLL_UNLOCK (R48). -/
  | pllUnlock (b : Fin 4) (perstLow : Bool)
  /-- MON_FAIL (R48). -/
  | monFail (b : Fin 7) (perstLow : Bool)
  /-- SCAN_TICK (R72). -/
  | scanTick (i : Nat)
  /-- EXCHANGE_PHASE (R73). -/
  | exchangePhase (c : Nat)
  /-- EVALUATE_PHASE (R76). -/
  | evaluatePhase (c : Nat) (fa fb : EvalFault)
  /-- COMPARE_PHASE (R77). -/
  | comparePhase (c : Nat) (stop : CompareEnd)
  /-- TAIL (R80). -/
  | tail (c stop : Nat) (missed : TailMeets)
  /-- LATE_PHASE (R73). -/
  | latePhase (p : LatePhase)
  /-- VERIFY (R103). -/
  | verify (i : Iface) (copy : Bool)
  /-- INSTALL (R104). -/
  | install (i : Iface) (copy : Bool)
  /-- SYNC (R103). -/
  | sync (i : Iface)
  /-- CLEAR_TRIP (R95). -/
  | clearTrip (i : Iface)
  /-- TEST_TRIP (R103). -/
  | testTrip (i : Iface)
  /-- UNLOAD (R103). -/
  | unload (i : Iface)
  /-- RELOAD (R103). -/
  | reload (i : Iface)
  /-- LOADER_CMD_COMPLETE (R103). -/
  | loaderCmdComplete (readBack previous : Bool)
  /-- DIV_CLR (R108). -/
  | divClr (i : Iface) (c : Chan)
  /-- MAX_CLR (R108). -/
  | maxClr (i : Iface) (c : Chan)
  /-- LOCKSTEP_MISMATCH (R162). -/
  | lockstepMismatch (g : List (Fin 64 × BitVec 16 × BitVec 16)) (a : PairGates) (b : List PairOut × Option PairRead) (pinj : Option (BitVec 16 × BitVec 16))
  /-- INTERRUPT_TAKEN (R166). -/
  | interruptTaken (lines : BitVec 32)
  /-- TABLET_FRAME (R178). -/
  | tabletFrame (src : Chan) (f : TabFrame)
  /-- MISM_CLR (R184). -/
  | mismClr (i : Iface)
  /-- TICK_CLR (R184). -/
  | tickClr (i : Iface)
  /-- TAB_CNT_CLR (R185). -/
  | tabCntClr (i : Iface)
  /-- OUTBOUND_LATCH (R193). -/
  | outboundLatch (w : WordCheck)
  /-- OUTBOUND_FRAME (R191). -/
  | outboundFrame (p : Nat) (c : Chan) (rx : Rx)
  /-- TILE_PERIOD (R192). -/
  | tilePeriod (p : Nat) (c : Chan) (m : TileMeas)
  /-- INBOUND_FRAME (R191). -/
  | inboundFrame (p : Nat) (c : Chan) (rx : Rx) (w : WordCheck) (dly : BitVec 10)
  /-- LINK_DOWN (R195). -/
  | linkDown (p : Nat) (lockLost : Bool)
  /-- TILE_POWER_RESET (R197). -/
  | tilePowerReset (p : Nat) (c : Chan)
  /-- TILE_FRAME_TIMEOUT (R197). -/
  | tileFrameTimeout (p : Nat)
  /-- TILE_RESET_SEQUENCE (R197). -/
  | tileResetSequence (p : Nat)
  /-- PIN_FILTER_CHANGE (R203). -/
  | pinFilterChange (p pin : Nat) (path : Chan) (level : LevelRun)
  /-- PIN_OVERLOAD (R210). -/
  | pinOverload (p pin : Nat)
  /-- TILE_OVERCURRENT (R210). -/
  | tileOvercurrent (p : Nat)
  /-- PULSE_TIMER_EXPIRY (R218). -/
  | pulseTimerExpiry (p : Nat) (c : Chan) (pin : Nat)
  /-- SUPPLY_BAND_CHANGE (R212). -/
  | supplyBandChange (p : Nat) (c : Chan) (b : Band)
  /-- SUPPLY_TRIP (R213). -/
  | supplyTrip (p : Nat) (c : Chan)
  /-- SUPPLY_QUALIFIED (R213). -/
  | supplyQualified (p : Nat) (c : Chan)
  /-- SOT_WATCHDOG (R217). -/
  | sotWatchdog (p : Nat) (c : Chan)
  /-- OVER_TEMPERATURE (R220). -/
  | overTemperature (p : Nat) (c : Chan)
  /-- LINK_RESET (R221). -/
  | linkReset (i : Iface) (p : Fin 8)
  /-- FT_CNT_CLR (R221). -/
  | ftCntClr (i : Iface) (p : Fin 8)
  /-- SUPPLY_REARM (R214). -/
  | supplyRearm (i : Iface) (p : Fin 8)
  /-- CONFIG_WRITE (R200). -/
  | configWrite (i : Iface) (p : Fin 8) (n : Fin 16) (v : Word32)
  /-- TEST_OVERDUE (R229). -/
  | testOverdue (e : Nat)
  /-- CAPTURE_TIMEOUT (R237). -/
  | captureTimeout (p : Nat)
  /-- XS_CLR (R232). -/
  | xsClr (i : Iface)
  /-- TBL_CNT_CLR (R245). -/
  | tblCntClr (i : Iface)
  /-- HCLAIM_CLAIM (R243). -/
  | hclaimClaim (i : Iface) (kind : BitVec 3) (index : BitVec 7) (busy : Bool)
  /-- HCLAIM_RELEASE (R243). -/
  | hclaimRelease (i : Iface) (kind : BitVec 3) (index : BitVec 7) (busy : Bool)
  /-- READ (R262). -/
  | read (id : CmdId) (dma : Bool) (fs : List (Nat × WordCheck))
  /-- WRITE (R262). -/
  | write (id : CmdId) (dma : Bool) (given : List Byte)
  /-- WRITE_ATOMIC (R264). -/
  | writeAtomic (id : CmdId) (dma : Bool) (given : List Byte)
  /-- ATOMIC_COMMIT (R264). -/
  | atomicCommit (id : CmdId)
  /-- FLUSH (R289). -/
  | flush (id : CmdId)
  /-- COMMAND_COMPLETION (R329). -/
  | commandCompletion (id : CmdId)
  /-- MIGRATION_DONE (R250). -/
  | migrationDone (lost : MigrationEnd)
  /-- SCRUB_STEP (R251). -/
  | scrubStep (fs : List (Nat × WordCheck))
  /-- PT_VERIFY (R279). -/
  | ptVerify (i : Iface) (copy : Bool)
  /-- STO_CNT_CLR (R279). -/
  | stoCntClr (i : Iface) (scrub : Bool)
  /-- PARK_REQUEST (R269). -/
  | parkRequest (done : List CmdId)
  /-- CHUNK_LOADED (R275). -/
  | chunkLoaded (n : Nat) (fs : List (Nat × WordCheck))
  /-- XSPI_READ (R270). -/
  | xspiRead (addr : Word32) (k : Nat) (w : WordCheck)
  /-- XSPI_FAST_READ (R270). -/
  | xspiFastRead (addr : Word32) (k : Nat) (w : WordCheck)
  /-- XSPI_READ_SFDP (R271). -/
  | xspiReadSfdp (addr : Word32) (k : Nat)
  /-- XSPI_READ_STATUS (R270). -/
  | xspiReadStatus (k : Nat)
  /-- XSPI_WRITE_VOLATILE_CONFIG (R270). -/
  | xspiWriteVolatileConfig (addr : Word32) (v : Byte)
  /-- XSPI_READ_VOLATILE_CONFIG (R270). -/
  | xspiReadVolatileConfig (addr : Word32)
  /-- BOOT_REARM (R277). -/
  | bootRearm (i : Iface)
  /-- BOOT_RELEASE (R277). -/
  | bootRelease (i : Iface)
  /-- CONFIRM (R278). -/
  | confirm (i : Iface) (raise : Bool)
  /-- SET_TRIAL (R278). -/
  | setTrial (i : Iface) (slot : Bool) (tries : BitVec 4)
  /-- SET_IF (R278). -/
  | setIf (i : Iface) (ifmode : Bool) (dummy : BitVec 5)
  /-- CLEAR_TRIAL (R278). -/
  | clearTrial (i : Iface)
  /-- BOOT_CMD_DONE (R278). -/
  | bootCmdDone (storeOk : Bool)
  /-- JOURNAL_APPEND (R293). -/
  | journalAppend (id : CmdId) (dma : Bool) (given : List Byte)
  /-- SNAPSHOT (R289). -/
  | snapshot (id : CmdId)
  /-- JOURNAL_READ (R290). -/
  | journalRead (id : CmdId) (dma : Bool) (fs : List (Nat × WordCheck))
  /-- CREDIT_RECOMPUTE (R296). -/
  | creditRecompute (holdV : Nat)
  /-- HOLDUP_MEAS_START (R298). -/
  | holdupMeasStart (step : Nat)
  /-- HOLDUP_MEAS_DONE (R298). -/
  | holdupMeasDone (us : Nat)
  /-- MEAS_NOW (R311). -/
  | measNow (i : Iface)
  /-- BATCH_COMMIT (R301). -/
  | batchCommit (ws : List (Nat × WordCheck))
  /-- SEAL_REQUEST (R305). -/
  | sealRequest (back : Fuse)
  /-- SEAL_WATCH_WRITE (R311). -/
  | sealWatchWrite (i : Iface) (v : Word32)
  /-- JRN_CNT_CLR (R311). -/
  | jrnCntClr (i : Iface)
  /-- WKEY (R19). -/
  | wkey (i : Iface) (page : BitVec 8) (v : Word32)
  /-- KEY_TIMEOUT (R19). -/
  | keyTimeout (page : BitVec 8)
  /-- REGISTER_WRITE (R19). -/
  | registerWrite (i : Iface) (page : BitVec 8) (reg : BitVec 10) (v : Word32) (full : Bool)
  /-- LO_HALF_READ (R22). -/
  | loHalfRead (i : Iface) (page : BitVec 8) (reg : BitVec 10)
  /-- BAR2_READ (R320). -/
  | bar2Read (a n : Nat) (fs : List (Nat × WordCheck))
  /-- BAR2_WRITE (R320). -/
  | bar2Write (a : Nat) (data : List Byte)
  /-- PCIE_RESET (R322). -/
  | pcieReset (k : PcieReset)
  /-- SQ_TAIL_DOORBELL (R330). -/
  | sqTailDoorbell (i : Iface) (q : Fin 4) (v : BitVec 12)
  /-- CQ_HEAD_DOORBELL (R330). -/
  | cqHeadDoorbell (i : Iface) (q : Fin 4) (v : BitVec 12)
  /-- QUEUE_ENABLE (R330). -/
  | queueEnable (i : Iface) (q : Fin 4) (cfg : Word32)
  /-- QUEUE_DISABLE (R330). -/
  | queueDisable (i : Iface) (q : Fin 4) (cfg : Word32)
  /-- QUEUE_DRAINED (R330). -/
  | queueDrained (q : Fin 4)
  /-- DESCRIPTOR_FETCH (R324). -/
  | descriptorFetch (d : Desc) (dma : Bool) (w : WordCheck)
  /-- CQ_COAL_TIMEOUT (R331). -/
  | cqCoalTimeout (q : Fin 4)
  /-- EVT_ACK (R332). -/
  | evtAck (i : Iface)
  /-- PCIE_CNT_CLR (R343). -/
  | pcieCntClr (i : Iface)
  /-- ATTEST (R449). -/
  | attest (id : CmdId)
  /-- MGT_READ (R334). -/
  | mgtRead (f : MgtFrame)
  /-- MGT_WRITE (R334). -/
  | mgtWrite (f : MgtFrame)
  /-- MGT_KEYED_WRITE (R333). -/
  | mgtKeyedWrite (f : MgtFrame)
  /-- MGT_CS_ABORT (R334). -/
  | mgtCsAbort (a : MgtAbort)
  /-- MBX_GO (R335). -/
  | mbxGo (i : Iface)
  /-- MGT_CNT_CLR (R344). -/
  | mgtCntClr (i : Iface)
  /-- EPOCH_OPEN (R336). -/
  | epochOpen (i : Iface)
  /-- EPOCH_CLOSE (R336). -/
  | epochClose (i : Iface) (v : Word32)
  /-- EPOCH_WINDOW_READ (R338). -/
  | epochWindowRead (i : Iface) (k : Fin 16) (reg : BitVec 10)
  /-- TAP_EXTEST (R340). -/
  | tapExtest (shift : Option (List Bool))
  /-- TAP_SAMPLE_PRELOAD (R340). -/
  | tapSamplePreload (l : List Bool)
  /-- REG_ACCESS_READ (R341). -/
  | regAccessRead (a : BitVec 20) (early : Bool)
  /-- REG_ACCESS_WRITE (R341). -/
  | regAccessWrite (a : BitVec 20) (v : Word32) (early : Bool)
  /-- REG_ACCESS_KEYED_WRITE (R341). -/
  | regAccessKeyedWrite (a : BitVec 20) (v : Word32) (early : Bool)
  /-- UART_LINE (R342). -/
  | uartLine (n sent : Nat)
  /-- TIME_CAPTURE_READ (R349). -/
  | timeCaptureRead (i : Iface) (r : TimeReg)
  /-- SYSTEM_VIEW_SNAPSHOT (R350). -/
  | systemViewSnapshot (seq : BitVec 8)
  /-- COMPARE_MATCH (R353). -/
  | compareMatch (n : Nat)
  /-- COMPARE_WRITE (R356). -/
  | compareWrite (i : Iface) (n : Fin 32) (r : CmpReg) (v : Word32)
  /-- COMPARE_WRITE_EFFECT (R357). -/
  | compareWriteEffect (n : Nat)
  /-- TIMER_TICK (R359). -/
  | timerTick (n : Nat)
  /-- TIMER_START (R361). -/
  | timerStart (i : Iface) (n : Fin 8)
  /-- TIMER_STOP (R361). -/
  | timerStop (i : Iface) (n : Fin 8)
  /-- TIMER_CLEAR (R361). -/
  | timerClear (i : Iface) (n : Fin 8)
  /-- TIMER_CFG_WRITE (R360). -/
  | timerCfgWrite (i : Iface) (n : Fin 8) (v : Word32)
  /-- TIMER_WRITE_EFFECT (R361). -/
  | timerWriteEffect (n : Nat)
  /-- TIMER_COUNT_READ (R362). -/
  | timerCountRead (i : Iface) (n : Fin 8)
  /-- FAULT_REPORT (R370). -/
  | faultReport (n : Nat) (more : List Report)
  /-- FAULT_CHIP_RESET (R380). -/
  | faultChipReset (atLimit : Bool)
  /-- ERRN_TEST (R381). -/
  | errnTest (i : Iface)
  /-- ACK (R377). -/
  | ack (i : Iface) (src : BitVec 9)
  /-- ACK_ALL (R377). -/
  | ackAll (i : Iface) (src : BitVec 9)
  /-- PROMO_CLR (R387). -/
  | promoClr (i : Iface) (src : BitVec 9)
  /-- PROMO_CLR_ALL (R387). -/
  | promoClrAll (i : Iface) (src : BitVec 9)
  /-- SRC_CFG_WRITE (R382). -/
  | srcCfgWrite (i : Iface) (v : Word32)
  /-- ERR_INJ_WRITE (R385). -/
  | errInjWrite (i : Iface) (page : BitVec 8) (mask : BitVec 12) (count : BitVec 4)
  /-- HQ_SEL (R387). -/
  | hqSel (i : Iface) (age : BitVec 5)
  /-- FCR_CNT_CLR (R387). -/
  | fcrCntClr (i : Iface)
  /-- CRC_START (R386). -/
  | crcStart (i : Iface) (n : Fin 4) (cmpEn : Bool)
  /-- CRC_DONE (R386). -/
  | crcDone (n : Nat) (fs : List (Nat × WordCheck))
  /-- ASSAY_RETRY (R389). -/
  | assayRetry (test : Nat)
  /-- ASSAY_LIMIT_LOST (R389). -/
  | assayLimitLost (test : Nat) (x : AssayItem)
  /-- REF_TEST_SLOT (R398). -/
  | refTestSlot (t : Option (Fin 8 × Chan)) (pass : Bool)
  /-- MONITOR_TEST_SLOT (R403). -/
  | monitorTestSlot (x : AssayItem) (pass : Bool)
  /-- PIN_TEST_SLOT (R400). -/
  | pinTestSlot (p : Fin 6)
  /-- SOT_TEST_SLOT (R398). -/
  | sotTestSlot (p : Fin 2) (c : Chan)
  /-- STORE_SEGMENT (R404). -/
  | storeSegment (bank : Fin 32) (aborted : Bool) (pass : Bool) (ws : List (Nat × WordCheck))
  /-- ASSAY_ORDERED_SET (R399). -/
  | assayOrderedSet (p : Fin 8) (rx : Rx)
  /-- ASSAY_RESULT (R399). -/
  | assayResult (p : Fin 8) (ended : Option (Bool × Nat)) (rx : Rx)
  /-- PIN_TEST_ABORT (R401). -/
  | pinTestAbort (p : Fin 6) (pin : Fin 16)
  /-- AST_CNT_CLR (R405). -/
  | astCntClr (i : Iface)
  /-- TCH_READ (R420). -/
  | tchRead (i : Iface) (margin : BitVec 2) (row : BitVec 10)
  /-- PROG (R421). -/
  | prog (i : Iface) (row : BitVec 10) (force : Bool)
  /-- PROG_COMPLETE (R422). -/
  | progComplete (back : Option Fuse) (spares entries : List Fuse)
  /-- PROG_WINDOW_LOST (R422). -/
  | progWindowLost (back : Fuse)
  /-- OVERRIDE (R424). -/
  | override (i : Iface) (row : BitVec 10)
  /-- CLEAR_OVR (R420). -/
  | clearOvr (i : Iface) (row : BitVec 10)
  /-- ROW_MOVE (R418). -/
  | rowMove (spares entries : List Fuse)
  /-- TCH_CNT_CLR (R430). -/
  | tchCntClr (i : Iface)
  /-- VERIFY_REQUEST (R433). -/
  | verifyRequest (rank obj copy slot : Nat) (pk msg sig : List Byte)
  /-- VERIFY_DONE (R433). -/
  | verifyDone (us : Nat)
  /-- SIGNING_STEP (R433). -/
  | signingStep (last selfOk dma : Bool)
  /-- MEAS_SEL (R452). -/
  | measSel (i : Iface) (index : BitVec 3)
  /-- HMK_CNT_CLR (R452). -/
  | hmkCntClr (i : Iface)
  /-- LMN_ROUND_START (R457). -/
  | lmnRoundStart (ticks crossed : Nat) (chk : WordCheck)
  /-- LMN_ROUND_DECISION (R459). -/
  | lmnRoundDecision (pins : BitVec 8)
  /-- WAKE_RELEASE (R463). -/
  | wakeRelease (ticks : Nat)
  /-- LMN_ALIGNMENT (R464). -/
  | lmnAlignment (ticks : Nat)
  /-- VSTBY_LOW (R462). -/
  | vstbyLow (low : Bool)
  /-- WAKE_TEST (R463). -/
  | wakeTest (i : Iface)
  /-- LMN_CONFIG_WRITE (R469). -/
  | lmnConfigWrite (i : Iface) (r : Fin 9) (v : Word32)
  /-- ENTRY_SEL (R468). -/
  | entrySel (i : Iface) (age : BitVec 8)
  /-- POWER_ON_RESET_RELEASE (R473). -/
  | powerOnResetRelease (vcoreEarly vioLate : Bool)
  /-- BROWNOUT (R474). -/
  | brownout (r : Fin 3)
  /-- RAIL_RANGE (R474). -/
  | railRange (r : Fin 3) (mv : BitVec 12) (out : Bool)
  /-- BRIDGE_TAKEOVER (R471). -/
  | bridgeTakeover (r : Fin 3) (mv : BitVec 12)
  /-- FEED_WINDOW_ENTER (R479). -/
  | feedWindowEnter (b : Bool) (v : BitVec 12)
  /-- FEED_WINDOW_LEAVE (R479). -/
  | feedWindowLeave (b : Bool) (v : BitVec 12)
  /-- FEED_QUALIFIED (R479). -/
  | feedQualified (b : Bool)
  /-- FEED_FAIL (R479). -/
  | feedFail (a b : Bool) (gap : Nat) (va vb : BitVec 12)
  /-- SWAP (R482). -/
  | swap (i : Iface)
  /-- SHUTDOWN (R491). -/
  | shutdown (i : Iface)
  /-- PWR_CNT_CLR (R492). -/
  | pwrCntClr (i : Iface)
  /-- POWER_FAIL_START (R488). -/
  | powerFailStart (causes : BitVec 4)
  /-- MODE_REQ_SAFE (R495). -/
  | modeReqSafe (i : Iface)
  /-- MODE_REQ_RUN (R496). -/
  | modeReqRun (i : Iface)
  /-- MODE_REQ_SERVICE (R495). -/
  | modeReqService (i : Iface)
  /-- RST_CMD_CHIP (R507). -/
  | rstCmdChip (i : Iface)
  /-- RST_CMD_REGION (R510). -/
  | rstCmdRegion (i : Iface) (region : BitVec 3)
  /-- RST_CMD_BLOCK (R510). -/
  | rstCmdBlock (i : Iface) (page : BitVec 8)
  /-- RESET_END (R509). -/
  | resetEnd (bad : BitVec 64) (readBack : Bool) (fs : List (Nat × WordCheck))
  /-- RESET_N (R508). -/
  | resetN (ns : Nat)
  /-- CHIP_RESET (R507). -/
  | chipReset (atLimit : Bool)
  /-- STARTUP_P0 (R501). -/
  | startupP0 (strap : BitVec 2) (pll : BitVec 4) (xinOk xinExt : Bool) (mon : PhaseZeroTests) (us : Nat)
  /-- STARTUP_P1 (R501). -/
  | startupP1 (romOk fcrOk kat : Bool) (line us : Nat)
  /-- STARTUP_P2 (R501). -/
  | startupP2 (r : StartSet) (us : Nat)
  /-- STARTUP_P3 (R501). -/
  | startupP3 (groups : BitVec 64) (items : BitVec 9) (us : Nat)
  /-- STARTUP_P4 (R501). -/
  | startupP4 (kat readBack : Bool) (us : Nat)
  /-- STARTUP_P5 (R501). -/
  | startupP5 (us : Nat)
  /-- STARTUP_P6 (R501). -/
  | startupP6 (fs : List (Nat × WordCheck)) (us : Nat)
  /-- STARTUP_P7 (R497). -/
  | startupP7 (us : Nat)
  /-- FIELD_TILE_WATCHDOG (R220). -/
  | fieldTileWatchdog (p : Nat)
  /-- STORE_MAP_RECOVERY (R254). -/
  | storeMapRecovery (bad : Option Nat)
  /-- PCIE_LINK_UP (R322). -/
  | pcieLinkUp (width : BitVec 2) (speed : BitVec 3)
  /-- PCIE_CONFIG_WRITE (R322). -/
  | pcieConfigWrite (bme msixEn msixMask d3 : Bool)
  /-- OUTPUT_PHASE (R78). -/
  | outputPhase
  /-- STALE_IMAGE (R79). -/
  | staleImage
  /-- TICK_TIMEOUT (R173). -/
  | tickTimeout
  /-- DEBUG_HALT (R167). -/
  | debugHalt
  /-- DEBUG_RESUME (R167). -/
  | debugResume
  /-- SUP_WDOG (R174). -/
  | supWdog
  /-- PT_REPAIR (R259). -/
  | ptRepair
  /-- STORE_PARKED (R269). -/
  | storeParked
  /-- BOOT_SLOT_SELECT (R274). -/
  | bootSlotSelect
  /-- XSPI_WRITE_ENABLE (R270). -/
  | xspiWriteEnable
  /-- XSPI_RESET_ENABLE (R270). -/
  | xspiResetEnable
  /-- XSPI_RESET (R270). -/
  | xspiReset
  /-- XSPI_IGNORED (R270). -/
  | xspiIgnored
  /-- XSPI_HW_RESET (R532). -/
  | xspiHwReset
  /-- SEQ_ASSIGN (R284). -/
  | seqAssign
  /-- FLOOR_SNAPSHOT_DONE (R309). -/
  | floorSnapshotDone
  /-- GAP_RECORD (R288). -/
  | gapRecord
  /-- HOLDUP_MEAS_DUE (R298). -/
  | holdupMeasDue
  /-- HOLDUP_MEAS_POSTPONE (R298). -/
  | holdupMeasPostpone
  /-- HOLDUP_MEAS_TIMER_START (R298). -/
  | holdupMeasTimerStart
  /-- HOLDUP_MEAS_TIMEOUT (R298). -/
  | holdupMeasTimeout
  /-- SEALING_DONE (R305). -/
  | sealingDone
  /-- LMN_CLEAR (R467). -/
  | lmnClear
  /-- TAP_IDCODE (R340). -/
  | tapIdcode
  /-- TAP_CLAMP (R340). -/
  | tapClamp
  /-- TAP_HIGHZ (R340). -/
  | tapHighz
  /-- TAP_BYPASS (R340). -/
  | tapBypass
  /-- TAP_RESET (R337). -/
  | tapReset
  /-- COUNTER_START (R346). -/
  | counterStart
  /-- TILE_SNAPSHOT (R351). -/
  | tileSnapshot
  /-- ERRN_RELEASE (R381). -/
  | errnRelease
  /-- CRC_PERIODIC_CHECK (R386). -/
  | crcPeriodicCheck
  /-- KEYREC_REPAIR (R438). -/
  | keyrecRepair
  /-- PATCH_REPAIR (R441). -/
  | patchRepair
  /-- LMN_POWER_ON (R454). -/
  | lmnPowerOn
  /-- LOGIC_DEAD (R454). -/
  | logicDead
  /-- CHARGE_DONE (R484). -/
  | chargeDone
  /-- CHARGE_RESUME (R484). -/
  | chargeResume
  /-- ENTER_PARKED (R488). -/
  | enterParked
  /-- RAIL_SHUTDOWN (R488). -/
  | railShutdown
  /-- BRIDGE_LOCKOUT (R489). -/
  | bridgeLockout
  /-- MODE_TAKE_EFFECT (R495). -/
  | modeTakeEffect
  /-- STORAGE_RESET_DRAINED (R511). -/
  | storageResetDrained
  /-- IDLE_PERIODIC_INJECTION (R171). -/
  | idlePeriodicInjection
  /-- RESET_N_RELEASE (R508). -/
  | resetNRelease
  deriving DecidableEq, Repr

end Sys2Proof
end

