-- ==== Sys2Proof/Decode.lean ====
section
/-! DEFINITION. The command a table word spells. The command table of this block gives no bits to any row: a command reaches the module over a host interface, a pin or a link, each with a format of its own (R319, R333, R341), and no word names one. -/

namespace Sys2Proof

/-- The command that a word of `nbits` bits spells by the table's bits: none, since no row of the table has bits. -/
def decodeTableWord (_nbits _w : Nat) : Option Instr := none

end Sys2Proof
end

