-- ==== Sys2Proof/Machine/Bits.lean ====
section
/-! DEFINITION. Bit fields, byte order, sparse maps and CRC-32C: the helpers every register and frame of the spec is written with. -/

namespace Sys2Proof.Machine

/-- Bits [lo + w − 1 : lo] of a register, as a number (R15). -/
def bits (v : Word32) (lo w : Nat) : Nat := v.toNat / 2 ^ lo % 2 ^ w

/-- Bit n of a register (R15). -/
def bitOf (v : Word32) (n : Nat) : Bool := v.getLsbD n

/-- A register that holds `v` in bits [lo + w − 1 : lo] and 0 elsewhere. -/
def fld (lo w v : Nat) : Word32 := BitVec.ofNat 32 (v % 2 ^ w * 2 ^ lo)

/-- A register that holds one flag at bit n. -/
def flag (n : Nat) (b : Bool) : Word32 := if b then BitVec.ofNat 32 (2 ^ n) else 0

/-- A number as a register. -/
def r32 (n : Nat) : Word32 := BitVec.ofNat 32 n

/-- Bits [31:0] of a 64-bit quantity (R22). -/
def lo32 (n : Nat) : Word32 := BitVec.ofNat 32 n

/-- Bits [63:32] of a 64-bit quantity (R22). -/
def hi32 (n : Nat) : Word32 := BitVec.ofNat 32 (n / 2 ^ 32)

/-- A count that stops at 2^w − 1. -/
def satAdd (w n k : Nat) : Nat := min (n + k) (2 ^ w - 1)

/-- `n` as `k` bytes, byte 0 first (R15). -/
def leBytes : Nat → Nat → List Byte
  | 0, _ => []
  | k + 1, n => BitVec.ofNat 8 n :: leBytes k (n / 256)

/-- The number that bytes spell, byte 0 first (R15). -/
def leNat : List Byte → Nat
  | [] => 0
  | b :: t => b.toNat + 256 * leNat t

/-- `k` zero bytes. -/
def zeros (k : Nat) : List Byte := List.replicate k 0

/-- Bytes cut or filled with 0 to exactly `k`. -/
def padTo (k : Nat) (l : List Byte) : List Byte := (l ++ zeros k).take k

/-- The bytes [off, off + k) of a byte list, 0 past its end. -/
def slice (l : List Byte) (off k : Nat) : List Byte := padTo k (l.drop off)

/-- The little-endian number at an offset of a byte list. -/
def leAt (l : List Byte) (off k : Nat) : Nat := leNat (slice l off k)

/-- Register n of a byte area: bytes 4n to 4n + 3. -/
def wordAt (l : List Byte) (off : Nat) : Word32 := r32 (leAt l off 4)

/-- One step of the reflected CRC-32C over one bit (R23). -/
def crcBit (c : Word32) : Word32 := if c.getLsbD 0 then (c >>> 1) ^^^ 0x82F63B78 else c >>> 1

/-- The reflected CRC-32C over one byte (R23). -/
def crcByte (c : Word32) (b : Byte) : Word32 :=
  let x := c ^^^ (b.setWidth 32)
  crcBit (crcBit (crcBit (crcBit (crcBit (crcBit (crcBit (crcBit x)))))))

/-- CRC-32C of a byte list (R23): initial value and final XOR all ones, input and output reflected. -/
def crc32c (l : List Byte) : Word32 := (l.foldl crcByte 0xFFFFFFFF) ^^^ 0xFFFFFFFF

/-- The CRC-16 whose polynomial `p` is given in normal form and whose initial value is `i`, most significant bit first. -/
def crc16Byte (p : BitVec 16) (c : BitVec 16) (b : Byte) : BitVec 16 :=
  let step := fun (x : BitVec 16) => if x.getLsbD 15 then (x <<< 1) ^^^ p else x <<< 1
  step (step (step (step (step (step (step (step (c ^^^ (b.setWidth 16 <<< 8)))))))))

/-- The entry of a sparse map. -/
def smGet {α : Type} (m : SMap α) (k : Nat) : Option α :=
  match m with
  | [] => none
  | (j, a) :: t => if j = k then some a else smGet t k

/-- The entry of a sparse map, `d` where none is listed. -/
def smGetD {α : Type} (m : SMap α) (k : Nat) (d : α) : α := (smGet m k).getD d

/-- Write an entry, keeping the keys strictly rising. -/
def smSet {α : Type} (m : SMap α) (k : Nat) (a : α) : SMap α :=
  match m with
  | [] => [(k, a)]
  | (j, b) :: t => if j = k then (k, a) :: t else if k < j then (k, a) :: (j, b) :: t else (j, b) :: smSet t k a

/-- Remove an entry. -/
def smErase {α : Type} (m : SMap α) (k : Nat) : SMap α :=
  match m with
  | [] => []
  | (j, b) :: t => if j = k then t else (j, b) :: smErase t k

/-- Element i of a vector, `d` outside it. -/
def vGet {α : Type} {n : Nat} (v : Vector α n) (i : Nat) (d : α) : α := (v[i]?).getD d

/-- Write element i of a vector; outside it nothing is written. -/
def vSet {α : Type} {n : Nat} (v : Vector α n) (i : Nat) (a : α) : Vector α n := v.setIfInBounds i a

/-- Change element i of a vector; outside it nothing is changed. -/
def vUpd {α : Type} {n : Nat} (v : Vector α n) (i : Nat) (f : α → α) : Vector α n :=
  match v[i]? with
  | some a => v.setIfInBounds i (f a)
  | none => v

/-- Element i of a list, `d` outside it. -/
def lGet {α : Type} (l : List α) (i : Nat) (d : α) : α := (l[i]?).getD d

/-- Write element i of a list; outside it nothing is written. -/
def lSet {α : Type} (l : List α) (i : Nat) (a : α) : List α := l.set i a

/-- Set or clear one bit of a mask. -/
def setBit {n : Nat} (v : BitVec n) (i : Nat) (b : Bool) : BitVec n :=
  let m := BitVec.ofNat n (2 ^ i)
  if b then v ||| m else v &&& ~~~m

/-- How many bits of a mask are 1. -/
def popCount {n : Nat} (v : BitVec n) : Nat := ((List.range n).filter fun i => v.getLsbD i).length

/-- The lowest bit of a mask that is 1. -/
def lowestBit {n : Nat} (v : BitVec n) : Option Nat := (List.range n).find? fun i => v.getLsbD i

/-- ASCII text as bytes. -/
def ascii (t : String) : List Byte := t.toList.map fun c => BitVec.ofNat 8 c.toNat

end Sys2Proof.Machine
end

