-- ==== Sys2Proof/Machine/Crypto.lean ====
section
/-! DEFINITION. SHA-256 as FIPS 180-4 defines it (R431), over byte lists. Its constants are computed from the primes they are taken from. -/

namespace Sys2Proof.Machine

/-- The largest r below 2^b + r₀ whose k-th power does not exceed n, found bit by bit from the top. -/
def rootFloor (k n : Nat) : Nat → Nat → Nat
  | 0, r => r
  | b + 1, r => rootFloor k n b (if (r + 2 ^ b) ^ k ≤ n then r + 2 ^ b else r)

/-- The first 32 bits of the fractional part of the k-th root of n (FIPS 180-4, 4.2.2 and 5.3.3). -/
def rootFraction (k n : Nat) : Word32 := BitVec.ofNat 32 (rootFloor k (n * 2 ^ (32 * k)) 36 0)

/-- The 64 primes below 312, in rising order: a number below 19² is prime where none of the primes below 19 divides it properly. -/
def shaPrimes : List Nat :=
  (List.range 312).filter fun n => decide (2 ≤ n) && [2, 3, 5, 7, 11, 13, 17].all fun d => n == d || n % d != 0

/-- The round constants of SHA-256: cube roots of the first 64 primes. -/
def shaK : List Word32 := shaPrimes.map (rootFraction 3)

/-- The initial hash value of SHA-256: square roots of the first eight primes. -/
def shaInit : List Word32 := (shaPrimes.take 8).map (rootFraction 2)

/-- A big-endian 32-bit word of four bytes. -/
def beWord (b : List Byte) : Word32 := b.foldl (fun a x => (a <<< 8) ||| x.setWidth 32) 0

/-- The four bytes of a word, most significant first. -/
def beBytes (w : Word32) : List Byte := (leBytes 4 w.toNat).reverse

/-- The exclusive or of a word rotated right by each of the counts. -/
def xorRot (w : Word32) (l : List Nat) : Word32 := l.foldl (fun a n => a ^^^ w.rotateRight n) 0

/-- The schedule word that follows the last 16, oldest first. -/
def shaNext (w : List Word32) : Word32 :=
  let recent := lGet w 14 0
  let old := lGet w 1 0
  lGet w 0 0 + lGet w 9 0 + (xorRot old [7, 18] ^^^ (old >>> 3)) + (xorRot recent [17, 19] ^^^ (recent >>> 10))

/-- The bits of `y` where `x` is 1, those of `z` where it is 0. -/
def choose (x y z : Word32) : Word32 := z ^^^ (x &&& (y ^^^ z))

/-- The value at least two of three words have, bit by bit. -/
def majority (x y z : Word32) : Word32 := (x &&& (y ||| z)) ||| (y &&& z)

/-- One round: the eight working variables and the 16 words of the schedule, of which the round consumes the oldest. -/
def shaRound (st : List Word32 × List Word32) (k : Word32) : List Word32 × List Word32 :=
  match st with
  | ([a, b, c, d, e, f, g, h], w) =>
    let mix := h + k + lGet w 0 0 + xorRot e [6, 11, 25] + choose e f g
    ([mix + xorRot a [2, 13, 22] + majority a b c, a, b, c, d + mix, e, f, g], w.drop 1 ++ [shaNext w])
  | _ => st

/-- The first `n` words of a block. -/
def shaWords : Nat → List Byte → List Word32
  | 0, _ => []
  | n + 1, l => beWord (l.take 4) :: shaWords n (l.drop 4)

/-- The compression function. -/
def shaBlock (h : List Word32) (b : List Byte) : List Word32 :=
  List.zipWith (· + ·) h (shaK.foldl shaRound (h, shaWords 16 b)).1

/-- The message with its padding. -/
def shaPad (m : List Byte) : List Byte :=
  let n := m.length
  m ++ [0x80] ++ zeros ((119 - n % 64) % 64) ++ (leBytes 8 (8 * n)).reverse

/-- The blocks of a padded message. -/
def shaFold : Nat → List Word32 → List Byte → List Word32
  | 0, h, _ => h
  | n + 1, h, l => shaFold n (shaBlock h (l.take 64)) (l.drop 64)

/-- SHA-256 of a byte list: 32 bytes. -/
def sha256 (m : List Byte) : List Byte :=
  let p := shaPad m
  (shaFold (p.length / 64) shaInit p).flatMap beBytes

end Sys2Proof.Machine
end

