-- ==== Sys2Proof/Machine/RegMask.lean ====
section
/-! DEFINITION. The page kinds of Table HIF-2 and, for each, the writable fields of its registers and its events, as the register tables of the spec give them. -/

namespace Sys2Proof.Machine

/-- The kinds of register page (Table HIF-2). -/
inductive PageKind where
  | sys | rst | pwr | clkg | tbase | tmr | ilk | ilkl | tab | dhd | tbl | ft | sot | crc | sto | jrn | boot | pcie | mgt | fcr | ast | tch | hmk | lmn | ep | absent
  deriving DecidableEq, Repr

/-- The writable fields of a register: its RW, RWK and WO bits (Table SCP-4). -/
structure WMask where
  rw : Word32 := 0
  rwk : Word32 := 0
  wo : Word32 := 0
  deriving DecidableEq, Repr

/-- The implemented EVT_RAW bits of a page (R313). -/
def evtMask : PageKind → Word32
  | .sys => 0x1F
  | .rst => 0x7
  | .pwr => 0x3FF
  | .clkg => 0x1F
  | .tbase => 0xFFFFFFFF
  | .tmr => 0xFFFF
  | .ilk => 0x1F
  | .ilkl => 0x1F
  | .tab => 0xF
  | .dhd => 0x1F
  | .tbl => 0xFF
  | .ft => 0x1FFF
  | .sot => 0x7F7F
  | .crc => 0x3
  | .sto => 0x7F
  | .jrn => 0x1FFF
  | .boot => 0x3F
  | .pcie => 0xF
  | .mgt => 0xF
  | .fcr => 0x1F
  | .ast => 0x7F
  | .tch => 0x7F
  | .hmk => 0x1F
  | .lmn => 0x3F
  | .ep => 0x0
  | .absent => 0

/-- Registers of SYS with writable fields, by offset in the page (arrays by their first instance). -/
def masksSys (o : Nat) : WMask :=
  match o with
  | 0x40 => { rw := 0, rwk := 0xF, wo := 0 }  -- MODE_REQ
  | 0x5C => { rw := 0, rwk := 0, wo := 0xFFFFFFFF }  -- EPOCH_CLOSE
  | _ => {}

/-- Registers of RST with writable fields, by offset in the page (arrays by their first instance). -/
def masksRst (o : Nat) : WMask :=
  match o with
  | 0x44 => { rw := 0, rwk := 0xF00700FF, wo := 0 }  -- CMD
  | _ => {}

/-- Registers of PWR with writable fields, by offset in the page (arrays by their first instance). -/
def masksPwr (o : Nat) : WMask :=
  match o with
  | 0x8 => { rw := 0, rwk := 0, wo := 0x1 }  -- CTRL
  | 0x58 => { rw := 0, rwk := 0xF0000000, wo := 0 }  -- CMD
  | _ => {}

/-- Registers of CLKG with writable fields, by offset in the page (arrays by their first instance). -/
def masksClkg (o : Nat) : WMask :=
  match o with
  | 0x48 => { rw := 0x7, rwk := 0, wo := 0x80000000 }  -- CLKG.MEAS_SEL
  | 0x54 => { rw := 0x1F, rwk := 0, wo := 0 }  -- CLKG.XQ_SEL
  | _ => {}

/-- Registers of TBASE with writable fields, by offset in the page (arrays by their first instance). -/
def masksTbase (o : Nat) : WMask :=
  match o with
  | 0x100 => { rw := 0x1, rwk := 0, wo := 0 }  -- CH0_CFG
  | 0x104 => { rw := 0xFFFFFFFF, rwk := 0, wo := 0 }  -- CH0_INTERVAL
  | 0x108 => { rw := 0xFFFFFFFF, rwk := 0, wo := 0 }  -- CH0_CMP_LO
  | 0x10C => { rw := 0xFFFFFFFF, rwk := 0, wo := 0 }  -- CH0_CMP_HI
  | _ => {}

/-- Registers of TMR with writable fields, by offset in the page (arrays by their first instance). -/
def masksTmr (o : Nat) : WMask :=
  match o with
  | 0x100 => { rw := 0xFFFF170E, rwk := 0, wo := 0 }  -- T0_CFG
  | 0x104 => { rw := 0xFFFFFFFF, rwk := 0, wo := 0 }  -- T0_RELOAD
  | 0x10C => { rw := 0, rwk := 0, wo := 0x7 }  -- T0_CMD
  | _ => {}

/-- Registers of ILK with writable fields, by offset in the page (arrays by their first instance). -/
def masksIlk (o : Nat) : WMask :=
  match o with
  | 0x8 => { rw := 0, rwk := 0, wo := 0x3 }  -- ILKA.CTRL and ILKB.CTRL
  | 0x58 => { rw := 0x7, rwk := 0, wo := 0 }  -- PHASE_SEL
  | _ => {}

/-- Registers of ILKL with writable fields, by offset in the page (arrays by their first instance). -/
def masksIlkl (o : Nat) : WMask :=
  match o with
  | 0x40 => { rw := 0, rwk := 0x10F, wo := 0 }  -- ILKL.CMD
  | _ => {}

/-- Registers of TAB with writable fields, by offset in the page (arrays by their first instance). -/
def masksTab (o : Nat) : WMask :=
  match o with
  | 0x8 => { rw := 0, rwk := 0, wo := 0x1 }  -- CTRL
  | _ => {}

/-- Registers of DHD with writable fields, by offset in the page (arrays by their first instance). -/
def masksDhd (o : Nat) : WMask :=
  match o with
  | 0x8 => { rw := 0, rwk := 0, wo := 0x3 }  -- CTRL
  | _ => {}

/-- Registers of TBL with writable fields, by offset in the page (arrays by their first instance). -/
def masksTbl (o : Nat) : WMask :=
  match o with
  | 0x8 => { rw := 0, rwk := 0x2, wo := 0x1 }  -- CTRL
  | 0x44 => { rw := 0, rwk := 0xC000077F, wo := 0 }  -- HCLAIM
  | 0x4C => { rw := 0x77F, rwk := 0, wo := 0 }  -- OWN_SEL
  | _ => {}

/-- Registers of FT with writable fields, by offset in the page (arrays by their first instance). -/
def masksFt (o : Nat) : WMask :=
  if 0x40 ≤ o ∧ o ≤ 0x7C then { rw := 0, rwk := 0xF80FF37, wo := 0 } else
  match o with
  | 0x8 => { rw := 0, rwk := 0, wo := 0x3 }  -- CTRL
  | 0x90 => { rw := 0, rwk := 0x1, wo := 0 }  -- SUPPLY_CTRL
  | _ => {}

/-- Registers of SOT with writable fields, by offset in the page (arrays by their first instance). -/
def masksSot (o : Nat) : WMask :=
  if 0x40 ≤ o ∧ o ≤ 0x5C then { rw := 0, rwk := 0x1F, wo := 0 } else
  match o with
  | 0x8 => { rw := 0, rwk := 0, wo := 0x3 }  -- CTRL
  | 0x6C => { rw := 0, rwk := 0x1, wo := 0 }  -- SUPPLY_CTRL
  | _ => {}

/-- Registers of CRC with writable fields, by offset in the page (arrays by their first instance). -/
def masksCrc (o : Nat) : WMask :=
  match o with
  | 0x8 => { rw := 0x2, rwk := 0, wo := 0x1 }  -- CTRL
  | 0x40 => { rw := 0x3FFFFFFF, rwk := 0, wo := 0 }  -- ADDR
  | 0x44 => { rw := 0x3FFFFFFF, rwk := 0, wo := 0 }  -- LENGTH
  | 0x48 => { rw := 0xFFFFFFFF, rwk := 0, wo := 0 }  -- EXPECT
  | _ => {}

/-- Registers of STO with writable fields, by offset in the page (arrays by their first instance). -/
def masksSto (o : Nat) : WMask :=
  match o with
  | 0x8 => { rw := 0x1, rwk := 0, wo := 0x2 }  -- CTRL
  | 0x44 => { rw := 0, rwk := 0x10F, wo := 0 }  -- PT_CMD
  | 0x4C => { rw := 0xF, rwk := 0, wo := 0 }  -- PART_SEL
  | 0x54 => { rw := 0xFFFF, rwk := 0, wo := 0 }  -- SCRUB_CFG
  | _ => {}

/-- Registers of JRN with writable fields, by offset in the page (arrays by their first instance). -/
def masksJrn (o : Nat) : WMask :=
  match o with
  | 0x8 => { rw := 0, rwk := 0, wo := 0x3 }  -- CTRL
  | 0x58 => { rw := 0xFFFFFFFF, rwk := 0, wo := 0 }  -- SEAL_WATCH_LO
  | 0x5C => { rw := 0xFFFFFFFF, rwk := 0, wo := 0 }  -- SEAL_WATCH_HI
  | 0x60 => { rw := 0x3F, rwk := 0, wo := 0 }  -- WINDOW
  | 0x64 => { rw := 0x3F, rwk := 0, wo := 0 }  -- LOSSY_MARK
  | 0x84 => { rw := 0xFFFF, rwk := 0, wo := 0 }  -- HOLD_CFG
  | _ => {}

/-- Registers of BOOT with writable fields, by offset in the page (arrays by their first instance). -/
def masksBoot (o : Nat) : WMask :=
  match o with
  | 0x8 => { rw := 0, rwk := 0, wo := 0x3 }  -- CTRL
  | 0x40 => { rw := 0, rwk := 0xF11F1F01, wo := 0 }  -- CMD
  | _ => {}

/-- Registers of PCIE with writable fields, by offset in the page (arrays by their first instance). -/
def masksPcie (o : Nat) : WMask :=
  if 0x800 ≤ o ∧ o ≤ 0x9FC then { rw := 0xFFFFFFFF, rwk := 0, wo := 0 } else
  match o with
  | 0x8 => { rw := 0, rwk := 0, wo := 0x1 }  -- CTRL
  | 0x48 => { rw := 0x11F, rwk := 0, wo := 0 }  -- IRQ_CFG
  | 0x4C => { rw := 0, rwk := 0, wo := 0x1 }  -- EVT_ACK
  | 0x100 => { rw := 0xFFFFF000, rwk := 0, wo := 0 }  -- SQ_BASE_LO
  | 0x104 => { rw := 0xFFFFFFFF, rwk := 0, wo := 0 }  -- SQ_BASE_HI
  | 0x108 => { rw := 0xFFFFF000, rwk := 0, wo := 0 }  -- CQ_BASE_LO
  | 0x10C => { rw := 0xFFFFFFFF, rwk := 0, wo := 0 }  -- CQ_BASE_HI
  | 0x110 => { rw := 0xFFFE0F0F, rwk := 0, wo := 0 }  -- Q_CFG
  | 0x114 => { rw := 0xFFF, rwk := 0, wo := 0 }  -- SQ_TAIL
  | 0x118 => { rw := 0xFFF, rwk := 0, wo := 0 }  -- CQ_HEAD
  | 0x120 => { rw := 0xFFFF, rwk := 0, wo := 0 }  -- Q_COAL
  | _ => {}

/-- Registers of MGT with writable fields, by offset in the page (arrays by their first instance). -/
def masksMgt (o : Nat) : WMask :=
  if 0x80 ≤ o ∧ o ≤ 0xBC then { rw := 0xFFFFFFFF, rwk := 0, wo := 0 } else
  if 0x800 ≤ o ∧ o ≤ 0xFFC then { rw := 0xFFFFFFFF, rwk := 0, wo := 0 } else
  match o with
  | 0x8 => { rw := 0, rwk := 0, wo := 0x1 }  -- CTRL
  | 0xC0 => { rw := 0, rwk := 0, wo := 0x1 }  -- MBX_GO
  | _ => {}

/-- Registers of FCR with writable fields, by offset in the page (arrays by their first instance). -/
def masksFcr (o : Nat) : WMask :=
  match o with
  | 0x8 => { rw := 0, rwk := 0x2, wo := 0x1 }  -- CTRL
  | 0x40 => { rw := 0x1FF, rwk := 0, wo := 0 }  -- SRC_SEL
  | 0x44 => { rw := 0, rwk := 0xFFFFFF7F, wo := 0 }  -- SRC_CFG
  | 0x50 => { rw := 0, rwk := 0x800001FF, wo := 0 }  -- ACK
  | 0x54 => { rw := 0, rwk := 0x800001FF, wo := 0 }  -- PROMO_CLR
  | 0xE4 => { rw := 0x1F, rwk := 0, wo := 0 }  -- HQ_SEL
  | _ => {}

/-- Registers of AST with writable fields, by offset in the page (arrays by their first instance). -/
def masksAst (o : Nat) : WMask :=
  match o with
  | 0x8 => { rw := 0, rwk := 0x3, wo := 0x4 }  -- CTRL
  | 0x40 => { rw := 0x1F, rwk := 0, wo := 0 }  -- TEST_SEL
  | 0x60 => { rw := 0, rwk := 0xFFFFFF, wo := 0 }  -- PER_CFG
  | _ => {}

/-- Registers of TCH with writable fields, by offset in the page (arrays by their first instance). -/
def masksTch (o : Nat) : WMask :=
  if 0x44 ≤ o ∧ o ≤ 0x50 then { rw := 0xFFFFFFFF, rwk := 0, wo := 0 } else
  match o with
  | 0x8 => { rw := 0, rwk := 0, wo := 0x1 }  -- CTRL
  | 0x40 => { rw := 0, rwk := 0xFFFF0001, wo := 0 }  -- CMD
  | 0x6C => { rw := 0x1FF, rwk := 0, wo := 0 }  -- ROW_SEL
  | 0x80 => { rw := 0xFFFF, rwk := 0, wo := 0 }  -- CAL_SEL
  | _ => {}

/-- Registers of HMK with writable fields, by offset in the page (arrays by their first instance). -/
def masksHmk (o : Nat) : WMask :=
  match o with
  | 0x8 => { rw := 0, rwk := 0, wo := 0x1 }  -- CTRL
  | 0x6C => { rw := 0x7, rwk := 0, wo := 0 }  -- MEAS_SEL
  | _ => {}

/-- Registers of LMN with writable fields, by offset in the page (arrays by their first instance). -/
def masksLmn (o : Nat) : WMask :=
  if 0x40 ≤ o ∧ o ≤ 0x5C then { rw := 0, rwk := 0xFD, wo := 0 } else
  match o with
  | 0x8 => { rw := 0, rwk := 0x1, wo := 0 }  -- CTRL
  | 0x60 => { rw := 0, rwk := 0x7F, wo := 0 }  -- RATE
  | 0x88 => { rw := 0xFF, rwk := 0, wo := 0 }  -- ENTRY_SEL
  | _ => {}

/-- Registers of EP with writable fields, by offset in the page (arrays by their first instance). -/
def masksEp (_o : Nat) : WMask :=
  {}

/-- The writable fields of the register at an offset of a page of kind `k`. -/
def regMask (k : PageKind) (o : Nat) : WMask :=
  match k with
  | .sys => masksSys o
  | .rst => masksRst o
  | .pwr => masksPwr o
  | .clkg => masksClkg o
  | .tbase => masksTbase o
  | .tmr => masksTmr o
  | .ilk => masksIlk o
  | .ilkl => masksIlkl o
  | .tab => masksTab o
  | .dhd => masksDhd o
  | .tbl => masksTbl o
  | .ft => masksFt o
  | .sot => masksSot o
  | .crc => masksCrc o
  | .sto => masksSto o
  | .jrn => masksJrn o
  | .boot => masksBoot o
  | .pcie => masksPcie o
  | .mgt => masksMgt o
  | .fcr => masksFcr o
  | .ast => masksAst o
  | .tch => masksTch o
  | .hmk => masksHmk o
  | .lmn => masksLmn o
  | .ep => masksEp o
  | .absent => {}

end Sys2Proof.Machine
end

