-- ==== Sys2Proof/Machine/Pages.lean ====
section
/-! DEFINITION. The register pages (Table HIF-2): their numbers, kinds and identifiers, the variant's tiles, and the regions of Table ARC-2. -/

namespace Sys2Proof.Machine

/-! ## Pages (Table HIF-2) -/

abbrev pgSys : Nat := 0x00
abbrev pgRst : Nat := 0x01
abbrev pgPwr : Nat := 0x02
abbrev pgClkg : Nat := 0x03
abbrev pgTbase : Nat := 0x04
abbrev pgTmr : Nat := 0x05
abbrev pgIlkA : Nat := 0x08
abbrev pgIlkB : Nat := 0x09
abbrev pgIlkl : Nat := 0x0A
abbrev pgTab : Nat := 0x0B
abbrev pgDhd : Nat := 0x0C
abbrev pgTbl : Nat := 0x0D
abbrev pgSto : Nat := 0x20
abbrev pgJrn : Nat := 0x21
abbrev pgBoot : Nat := 0x22
abbrev pgPcie : Nat := 0x24
abbrev pgMgt : Nat := 0x25
abbrev pgFcr : Nat := 0x28
abbrev pgAst : Nat := 0x29
abbrev pgTch : Nat := 0x2A
abbrev pgHmk : Nat := 0x2B
abbrev pgLmn : Nat := 0x2C

/-- The field tiles FT0 to FT5 and the safety output tiles SOT0 and SOT1 stand at positions 0 to 7 (Table FCR-3); a GW488 has FT0 to FT2 and SOT0 (R4). -/
def tilePresent (v : Variant) (p : Nat) : Bool :=
  match v with
  | .gw968 => decide (p < 8)
  | .gw488 => decide (p < 3) || p == 6

/-- A field tile position; otherwise a safety output tile. -/
def isField (p : Nat) : Bool := decide (p < 6)

/-- The page of a tile position (R317). -/
def pgTile (p : Nat) : Nat := if p < 6 then 0x10 + p else 0x12 + p

/-- The tile position of a page of Table HIF-2. -/
def tileOfPage (pg : Nat) : Option Nat :=
  if 0x10 ≤ pg ∧ pg ≤ 0x15 then some (pg - 0x10) else if 0x18 ≤ pg ∧ pg ≤ 0x19 then some (pg - 0x12) else none

/-- The kind of a page of the fitted variant (R315, Table HIF-2). -/
def pageKind (v : Variant) (p : Nat) : PageKind :=
  match tileOfPage p with
  | some t => if tilePresent v t then (if isField t then .ft else .sot) else .absent
  | none =>
    match p with
    | 0x00 => .sys | 0x01 => .rst | 0x02 => .pwr | 0x03 => .clkg | 0x04 => .tbase | 0x05 => .tmr
    | 0x08 => .ilk | 0x09 => .ilk | 0x0A => .ilkl | 0x0B => .tab | 0x0C => .dhd | 0x0D => .tbl
    | 0x20 => .sto | 0x21 => .jrn | 0x22 => .boot | 0x24 => .pcie | 0x25 => .mgt
    | 0x28 => .fcr | 0x29 => .ast | 0x2A => .tch | 0x2B => .hmk | 0x2C => .lmn
    | _ => if 0x1C ≤ p ∧ p ≤ 0x1F then .crc else if 0x30 ≤ p ∧ p ≤ 0x3F then .ep else .absent

/-- A page that is not absent. -/
def pagePresent (v : Variant) (p : Nat) : Bool := pageKind v p != .absent

/-- Two decimal digits. -/
def twoDigits (n : Nat) : List Byte := [BitVec.ofNat 8 (48 + n / 10), BitVec.ofNat 8 (48 + n % 10)]

/-- PAGE_ID (R314): four characters, the first in bits [7:0]; 0 for an absent page. -/
def pageId (v : Variant) (p : Nat) : Word32 :=
  let t : List Byte :=
    match pageKind v p with
    | .sys => ascii "SYS0" | .rst => ascii "RST0" | .pwr => ascii "PWR0" | .clkg => ascii "CLKG"
    | .tbase => ascii "TBAS" | .tmr => ascii "TMR0"
    | .ilk => if p = 0x08 then ascii "ILKA" else ascii "ILKB"
    | .ilkl => ascii "ILKL" | .tab => ascii "TAB0" | .dhd => ascii "DHD0" | .tbl => ascii "TBL0"
    | .ft => ascii "FT" ++ twoDigits (p - 0x10)
    | .sot => ascii "SOT" ++ [BitVec.ofNat 8 (48 + (p - 0x18))]
    | .crc => ascii "CRC" ++ [BitVec.ofNat 8 (48 + (p - 0x1C))]
    | .sto => ascii "STO0" | .jrn => ascii "JRN0" | .boot => ascii "BOOT" | .pcie => ascii "PCIE" | .mgt => ascii "MGT0"
    | .fcr => ascii "FCR0" | .ast => ascii "AST0" | .tch => ascii "TCH0" | .hmk => ascii "HMK0" | .lmn => ascii "LMN0"
    | .ep => ascii "EP" ++ twoDigits (p - 0x30)
    | .absent => zeros 4
  r32 (leNat t)

/-- The Logic-region pages (Table ARC-2). -/
def logicPage (pg : Nat) : Bool :=
  [pgTbase, pgTmr, pgIlkA, pgIlkB, pgIlkl, pgTab, pgDhd, pgTbl, 0x1C, 0x1D, 0x1E, 0x1F, pgAst, pgTch, pgHmk].contains pg || (decide (0x30 ≤ pg) && decide (pg ≤ 0x3F))

/-- The blocks whose fence forces the catch points (R29): ILKA, ILKB, ILKL, TAB, DHD, TBL and TBASE. -/
def safetyPage (pg : Nat) : Bool := [pgIlkA, pgIlkB, pgIlkl, pgTab, pgDhd, pgTbl, pgTbase].contains pg

/-- The region of a page, coded as RST.CMD.REGION; 5 at chip level (Table ARC-2). -/
def regionIndex (pg : Nat) : Nat :=
  if logicPage pg then 0 else if [pgSto, pgJrn, pgBoot].contains pg then 1 else if [pgPcie, pgMgt].contains pg then 2
  else if (tileOfPage pg).isSome then 3 else if pg = pgLmn then 4 else 5

end Sys2Proof.Machine
end

