-- ==== Sys2Proof/Machine/State.lean ====
section
/-! DEFINITION. The state of the module: every register, queue, buffer, counter, mode and latch the spec gives it, as plain data.
The default of each field is its reset value; State.reset is the machine right after the power-on reset is released, before start-up phase P0. -/

namespace Sys2Proof.Machine

/-- No command of this module stops the machine: each has an effect the spec gives it, so this type is empty.
Safe: a stop that does not exist cannot hide behaviour. -/
inductive Fault where
  deriving DecidableEq, Repr

/-- Why a command is refused. -/
inductive Refusal where
  /-- Raised by Machine/Dispatch.lean for a command that has no meaning in this model; the mnemonic names it. Safe: the run stops where the hardware goes on. -/
  | notModelled (mnemonic : String)
  deriving DecidableEq, Repr

/-! ## Registers common to every page -/

/-- The writable part of a page header (Table HIF-1), the injection of Table FCR-9 and the key sequence of R19. -/
structure PageHdr where
  /-- EVT_RAW -/
  evtRaw : Word32 := 0
  /-- EVT_EN -/
  evtEn : Word32 := 0
  /-- ERR_INJ.MASK -/
  injMask : BitVec 12 := 0
  /-- ERR_INJ.COUNT -/
  injCount : BitVec 4 := 0
  /-- ERR_STAT bits [4:0]: KEY, MODE, VALUE, OWNER, WIDTH -/
  errStat : BitVec 5 := 0
  /-- ERR_STAT.OFFSET -/
  errOff : BitVec 12 := 0
  /-- ERR_STAT.IFACE -/
  errIface : Iface := .pcie
  /-- The interface that holds an open key sequence of the page (R19) -/
  key : Option Iface := none
  deriving DecidableEq, Repr

/-! ## Chip level: SYS, RST, CLKG, the fabric -/

/-- SYS (Table RST-10). -/
structure Sys where
  mode : Mode := .starting
  /-- STATUS.PHASE: 0 to 7, 15 after P7 -/
  phase : Nat := 0
  /-- The straps have been sampled (R500) -/
  sampled : Bool := false
  splitStrap : Bool := false
  splitFlag : Bool := false
  /-- The pending mode request (R495) -/
  modePend : Option Mode := none
  /-- MODE_REQ.MODE: the last request -/
  modeReq : BitVec 4 := 0
  /-- MODE_RESULT.CODE -/
  modeResult : BitVec 8 := 0
  /-- EPOCH: the latest committed epoch; the epoch counter of R54 -/
  epoch : Word32 := 0
  /-- EPOCH_TIME -/
  epochTime : Nat := 0
  /-- STARTS -/
  starts : Word32 := 0
  /-- BOOTMODE.STRAP_ERR -/
  strapErr : Bool := false
  /-- BOOTMODE.STRAP -/
  strap : BitVec 2 := 0
  /-- PHASE_END0 to PHASE_END7, in µs -/
  phaseEnd : Vector Nat 8 := Vector.replicate 8 0
  /-- P5 has loaded its calibration items (R428) -/
  calLoaded : Bool := false
  /-- The manifest check at the end of P1 failed (R427, R497) -/
  manifestBad : Bool := false
  /-- A manifest check has passed in INCOMPLETE and the exit waits for the next scan start (R427, R82) -/
  exitPend : Bool := false
  deriving DecidableEq, Repr

/-- What a region or block reset is applied to (Table RST-9). -/
inductive ResetTarget where
  | region (r : Region)
  | block (page : Nat)
  deriving DecidableEq, Repr

/-- A region or block reset that runs (R509) or waits for its records to seal (R511). -/
structure ResetRun where
  target : ResetTarget
  /-- A BRST reaction asked for it (R378) -/
  fromFcr : Bool := false
  /-- R511: the reset waits until every record admitted before is SEALED -/
  waiting : Bool := false
  deriving DecidableEq, Repr

/-- The sources of a chip reset (Table RST-8). -/
inductive ChipCause where
  | powerOn | pin | fault (src : Nat) | host | feedReturn
  deriving DecidableEq, Repr

/-- RST (Table RST-11) and the chip reset that is on its way. -/
structure Rst where
  /-- The resets that run (STATUS.BUSY) -/
  running : List ResetRun := []
  /-- CAUSE.CODE -/
  causeCode : BitVec 4 := 1
  /-- CAUSE.SOURCE -/
  causeSource : BitVec 9 := 0
  /-- CMD: the last values written -/
  cmd : Word32 := 0
  /-- CMD_RESULT.CODE -/
  cmdResult : BitVec 8 := 0
  /-- REGION_COUNT and LAST.STANDBY: Logic, Storage, Host, Field, Standby -/
  counts : Vector Nat 5 := Vector.replicate 5 0
  /-- LAST.PAGE -/
  lastPage : BitVec 8 := 0
  /-- LAST.FROM_FCR -/
  lastFromFcr : Bool := false
  /-- LAST.BLOCK -/
  lastBlock : Bool := false
  /-- LAST.REGION -/
  lastRegion : BitVec 3 := 0
  /-- The chip reset that is sealing before it is asserted (Table FCR-6, R508): its cause and the time it was asked for -/
  chip : Option (ChipCause × Nat) := none
  /-- RESET_N is held low -/
  pinLow : Bool := false
  /-- RESET_N fell during the power-fail sequence: the reset follows PARKED (R508) -/
  pinAfterPark : Bool := false
  deriving DecidableEq, Repr

/-- The states of a dual-clock queue (Table ARC-7), and ABSENT (R47). -/
inductive QState where
  | joined | severed | rejoining | absent
  deriving DecidableEq, Repr

/-- One dual-clock queue (R43 to R46). -/
structure XQueue where
  st : QState := .joined
  /-- XQ_INFO.DISCARDS -/
  discards : BitVec 16 := 0
  prodRst : Bool := false
  consRst : Bool := false
  /-- The words held, oldest first; the entry of each gives its home (R51) -/
  ents : List (BitVec 128) := []
  /-- The producer's pointer and the consumer's, in binary, modulo twice the depth; each crosses in Gray code (R43) -/
  wptr : Nat := 0
  rptr : Nat := 0
  /-- The producer's pointer as the consumer has synchronised it, and the consumer's as the producer has (R43) -/
  wSeen : Nat := 0
  rSeen : Nat := 0
  /-- The last read found the queue SEVERED: it returned empty and reported that (R44) -/
  sevRead : Bool := false
  deriving DecidableEq, Repr

/-- CLKG (Tables ARC-8 to ARC-15). -/
structure Clkg where
  /-- PLL_STAT[3:0]: SYS, TB, STO, PCIE -/
  pll : BitVec 4 := 0
  xinOk : Bool := false
  xinExt : Bool := false
  /-- MON_OK[6:0] -/
  monOk : BitVec 7 := 0
  /-- MEAS_SEL.DOMAIN -/
  measDomain : BitVec 3 := 0
  /-- The domain of a running measurement -/
  measRun : Option (BitVec 3) := none
  measValid : Bool := false
  measFreq : BitVec 24 := 0
  /-- XQ_SEL.INDEX -/
  xqSel : BitVec 5 := 0
  deriving DecidableEq, Repr

/-- A cell of a block: failures of its present transaction, and isolation (R26). -/
structure CellState where
  fails : Nat := 0
  isolated : Bool := false
  deriving DecidableEq, Repr

/-- The kinds of traffic of Table ARC-3. -/
inductive Traffic where
  /-- SAFETY: Interlocking to and from the tile link controllers -/
  | tileLink
  | tabletFrame
  | catchPoint
  /-- Double-header lockstep and rendezvous traffic -/
  | rendezvous
  /-- Fault-collector reactions -/
  | reaction
  /-- JOURNAL: records raised by the Interlocking and the fault collector -/
  | record
  /-- Payload of JOURNAL_APPEND and JOURNAL_READ commands -/
  | journalPayload
  /-- Admission-buffer drain -/
  | drain
  /-- HOST: every other PCIe and management SPI command and register access -/
  | hostAccess
  | debugAccess
  | epochRead
  /-- BACKGROUND -/
  | assay
  | scrub
  | hashing
  /-- Touchmark reads after start-up -/
  | touchmarkRead
  /-- Merging of Lengthman entries -/
  | lmnMerge
  deriving DecidableEq, Repr

/-- A burst that waits at an arbitration point or is being carried (R33, R34): its kind, the page that issued it and the page it is for, its words, how many of them this point has still to grant, and the points it has still to pass. -/
structure BusReq where
  kind : Traffic
  src : Nat
  dst : Nat
  words : Nat
  left : Nat
  route : List Nat := []
  deriving DecidableEq, Repr

/-- An arbitration point (R34, R35): the cycle of ten its slot counter stands at, the bursts that wait in the order they arrived, the burst in progress, and the requester last granted in each class. -/
structure ArbPoint where
  slot : Nat := 0
  waiting : List BusReq := []
  burst : Option BusReq := none
  turn : Vector Nat 4 := Vector.replicate 4 0xFF
  deriving DecidableEq, Repr

/-- The crossbars of Logic, Storage, Host and Field, and the fabric (R32), with the bursts delivered in the latest cycle. -/
structure Arb where
  points : Vector ArbPoint 5 := Vector.replicate 5 {}
  delivered : List BusReq := []
  deriving DecidableEq, Repr

/-- The fences and cells (R26 to R30). -/
structure Fabric where
  /-- Bit p: the fabric port of the block of page p is fenced -/
  fenced : BitVec 64 := 0
  /-- Bit p: the fenced block has been reset since its fence was set (R29, step 1) -/
  resetDone : BitVec 64 := 0
  /-- Ports fenced for a failure of Assay test 1: the fence stays until a chip reset (group B of Table AST-2) -/
  stuck : BitVec 64 := 0
  /-- Cells that have failed, keyed page × 65,536 + cell -/
  cells : SMap CellState := []
  /-- The last cell response was CELL_ISOLATED (R26) -/
  cellIsolatedResp : Bool := false
  /-- The cell each block's own round-robin arbitration granted last (Table ARC-1), by page -/
  turns : SMap Nat := []
  deriving DecidableEq, Repr

/-! ## TBASE and TMR -/

/-- A write to a compare channel that is crossing to CLK_TB (R356). -/
inductive CmpWrite where
  | cfg (en : Bool)
  | interval (v : Word32)
  | compare (v : Word64)
  deriving DecidableEq, Repr

/-- A toggle crossing as its source sees it (R40, R41): the CLK_TB cycle in which it may send again, and the one-deep pending flag. -/
structure Crossing where
  freeAt : Nat := 0
  held : Bool := false
  deriving DecidableEq, Repr

/-- One compare channel (R353). -/
structure CmpChan where
  en : Bool := false
  cmp : Word64 := 0
  interval : Word32 := 0
  matchTime : Word64 := 0
  matchCnt : BitVec 8 := 0
  merged : Bool := false
  late : Bool := false
  /-- STAT.WR_PEND, with the write that crosses -/
  wrPend : Option CmpWrite := none
  /-- The CMP_LO each interface has staged (R356) -/
  staged : Vector Word32 3 := Vector.replicate 3 0
  /-- The crossing that carries its matches to EVT_RAW (R353) -/
  cross : Crossing := {}
  deriving DecidableEq, Repr

/-- A write to a timer that is crossing to CLK_TB (R361). -/
inductive TmrWrite where
  | cfg (v : Word32)
  | reload (v : Word32)
  | cmd (start stop clear : Bool)
  deriving DecidableEq, Repr

/-- One general timer (R358). -/
structure Tmr where
  prescale : BitVec 16 := 0
  dbgFreeze : Bool := false
  master : BitVec 3 := 0
  /-- CFG.SLAVE: FREE, GATED, TRIGGERED, CLOCKED -/
  slave : BitVec 2 := 0
  oneshot : Bool := false
  reload : Word32 := 0xFFFFFFFF
  count : Word32 := 0
  run : Bool := false
  /-- CLK_TB cycles the prescaler has counted since its last tick or restart -/
  presc : Nat := 0
  wrPend : Option TmrWrite := none
  /-- The COUNT each interface has latched (R362) -/
  latch : Vector Word32 3 := Vector.replicate 3 0
  /-- The crossings that carry WRAP and OVERRUN to EVT_RAW (R359) -/
  wrapX : Crossing := {}
  ovrX : Crossing := {}
  deriving DecidableEq, Repr

/-- The Station clock, its views and TBASE (Table TB-4). -/
structure Tbase where
  /-- STATUS.RUNNING -/
  running : Bool := false
  counter : Nat := 0
  /-- The system view (R350) -/
  view : Nat := 0
  viewOk : Bool := false
  /-- The sequence number of the last snapshot that reached CLK_SYS -/
  viewSeq : Option (BitVec 8) := none
  /-- Snapshots in sequence since the start or the last break -/
  viewGood : Nat := 0
  /-- STATUS.SNAP_SEQ -/
  snapSeq : BitVec 8 := 0
  /-- The tile snapshot register -/
  snapTime : Nat := 0
  chans : Vector CmpChan 32 := Vector.replicate 32 {}
  deriving DecidableEq, Repr

/-! ## FCR and the check units -/

/-- One fault source: its configuration (SRC_CFG) and its history (R375, R376, R384). -/
structure Src where
  cls : Nat
  n : Nat
  w : Nat
  react : BitVec 4
  errn : Bool := false
  /-- Promotions held -/
  promo : Nat := 0
  /-- c of R375 -/
  c : Nat := 0
  /-- t0 of R375 -/
  t0 : Nat := 0
  /-- 0 none, 2 contained, 3 fatal -/
  pending : Nat := 0
  /-- SRC_CNT -/
  cnt : Nat := 0
  /-- The millisecond of the last entry journalled (R384) -/
  lastMs : Option Nat := none
  /-- Entries withheld from the journal since -/
  withheld : Nat := 0
  deriving DecidableEq, Repr

/-- A history queue entry (Table FCR-7). -/
structure HistEntry where
  time : Nat
  epoch : Word32
  src : Nat
  cls : Nat
  coincident : Bool
  promoted : Bool
  escalated : Bool
  injected : Bool
  synd : Word32
  detail : Word32
  count : Nat
  react : BitVec 8
  seq : Word32
  deriving DecidableEq, Repr

/-- FCR (Table FCR-11). -/
structure Fcr where
  /-- Detections on their way to the collector (R370, R371), oldest first -/
  inbox : List Report := []
  /-- Sources whose state differs from the reset configuration of Tables FCR-2 and FCR-3, by number -/
  srcs : SMap Src := []
  srcSel : BitVec 9 := 0
  /-- ACK.SOURCE: the last value written -/
  ackSource : BitVec 9 := 0
  /-- PROMO_CLR.SOURCE: the last value written -/
  promoSource : BitVec 9 := 0
  /-- The last 32 entries, newest first -/
  hist : List HistEntry := []
  /-- HQ_TOTAL: entries recorded since chip reset -/
  total : Word32 := 0
  hqSel : BitVec 5 := 0
  hqData : List Byte := []
  /-- The capture met an uncorrectable word: HQ_DATA reads 0, with the poisoned bit or UNCORR (R387) -/
  hqUnc : Bool := false
  ff : Option HistEntry := none
  /-- ERR_N is driven low -/
  errn : Bool := true
  /-- When ERR_N went low -/
  errnSince : Nat := 0
  /-- The 1 ms holds of corrected events and ERRN_TEST end here -/
  errnHold : Nat := 0
  /-- The collector's own check in P1 has not ended (R381) -/
  errnCheck : Bool := true
  /-- TRAP reactions raised and not yet taken by the Double-header, oldest first: source and class -/
  traps : List (Nat × Nat) := []
  deriving DecidableEq, Repr

/-- One check unit (Table FCR-10). -/
structure CrcUnit where
  cmpEn : Bool := false
  err : BitVec 2 := 0
  isMatch : Bool := false
  done : Bool := false
  busy : Bool := false
  addr : BitVec 30 := 0
  length : BitVec 30 := 0
  expect : Word32 := 0
  result : Word32 := 0
  deriving DecidableEq, Repr

/-! ## PCIE, MGT0, the debug port and the console -/

/-- A completion entry (Table HIF-7), without CID and INFO. -/
structure Cpl where
  result : BitVec 8
  count : Nat := 0
  value : Nat := 0
  /-- Data for the host buffer (READ, JOURNAL_READ, ATTEST) -/
  data : List Byte := []
  deriving DecidableEq, Repr

/-- How far a host command in flight has come. -/
inductive CmdStage where
  /-- fetched and checked (R328, checks 1 to 3) -/
  | fetched
  /-- waiting for locks, records or a signature -/
  | waiting
  /-- its completion is decided and not yet posted -/
  | decided (c : Cpl)
  deriving DecidableEq, Repr

/-- A host command in flight (R324). -/
structure Cmd where
  id : CmdId
  desc : Desc
  stage : CmdStage := .fetched
  /-- A PCIe reset has abandoned its completion (R322, step 3) -/
  orphan : Bool := false
  deriving DecidableEq, Repr

/-- The states of a submission queue (Table HIF-9). -/
inductive SqState where
  | disabled | running | draining | error
  deriving DecidableEq, Repr

/-- A submission queue and its completion queue (queue block of Table HIF-12). -/
structure Sq where
  st : SqState := .disabled
  sqBase : Word64 := 0
  cqBase : Word64 := 0
  /-- EN as last written (R330, third rule) -/
  en : Bool := false
  ien : Bool := false
  vec : BitVec 5 := 0
  /-- QMAX − 1 -/
  qmax : BitVec 8 := 0xFF
  cqLog : BitVec 4 := 6
  sqLog : BitVec 4 := 6
  tail : BitVec 12 := 0
  cqHead : BitVec 12 := 0
  cqTail : BitVec 12 := 0
  head : BitVec 12 := 0
  /-- Entries posted and not freed by the host -/
  used : Nat := 0
  /-- PHASE of the present pass -/
  phase : Bool := true
  /-- Q_STAT.ERR -/
  err : BitVec 4 := 0
  coalTime : BitVec 8 := 0
  coalCount : BitVec 8 := 0
  /-- Entries posted since the last message (R331) -/
  unsent : Nat := 0
  deriving DecidableEq, Repr

/-- One MSI-X table entry: address, upper address, data, vector control. -/
structure Msix where
  addr : Word32 := 0
  upper : Word32 := 0
  data : Word32 := 0
  ctrl : Word32 := 1
  deriving DecidableEq, Repr

/-- What the module has written to host memory or reported to the host, oldest first. -/
inductive HostOut where
  /-- A memory write of the module (completion entry, command data) -/
  | write (addr : Nat) (data : List Byte)
  /-- An MSI-X message -/
  | message (vec : Nat) (addr data : Nat)
  /-- A BAR read completion: status successful, its data and the poisoned bit -/
  | readData (data : List Byte) (ep : Bool)
  /-- An Unsupported Request reported under AER -/
  | unsupported
  deriving DecidableEq, Repr

/-- PCIE (Table HIF-12) and the PCIe function. -/
structure Pcie where
  linkUp : Bool := false
  width : BitVec 2 := 0
  speed : BitVec 3 := 0
  bme : Bool := false
  msixEn : Bool := false
  /-- MSI-X Function Mask -/
  msixMask : Bool := false
  /-- The function is in D3hot -/
  d3 : Bool := false
  evtIen : Bool := false
  evtVec : BitVec 5 := 0
  bar2Unbacked : Nat := 0
  discardCpl : Nat := 0
  sqs : Vector Sq 4 := Vector.ofFn fun q => { vec := BitVec.ofNat 5 q.val }
  msix : Vector Msix 32 := Vector.replicate 32 {}
  pba : Word32 := 0
  /-- The queue the next fetch looks at first (R324) -/
  rr : Nat := 0
  /-- Commands in flight, oldest first -/
  cmds : List Cmd := []
  /-- What has left towards the host -/
  out : List HostOut := []
  deriving DecidableEq, Repr

/-- MGT0 (Table HIF-15). -/
structure Mgt where
  mode3 : Bool := false
  frames : Nat := 0
  crcErrs : Nat := 0
  aborts : Nat := 0
  lastStat : BitVec 8 := 0
  mbxDesc : Vector Word32 16 := Vector.replicate 16 0
  mbxCpl : Vector Word32 4 := Vector.replicate 4 0
  /-- MBX_DATA words that are not 0 -/
  mbxData : SMap Word32 := []
  mbxBusy : Bool := false
  /-- The bytes the module drove in the last frame, from SYNC on -/
  resp : List Byte := []
  deriving DecidableEq, Repr

/-- The TAP instructions (Table HIF-14). -/
inductive TapIr where
  | extest | samplePreload | idcode | clamp | highz | regAccess | bypass
  deriving DecidableEq, Repr

/-- Debug access and boundary scan (R340, R341). -/
structure Dbg where
  ir : TapIr := .idcode
  /-- The boundary register as last preloaded -/
  boundary : List Bool := []
  /-- The pins drive from the boundary register (EXTEST, CLAMP), or are high impedance (HIGHZ) -/
  pinsScan : Bool := false
  pinsHighz : Bool := false
  /-- The capture register (R341): ERROR, the last address, the data of the last read. BUSY is 0 between two commands. -/
  error : Bool := false
  addr : BitVec 20 := 0
  data : Word32 := 0
  deriving DecidableEq, Repr

/-- The UART console (R342). -/
structure Uart where
  /-- Bytes waiting in the 512-byte queue -/
  queued : Nat := 0
  /-- MGT0.UART_DROP -/
  drop : Nat := 0
  deriving DecidableEq, Repr

/-! ## The journal records every block raises -/

/-- A journal record as it is handed to the engine (Table JRN-1): SEQ is given later (R284). -/
structure Rec where
  seq : Nat := 0
  time : Nat
  epoch : Word32
  source : Nat
  cls : Nat
  lossy : Bool := false
  uncovered : Bool := false
  coincident : Bool := false
  divergent : Bool := false
  payload : List Byte
  deriving DecidableEq, Repr

/-! ## The Interlocking: ILKA, ILKB, ILKL, TAB, DHD -/

/-- An edge entry (Table ILK-3). -/
structure Edge where
  time : Nat
  pin : Nat
  level : Bool
  deriving DecidableEq, Repr

/-- A sample vector (Table ILK-2), held in true form. -/
structure SampleVec where
  epoch : Word32 := 0
  chan : Chan := .a
  edgeOvf : Bool := false
  stale : BitVec 8 := 0
  st : BitVec 112 := 0
  valid : BitVec 112 := 0
  own : BitVec 112 := 0
  edges : List Edge := []
  deriving DecidableEq, Repr

/-- A reference of a block descriptor (Table FB-3): KIND 0 boolean, 1 word, 2 pin, 3 NONE. -/
structure Ref where
  index : Nat
  prev : Bool
  kind : Nat
  neg : Bool
  deriving DecidableEq, Repr

/-- A block descriptor (Table FB-2), its references and its parameters. -/
structure Blk where
  typ : Nat
  var : Nat
  sb : Nat
  wb : Nat
  words : Nat
  refs : List Ref
  params : List Nat
  deriving DecidableEq, Repr

/-- An entry of the CLAIMS section (Table TBL-5). -/
structure Claim where
  kind : Nat
  index : Nat
  use : Nat
  source : Nat
  tperiod : Nat
  foff : Nat
  soff : Nat
  width : Nat
  reservedZero : Bool := true
  deriving DecidableEq, Repr

/-- An entry of the JOURNAL_MAP section (Table JRN-3). -/
structure JEntry where
  group : Nat
  kind : Nat
  index : Nat
  trigger : Nat
  cls : Nat
  deriving DecidableEq, Repr

/-- An entry of the CONSTANTS section (Table ILK-7a). -/
structure Const where
  kind : Nat
  index : Nat
  value : BitVec 16
  deriving DecidableEq, Repr

/-- What the OUTPUT_MAP section says (R78, R214): the boolean signal that drives each of the 112 pins, none where it drives none, and the re-arm signal of each tile position. -/
structure OutMap where
  drive : List (Option Nat) := []
  rearm : List (Option Nat) := []
  deriving DecidableEq, Repr, Inhabited

/-- An interlocking table, as an evaluator holds it. -/
structure Table where
  gen : Nat := 0
  scanUs : Nat := 0
  minVariant : Nat := 0
  keySlot : Nat := 0
  boolUsed : Nat := 0
  wordUsed : Nat := 0
  jmapRecords : Nat := 0
  cost : Nat := 0
  hash : List Byte := []
  pins : List Word32 := []
  blocks : List Blk := []
  orderB : List Nat := []
  mask : BitVec 8320 := 0
  out : OutMap := {}
  claims : List Claim := []
  jmap : List JEntry := []
  consts : List Const := []
  /-- The table-memory image of R86 -/
  image : List Byte := []
  deriving DecidableEq, Repr

/-- The states of a dual-contact pair (R124), and of a two-hand button (Table FB-11). -/
inductive PairState where
  | healthy | demand | disagree
  deriving DecidableEq, Repr

/-- A dual-contact pair or a two-hand button (R125, R137): its judged state, ARMED, FLT, and the opening time of its discrepancy window. -/
structure Pair where
  st : PairState := .healthy
  armed : Bool := false
  flt : Bool := false
  win : Option Nat := none
  /-- PAIR_OK as last judged -/
  ok : Bool := false
  /-- The button became ACTUATED in the attempt that runs (R138) -/
  act : Bool := false
  /-- A change has been seen whose edge entry has not arrived (R118) -/
  early : Bool := false
  deriving DecidableEq, Repr

/-- What a block keeps of one input that references a pin: the judged level and validity of each channel's sample (R117, R118). -/
structure PinMem where
  levelA : Bool := false
  validA : Bool := false
  levelB : Bool := false
  validB : Bool := false
  deriving DecidableEq, Repr

/-- The internal state of a block. Its flags and times stand in the block's state signals (R115), which are read back in each scan; beside them stand only the samples judged so far, with what follows from them. -/
structure BlkMem where
  /-- The judged inputs that events change, in reference order -/
  pins : List PinMem := []
  /-- The pair of ESTOP, LCURT, GUARD, ENAB; button 1 of TWOH -/
  p1 : Pair := {}
  /-- Button 2 of TWOH -/
  p2 : Pair := {}
  f1 : Bool := false
  f2 : Bool := false
  f3 : Bool := false
  f4 : Bool := false
  f5 : Bool := false
  t1 : Nat := 0
  t2 : Nat := 0
  t3 : Nat := 0
  deriving DecidableEq, Repr

/-- The states of an evaluator (Table ILK-16). -/
inductive EvalState where
  | noTable | loading | halted | scanning
  deriving DecidableEq, Repr

/-- One evaluator: ILKA or ILKB (Tables ILK-17 to ILK-27) and its memories. -/
structure Ilk where
  st : EvalState := .noTable
  /-- STATUS.PHASE: 0 Sample to 5 Tail, 7 not scanning -/
  phase : Nat := 0
  lastEpoch : Word32 := 0
  tripPhase : Nat := 0
  tripCause : Nat := 0
  tripEpoch : Word32 := 0
  /-- MISMATCH -/
  mismatch : Option Nat := none
  /-- DIV_INFO -/
  divInfo : Option Nat := none
  divCount : Nat := 0
  phaseSel : BitVec 3 := 0
  /-- Durations of the phases Sample to Tail: of the scan in progress, of the last committed scan, and the longest -/
  phaseCur : Vector Nat 6 := Vector.replicate 6 0
  phaseLast : Vector Nat 6 := Vector.replicate 6 0
  phaseMax : Vector Nat 6 := Vector.replicate 6 0
  blocksExec : Nat := 0
  tblCrc : Word32 := 0
  /-- The table memory -/
  table : Option Table := none
  /-- The signal memory, in the channel's encoding (Table ILK-1) -/
  bools : BitVec 4096 := 0
  words : Vector (BitVec 16) 256 := Vector.replicate 256 0
  /-- The values committed in the previous epoch, in the channel's encoding -/
  prevBools : BitVec 4096 := 0
  prevWords : Vector (BitVec 16) 256 := Vector.replicate 256 0
  /-- The internal state of the blocks, in compiled order -/
  mem : List BlkMem := []
  /-- The channel's own sample vector, and the other channel's as delivered -/
  own : SampleVec := {}
  other : SampleVec := {}
  digest : Word32 := 0
  /-- Word 64 of the result vector (Table ILK-4) -/
  word64 : BitVec 128 := 0
  /-- The other channel's result vector as delivered -/
  otherResult : Option (BitVec 8320) := none
  /-- The other channel's VERDICT frame as delivered: TRIP -/
  otherVerdict : Option Bool := none
  /-- Scan time S (R116) -/
  scanTime : Nat := 0
  /-- The next scan is the first since SCANNING was entered (R123) -/
  first : Bool := true
  /-- Blocks executed so far in the scan in progress -/
  execNow : Nat := 0
  /-- Signal-memory words to rewrite in the Tail (R80, step 3) -/
  rewrite : List Nat := []
  /-- The next table-memory word to scrub (R80, step 4) -/
  scrub : Nat := 0
  /-- The inbound area of 68 words, with their check bits (R175), and the position of the next frame this receiver expects (R178) -/
  inbound : List (BitVec 140) := []
  rxNext : Nat := 1
  /-- Blocks have run in the scan in progress -/
  ran : Bool := false
  deriving DecidableEq, Repr

/-- A command image of one channel (Table ILK-6): safety output commands of SOT0 and SOT1, general output commands of FT0 to FT5, its epoch, and when it was written. -/
structure Image where
  epoch : Word32 := 0
  at_ : Nat := 0
  sot : BitVec 16 := 0
  field : BitVec 96 := 0
  /-- Re-arm signals of the output map that are TRUE, by tile position (R214) -/
  rearm : BitVec 8 := 0
  deriving DecidableEq, Repr

/-- A trip cause detected in the scan that is in progress or about to begin (R92). -/
structure Cause where
  code : Nat
  phase : Nat
  chan : Nat
  detail : Nat := 0xFFFFFF
  deriving DecidableEq, Repr

/-- A loader command that runs (R103): its OP, the copy it works on, the result its checks gave, the table it installs, and whether a loss of power has stopped its copying (R105). -/
structure LoaderRun where
  op : Nat
  copy : Nat := 0
  result : Nat := 0
  table : Option Table := none
  torn : Bool := false
  deriving DecidableEq, Repr

/-- ILKL (Tables ILK-28 to ILK-35) and the scan the two evaluators share. -/
structure Ilkl where
  run : Option LoaderRun := none
  /-- CMD: OP and COPY as last written -/
  cmdOp : BitVec 4 := 0
  cmdCopy : Bool := false
  result : Nat := 0
  copyOk : Vector Bool 2 := Vector.replicate 2 false
  /-- The active copy (STATUS.ACTIVE_COPY reads 0 where there is none) -/
  active : Option Nat := none
  /-- GENERATION of the table the active copy was installed with (R103, INSTALL) -/
  activeGen : Nat := 0
  /-- The trip latch and its record -/
  trip : Bool := false
  cause : Nat := 0
  causePhase : Nat := 0
  causeChan : Nat := 0
  tripEpoch : Word32 := 0
  tripTime : Nat := 0
  tripSet : Word32 := 0
  tripCount : Nat := 0
  /-- CLEAR_TRIP has been accepted and acts at the next scan start (R95) -/
  clearPend : Bool := false
  /-- A trip cause was detected since CLEAR_TRIP was accepted -/
  clearBroken : Bool := false
  /-- TEST_TRIP acts at the end of the next Compare phase -/
  testPend : Bool := false
  /-- The latest committed epoch detected a trip cause -/
  lastTripped : Bool := false
  /-- The SYNC that follows a start-up with one good copy (Table ILK-15) -/
  syncAfterP7 : Bool := false
  /-- A scan is in progress -/
  scanning : Bool := false
  /-- The epoch of the scan in progress has committed -/
  committed : Bool := false
  /-- Scans since SCANNING was entered (R173: the first pulse is not checked) -/
  ticks : Nat := 0
  /-- A tick arrived before the Tail ended (R80) -/
  tickPend : Bool := false
  /-- CLK_SYS cycle of the scan in which the present phase began -/
  phaseStart : Nat := 0
  /-- Causes detected in the epoch in progress, and the set of the previous epoch (R369) -/
  causes : List Cause := []
  prevCauses : Word32 := 0
  /-- The verdict of the last compare: 0 PASS, 1 TRIP, 2 NOT_COMPARED -/
  verdict : Nat := 0
  /-- A trip latch cleared in the epoch in progress: TRIP_COUNT and the epoch it was set in, for the CLEAR record -/
  cleared : Option (Nat × Word32) := none
  /-- RRI and EDM blocks start anew in the next Evaluate (R95, R499) -/
  restart : Bool := false
  /-- The scan in progress records every group with a trigger (R286) -/
  firstRecords : Bool := true
  imgA : Image := {}
  imgB : Image := {}
  /-- The match of compare channel 0 that began the scan, in 50 ns units (R116) -/
  scanS : Nat := 0
  /-- The inbound frames the channels took in the Sample phase, 72 bytes for each tile position (R338) -/
  frames : List (List Byte) := []
  deriving DecidableEq, Repr

/-- TAB (Table DHD-9), its mailboxes and its frame checkers. -/
structure Tab where
  split : Bool := false
  /-- STATUS.PHASE -/
  phase : Nat := 7
  cmpFail : Bool := false
  injDone : Bool := false
  framesAB : Nat := 0
  framesBA : Nat := 0
  /-- FAIL_INFO and FAIL_EPOCH -/
  failInfo : Option Word32 := none
  failEpoch : Word32 := 0
  injFail : BitVec 9 := 0
  pinjRounds : Nat := 0
  pinjBit : Nat := 0
  /-- The next position expected from A and from B (R178) -/
  posA : Nat := 0
  posB : Nat := 0
  /-- A frame of this direction has failed in this scan -/
  failedA : Bool := false
  failedB : Bool := false
  /-- The header of a barrier frame that waits for the other channel's -/
  waitA : Option (BitVec 128) := none
  waitB : Option (BitVec 128) := none
  /-- The A-to-B and the B-to-A mailbox, of 128 words with their check bits (R175) -/
  mbxAB : List (BitVec 140) := []
  mbxBA : List (BitVec 140) := []
  /-- The last mailbox write completed with an error response (R182) -/
  writeErr : Bool := false
  deriving DecidableEq, Repr

/-- DHD (Table DHD-8). -/
structure Dhd where
  split : Bool := false
  cmpFail : Bool := false
  frozen : Bool := false
  injDone : Bool := false
  lockstep : Bool := false
  /-- MISM_INFO: PINJ, GROUP, and the values of the two cores -/
  mism : Option (Bool × Nat × BitVec 16 × BitVec 16) := none
  mismTime : Nat := 0
  injFail : BitVec 64 := 0
  pinjRounds : Nat := 0
  pinjGroup : Nat := 0
  pinjBit : Nat := 0
  tickLast : Nat := 0
  /-- TICK was raised for want of a pulse in the interval in progress -/
  tickOut : Bool := false
  tickMin : Nat := 0xFFFFF
  tickMax : Nat := 0
  haltRefused : Nat := 0
  /-- Both cores are halted for debug -/
  halted : Bool := false
  /-- When the supervision routine last refreshed the supervisor watchdog (R174) -/
  wdogAt : Nat := 0
  /-- SUP_WDOG has been raised since the last refresh -/
  wdogOut : Bool := false
  /-- Interrupt lines waiting at the rendezvous register, and the last trap or line each core took -/
  lines : BitVec 32 := 0
  tookA : Option (Option Nat) := none
  tookB : Option (Option Nat) := none
  /-- A core has stopped on a fatal trap (R183) -/
  stopped : Bool := false
  /-- The 256 KiB of TCM (R156): bytes in the canonical form, an unlisted one 0 as test 5 of Assay leaves it (R391) -/
  tcm : List Host.Cell := []
  /-- The read data the rendezvous register captured last (R164) -/
  readData : BitVec 128 := 0
  deriving DecidableEq, Repr

/-- A completed epoch buffer (R56): what the EPOCH window shows. -/
structure EpochBuf where
  epoch : Word32
  time : Nat
  /-- The 2,768 bytes of the SNAPSHOT payload of Table JRN-4 -/
  body : List Byte
  /-- 72 bytes of inbound frames for each of the eight tile positions (R338) -/
  frames : List (List Byte)
  crc : Word32
  deriving DecidableEq, Repr

/-- The five epoch buffers and the pins of the three interfaces (R56, R57). -/
structure Epochs where
  bufs : Vector (Option EpochBuf) 5 := Vector.replicate 5 none
  latest : Option Nat := none
  pins : Vector (Option Nat) 3 := Vector.replicate 3 none
  deriving DecidableEq, Repr

/-! ## Tiles and their link controllers -/

/-- Supply states (Table FT-14). -/
inductive Supply where
  | qualifying | ready | armed
  deriving DecidableEq, Repr

/-- An edge in a tile's capture queue (R206): the pin or output of the tile, the sense path, and the tile time. -/
structure TileEdge where
  pin : Nat
  path : Chan
  level : Bool
  time : Nat
  deriving DecidableEq, Repr

/-- An outbound frame on the link (Tables FT-2 and FT-5): `cmd`, `dark` and `light` are OUT_CMD, TP_MASK and TSRC for a field tile. -/
structure OutFrame where
  alive : BitVec 8
  cmd : BitVec 16
  dark : BitVec 16
  light : BitVec 16
  rearm : Bool
  ackFresh : Bool
  cfgIdx : Nat
  cfgWord : Word32
  snapTime : Nat
  snapSeq : BitVec 8
  rbPin : Nat
  rbUse : Nat
  epoch : BitVec 16
  /-- The Station-clock count at which its comma left the logic side -/
  sentAt : Nat
  deriving DecidableEq, Repr

/-- An inbound frame (Tables FT-3 and FT-6). For a safety output tile side `stA` holds OUTV, `stB` SW, and `applied` APPLIED. -/
structure InFrame where
  alive : BitVec 8 := 0
  capt : Nat := 0
  stA : BitVec 16 := 0
  stB : BitVec 16 := 0
  valid : BitVec 16 := 0
  rb : BitVec 16 := 0
  applied : BitVec 16 := 0
  ovl : BitVec 16 := 0
  supp : BitVec 8 := 0
  volt : BitVec 12 := 0
  band : Band := .missing
  supply : Supply := .qualifying
  needRearm : Bool := false
  fresh : Bool := false
  wdogHold : Bool := false
  tempOff : Bool := false
  tileOvl : Bool := false
  backlog : Bool := false
  pulseLong : Bool := false
  rearmEarly : Bool := false
  echo : BitVec 8 := 0
  snapEcho : BitVec 8 := 0
  temp : BitVec 8 := 0
  cfgCrc : Word32 := 0
  lost : BitVec 16 := 0
  edges : List TileEdge := []
  /-- The time counter has been set since the link came up (R196): on no lane, but behind every VALID bit -/
  timed : Bool := false
  deriving DecidableEq, Repr

/-- The tile-side logic of a field tile, or of one side of a safety output tile. -/
structure Side where
  /-- The reference of the outbound stream's ALIVE, and this side's own inbound counter (R191) -/
  aliveRef : Option (BitVec 8) := none
  alive : BitVec 8 := 0
  fresh : Bool := true
  supply : Supply := .qualifying
  needRearm : Bool := false
  band : Band := .missing
  volt : BitVec 12 := 0
  temp : BitVec 8 := 25
  tempOff : Bool := false
  wdogHold : Bool := false
  tileOvl : Bool := false
  pulseLong : Bool := false
  rearmEarly : Bool := false
  /-- The commands and pulses of the last accepted frame -/
  cmd : BitVec 16 := 0
  dark : BitVec 16 := 0
  light : BitVec 16 := 0
  /-- Pulses the tile's pulse timer has ended (R209, R218) -/
  ended : BitVec 16 := 0
  ovl : BitVec 16 := 0
  /-- Filtered levels of the sense paths A and B; OUTV on a safety output tile side -/
  fltA : BitVec 16 := 0
  fltB : BitVec 16 := 0
  /-- When each filtered level last changed (R203) -/
  fltAtA : Vector Nat 16 := Vector.replicate 16 0
  fltAtB : Vector Nat 16 := Vector.replicate 16 0
  rb : BitVec 16 := 0
  rbPin : Nat := 0
  rbUse : Nat := 0
  /-- The applied configuration -/
  cfg : Vector Word32 16 := Vector.replicate 16 0
  /-- The time counter: the Station-clock count at which it read `timeVal`; none while unset (R196) -/
  timeAt : Option Nat := none
  timeVal : Nat := 0
  /-- A snapshot has been applied since the link came up (R196) -/
  snapped : Bool := false
  snapEcho : BitVec 8 := 0
  echo : BitVec 8 := 0
  capt : List TileEdge := []
  lost : BitVec 16 := 0
  /-- When a frame was last accepted, or the logic last reset (R197, R217, R220) -/
  acceptAt : Nat := 0
  /-- When the frame before that one was accepted, and when the watchdog's hold was last set (R217) -/
  acceptPrev : Nat := 0
  holdAt : Option Nat := none
  /-- The junction has risen above its shutdown temperature and not fallen below 145 °C since (R220) -/
  hot : Bool := false
  /-- When the supply entered the Normal band, and when it fell below the trip threshold (R213) -/
  normalAt : Option Nat := none
  belowAt : Option Nat := none
  /-- The last time below the trip threshold: when it began and ended; and when a re-arm was last accepted (R213) -/
  belowWas : Option (Nat × Nat) := none
  armedAt : Option Nat := none
  /-- The period, by the time its frames were latched, of the last REARM of this stream (R214: both streams must carry it in one period) -/
  rearmSeen : Option Nat := none
  /-- The switches of the other side sensed closed, and the light pulses suppressed since the previous inbound frame (R218) -/
  otherOn : BitVec 16 := 0
  suppNow : BitVec 16 := 0
  deriving DecidableEq, Repr

/-- A tile: a field tile uses side `a` only. -/
structure Tile where
  a : Side := {}
  b : Side := {}
  deriving DecidableEq, Repr

/-- An entry of the tile FIFO (R207): the edge in pin indices, and the sense path it came from. -/
structure FifoEdge where
  edge : Edge
  path : Chan
  deriving DecidableEq, Repr

/-- One stream of a link controller: its counters, its frames on the wire and its latest accepted inbound frame. -/
structure Stream where
  /-- ALIVE of the last outbound frame sent -/
  alive : BitVec 8 := 0
  /-- Reference of the inbound stream -/
  aliveRef : Option (BitVec 8) := none
  /-- The outbound frame on its way to the tile, and the inbound frame on its way from it -/
  out : Option OutFrame := none
  inb : Option InFrame := none
  /-- The latest accepted inbound frame and when it was received -/
  last : InFrame := {}
  lastAt : Option Nat := none
  aliveErr : Nat := 0
  crcErr : Nat := 0
  /-- ACK_FRESH is sent in the next frame -/
  ackFresh : Bool := false
  /-- A FRESH still to come follows a tile reset that the controller caused or expected (R199) -/
  expectFresh : Bool := true
  /-- The image of this stream went stale and its frames have stopped (R79) -/
  stale : Bool := false
  deriving DecidableEq, Repr

/-- A tile's link controller: FTt (Table FT-18) or SOTs (Table FT-19). -/
structure Link where
  up : Bool := false
  /-- Consecutive inbound frames accepted (R195) -/
  streak : Nat := 0
  a : Stream := {}
  b : Stream := {}
  /-- PINCFG0 to 15, or OUTCFG0 to 7 -/
  cfg : Vector Word32 16 := Vector.replicate 16 0
  /-- The next configuration slot (R198) -/
  slot : Nat := 0
  /-- Slots until the CRCs are compared again after a change, and the pins changed -/
  cfgWait : Nat := 0
  cfgChanged : BitVec 16 := 0
  cfgMismatch : Bool := false
  /-- A configuration register has been written since reset -/
  cfgSet : Bool := false
  /-- SUPPLY_CTRL.REARM has been written and not yet sent -/
  rearmReq : Bool := false
  /-- The re-arm signal of the output map as last latched, by channel -/
  rearmPrevA : Bool := false
  rearmPrevB : Bool := false
  /-- LINK_INFO.DLY in ns -/
  dly : Nat := 0
  fifo : List FifoEdge := []
  /-- EDGE_INFO.LOST -/
  lost : Nat := 0
  /-- Pins invalid in the next Sample phase of channel A and of channel B (R205) -/
  onceA : BitVec 16 := 0
  onceB : BitVec 16 := 0
  /-- Frames are withheld for the mode (R194) -/
  withheld : Bool := false
  /-- The tile snapshot held: its value and sequence (R351) -/
  snapTime : Nat := 0
  snapSeq : BitVec 8 := 0
  /-- The last values of SNAP_SEQ sent and when each was first sent, newest first, for SNAP_MISS -/
  snapSent : List (BitVec 8 × Nat) := []
  /-- The value of SNAP_SEQ that SNAP_MISS has been raised for -/
  snapMiss : Option (BitVec 8) := none
  /-- The reset sequence is being sent (R197) -/
  resetSeq : Bool := false
  /-- Commands at the last latch, for demand read-backs and capture -/
  latchedA : BitVec 16 := 0
  latchedB : BitVec 16 := 0
  deriving DecidableEq, Repr

/-! ## The Timetable -/

/-- The owner of a claimable resource (R239). -/
inductive Owner where
  | free | table | host | system
  deriving DecidableEq, Repr

/-- A read of the read-back comparator for a test (R226, R232): the pin, whether it is the restore read, and the period it was latched in once it has been. -/
structure TestRead where
  pin : Nat
  restore : Bool := false
  latched : Option Nat := none
  deriving DecidableEq, Repr

/-- A test occurrence under way (R224): its TEST claim and number, the slot period, the commands at slot start, and what has been judged. -/
structure Slot where
  entry : Nat
  claim : Claim
  period : Nat := 0
  /-- Commands of side A (or the general output) and side B at slot start -/
  cmdA : Bool
  cmdB : Bool
  void : Bool := false
  /-- The period in which a change of the command voided the slot: its pulse ends with the next (R228) -/
  dropAt : Option Nat := none
  failed : Bool := false
  /-- The reads of a field tile test that have not been judged, in the order they are taken -/
  reads : List TestRead := []
  /-- A safety output test: the pulse has been judged from side x, OUTV from the other side, the return from side x, and a frame of side x has come after the pulse -/
  gotX : Bool := false
  gotO : Bool := false
  restored : Bool := false
  seenAfter : Bool := false
  /-- The command changed after the read, so the return is not judged -/
  noReturn : Bool := false
  /-- SUPP has been seen during a light pulse -/
  suppSeen : Bool := false
  deriving DecidableEq, Repr

/-- A demand read-back that waits (R236): the pin, the side of a safety output, the period it is due in, when its read was latched, and the TEST claim of a void slot that it would complete (R228). -/
structure Demand where
  pin : Nat
  side : Chan := .a
  due : Nat
  latched : Option Nat := none
  proves : Option Nat := none
  deriving DecidableEq, Repr

/-- A time-stamp capture (R237): the pin, the new level, the period of the change, and the periods whose reads are still to judge. -/
structure Capture where
  pin : Nat
  level : Bool
  start : Nat
  /-- The periods a higher use took -/
  taken : List Nat := []
  latched : List Nat := []
  deriving DecidableEq, Repr

/-- A recorded test failure (TBL.TEST_FAIL). -/
structure TestFail where
  use : Nat
  pin : Nat
  code : Nat
  time : Nat
  deriving DecidableEq, Repr

/-- TBL (Table TBL-7). -/
structure Tbl where
  /-- A schedule is installed: the table's claims in force -/
  claims : Option (List Claim) := none
  /-- CYCLE -/
  frame : Nat := 0
  period : Nat := 0
  /-- The common period counter since reset: the time base of slots and reads -/
  now : Nat := 0
  /-- The cycle restarts at the next period -/
  restart : Bool := false
  /-- Frames are sent and the schedule is applied -/
  active : Bool := false
  claimBusy : Bool := false
  hclaim : Word32 := 0
  hclaimDone : Bool := false
  hclaimResult : Nat := 0
  ownSel : Word32 := 0x100
  /-- Resources the host holds: KIND × 256 + INDEX -/
  hostOwned : List Nat := []
  /-- The pin of the host's CAPTURE claim, by tile position (R237) -/
  hostCapt : SMap Nat := []
  /-- CONFLICT and CONFLICT_RES: entry, code, kind, index, owner -/
  conflict : Option (Nat × Nat × Nat × Nat × Nat) := none
  fail : Option TestFail := none
  /-- Test sources held off (R232) -/
  xsHeld : BitVec 96 := 0
  /-- Holds cleared by XS_CLR that end at the next frame -/
  xsRelease : BitVec 96 := 0
  done : Nat := 0
  voids : Nat := 0
  demandRb : Nat := 0
  overdueValid : Bool := false
  overdueCnt : Nat := 0
  overduePin : Nat := 0
  overdueUse : Nat := 0
  /-- CAPT_RESULT -/
  captValid : Bool := false
  captPin : Nat := 0
  captEdge : Bool := false
  captCoarse : Bool := false
  captTimeout : Bool := false
  captSeq : BitVec 8 := 0
  captDelay : Nat := 0
  slots : List Slot := []
  demands : List Demand := []
  /-- When each pin's demand read-back was last taken -/
  demandAt : SMap Nat := []
  captures : List Capture := []
  /-- The period since when each TEST claim has run without completing, while linked, armed and scanning (R229), by entry -/
  overdue : SMap Nat := []
  deriving DecidableEq, Repr

/-! ## The store and the boot window -/

/-- A commit word of the map log (Table STO-2). -/
structure CommitWord where
  seq : Word32
  log0 : Nat
  phy0 : Nat
  second : Option (Nat × Nat) := none
  deriving DecidableEq, Repr

/-- An entry of a partition layout (Table STO-7). -/
structure Part where
  typ : Nat
  lock : Bool := false
  first : Nat
  count : Nat
  deriving DecidableEq, Repr

/-- A map snapshot (R253): the map's entries that are not the identity, its base sequence number, the substitutions, the layout and the journal floor. -/
structure MapSnap where
  base : Word32 := 0
  map : SMap Nat := []
  subst : List (Option Nat) := [none, none]
  floor : Nat := 0
  layout : List Part := []
  /-- Banks isolated, those of them without a spare, and each die's migration in progress with its position (R250) -/
  iso : BitVec 32 := 0
  dead : BitVec 32 := 0
  migr : Vector (Option Nat) 2 := #v[none, none]
  migrPos : Vector Nat 2 := #v[0, 0]
  deriving DecidableEq, Repr

/-- An atomic write (R264): its command, its target logical ingots with the shadow taken for each, and the new words. -/
structure Atomic where
  id : CmdId
  targets : List (Nat × Nat)
  addr : Nat
  data : List Byte
  deriving DecidableEq, Repr

/-- A write that waits for locks or for a free place among the 16 (R264). -/
structure WaitWrite where
  id : CmdId
  atomic : Bool
  addr : Nat
  data : List Byte
  deriving DecidableEq, Repr

/-- STO (Table STO-19), the array and its map. -/
structure Sto where
  /-- The bytes of the array that are not 0, by physical address -/
  mem : List Host.Cell := []
  /-- Poisoned words, by physical word address (R250) -/
  poison : List Nat := []
  /-- Entries of the ingot map that are not the identity -/
  map : SMap Nat := []
  /-- The commit words of the map log since its last snapshot (Table STO-2), and the two snapshot ingots -/
  log : List (BitVec 128) := []
  snaps : Vector (Option MapSnap) 2 := #v[some {}, none]
  /-- SEQ of the last commit -/
  commitSeq : Word32 := 0
  /-- The journal floor in force (R309) -/
  floor : Nat := 0
  mapOk : Bool := false
  bankIso : BitVec 32 := 0
  /-- The bank each die's spare stands in for -/
  spare : Vector (Option Nat) 2 := #v[none, none]
  /-- Banks isolated without a spare: requests that name them complete CELL_ISOLATED -/
  dead : BitVec 32 := 0
  /-- The bank of each die whose lines migrate to the die's spare, the lines it has migrated, and the die whose migration began last -/
  migr : Vector (Option Nat) 2 := #v[none, none]
  migrPos : Vector Nat 2 := #v[0, 0]
  migrDie : Nat := 0
  degraded : Bool := false
  parked : Bool := false
  /-- The power-fail sequence has asked for a park: only PARK requests are granted (R269) -/
  parking : Bool := false
  scrubEn : Bool := true
  scrubPeriod : BitVec 16 := 3600
  scrubIngot : Nat := 0
  /-- The next line of that ingot -/
  scrubLine : Nat := 0
  scrubPasses : Nat := 0
  corr : Nat := 0
  uncorr : Nat := 0
  /-- UNCORR_ADDR: RSVD_AREA and ADDR -/
  uncorrAddr : Option (Bool × Nat) := none
  /-- The layout in force -/
  layout : List Part := []
  ptGen : Word32 := 0
  ptDefault : Bool := false
  ptCopy : Nat := 0
  /-- Copies found valid with a GENERATION above the one in force (PT_PENDING) -/
  ptPending : Vector Bool 2 := Vector.replicate 2 false
  ptOk : Vector Bool 2 := Vector.replicate 2 false
  /-- A copy to rewrite from the active one after P7 (R259) -/
  ptRepair : Bool := false
  ptOp : BitVec 4 := 0
  ptCmdCopy : Bool := false
  ptResult : Nat := 0
  partSel : BitVec 4 := 0
  atomics : List Atomic := []
  waits : List WaitWrite := []
  deriving DecidableEq, Repr

/-- The states of the boot window (Table STO-17). -/
inductive BootState where
  | selecting | loading | serving | released | noImage
  deriving DecidableEq, Repr

/-- A boot record (Table STO-13). -/
structure BootRec where
  seq : Word32 := 0
  prefer : Bool := false
  /-- TRIAL: slot B where true -/
  trial : Option Bool := none
  tries : Nat := 0
  ifmode : Bool := false
  dummy : Nat := 20
  minSvn : Word32 := 0
  deriving DecidableEq, Repr

/-- A boot manifest that has verified (Table STO-14). -/
structure Manifest where
  svn : Word32
  imageLen : Nat
  chunks : Nat
  hashes : List (List Byte)
  /-- SHA-256 of the signed bytes (Table HMK-9, index 5) -/
  digest : List Byte := []
  deriving DecidableEq, Repr

/-- A chunk of the buffer (R275): its number, its bytes, whose hash held, and when it was last used. -/
structure Chunk where
  n : Nat
  bytes : List Byte := []
  used : Nat := 0
  deriving DecidableEq, Repr

/-- A boot command that runs (R278): the code it will end with, and the boot record it writes. -/
structure BootRun where
  result : Nat
  record : Option BootRec := none
  deriving DecidableEq, Repr

/-- BOOT (Table STO-20) and the xSPI port. -/
structure Boot where
  st : BootState := .selecting
  hashErr : Bool := false
  error : Bool := false
  ifmode : Bool := false
  dummy : Nat := 20
  slot : Bool := false
  trial : Bool := false
  okA : Bool := false
  okB : Bool := false
  lock : Bool := false
  wel : Bool := false
  resetEnabled : Bool := false
  /-- SFDP is served (step 2 of Table STO-16) -/
  sfdp : Bool := false
  record : BootRec := {}
  /-- The configuration ingot the newest boot record stands in, 10 or 11 -/
  recIngot : Nat := 11
  manifest : Option Manifest := none
  chunks : List Chunk := []
  /-- How often chunks have failed their hash since the re-arm (R275) -/
  fails : SMap Nat := []
  /-- Chunks whose load has been asked for, in order -/
  loading : List Nat := []
  /-- Chunks that a read has met absent and that have not ended loading since (R275) -/
  missed : List Nat := []
  tick : Nat := 0
  cmd : Word32 := 0x1400
  result : Nat := 0
  run : Option BootRun := none
  /-- The chip reset or re-arm that SELECTING began from, for FIRST_BYTE_US -/
  since : Nat := 0
  firstByteUs : Nat := 0
  served : Nat := 0
  miss : Nat := 0
  hashFail : Option Nat := none
  /-- The bytes driven in the last xSPI command; none where no data were driven -/
  resp : Option (List Byte) := none
  deriving DecidableEq, Repr

/-! ## The Brake van -/

/-- A record in the admission buffer: who admitted it, when, and the host command that waits for its SEQ. -/
structure BufRec where
  r : Rec
  host : Bool
  at_ : Nat
  cmd : Option CmdId := none
  /-- Its place in the order of admission -/
  no : Nat := 0
  deriving DecidableEq, Repr

/-- The states of the engine (JRN.STATUS.STATE). -/
inductive JrnState where
  | recovering | running | sealing | sealed
  deriving DecidableEq, Repr

/-- The steps of a hold-up measurement (Table JRN-9). -/
inductive MeasState where
  /-- none is due -/
  | idle
  /-- due, waiting for the records admitted at a higher credit -/
  | due
  /-- sink on, waiting for 29.5 V; the ESR found -/
  | sinking (esr : Nat)
  /-- timer running, waiting for 29.0 V; the ESR found -/
  | timing (esr : Nat)
  deriving DecidableEq, Repr

/-- A FLUSH that waits (R263, R289): every record admitted up to `upTo` is to seal, and the store writes named are to complete. -/
structure Flush where
  id : CmdId
  upTo : Nat
  writes : List CmdId
  deriving DecidableEq, Repr

/-- JRN (Table JRN-13) and the engine. -/
structure Jrn where
  st : JrnState := .recovering
  /-- Admitted records that wait for their SEQ, and those that have it, oldest first -/
  waiting : List BufRec := []
  buf : List BufRec := []
  /-- The collector's entries up to this SEQ were recorded before the engine's last reset; later ones that find the engine recovering are handed over when it has recovered (R538) -/
  handed : Word32 := 0
  nextSeq : Nat := 0
  sealedSeq : Nat := 0
  /-- CHAIN of the commit word that sealed the newest record, and how many batches have been sealed since the ring's last anchor -/
  headChain : Word32 := 0
  oldestSeq : Nat := 0
  oldestPos : Nat := 0
  /-- Ring position of the next word, and the words written since the last anchor -/
  pos : Nat := 0
  sinceAnchor : Nat := 0
  anchorAt : Nat := 0
  anchorDue : Bool := false
  anchorNo : Word32 := 0
  starts : Word32 := 0
  sealWatch : Nat := 0
  watchStaged : Vector Word32 3 := Vector.replicate 3 0
  watchDone : Bool := true
  window : BitVec 6 := 32
  lossy : BitVec 6 := 16
  k : Nat := 0
  holdV : Nat := 0
  /-- C_meas in 0.1 µF units and ESR in mΩ -/
  cMeas : Nat := 0
  esr : Nat := 0
  /-- The values anchors carry (C_MEAS and ESR of Table JRN-10) -/
  cAnchor : Nat := 0
  esrAnchor : Nat := 0
  provisional : Bool := false
  cValid : Bool := false
  eAvail : Nat := 0
  holdPeriod : BitVec 16 := 600
  qfull : Nat := 0
  drops : Nat := 0
  dropBytes : Nat := 0
  uncov : Nat := 0
  damaged : Nat := 0
  outcome : Nat := 0
  sealMaxUs : Nat := 0
  meas : MeasState := .idle
  postponed : Nat := 0
  /-- The lowest credit a measurement allows is in force (R298) -/
  measLow : Bool := false
  /-- The measurement waits until every record admitted up to here is sealed: those admitted at the higher credit -/
  measUpTo : Nat := 0
  judged : Bool := false
  weakRaised : Bool := false
  shortRaised : Bool := false
  overcommit : Bool := false
  /-- Lossy records dropped in the present millisecond: records, bytes, and by submission queue -/
  gapRecs : Nat := 0
  gapBytes : Nat := 0
  gapSq : Vector Nat 4 := Vector.replicate 4 0
  /-- The millisecond they belong to -/
  gapMs : Nat := 0
  /-- The last epoch committed before the boundary that closes that millisecond, once a later one has committed (R288) -/
  gapEpoch : Option Word32 := none
  /-- A snapshot with a raised floor has been asked for (R309) -/
  floorReq : Bool := false
  /-- Sealing: the cause code, unsealed bytes, HOLD, E_avail and the time of the request (R305) -/
  sealReq : Option (Nat × Nat × Nat × Nat × Nat) := none
  /-- Host admission is closed for a Storage reset (R511) -/
  closed : Bool := false
  flushes : List Flush := []
  /-- Merged Lengthman entries that are not cleared yet (R310): the admission of the last record, and the highest LSEQ merged -/
  merge : Option (Nat × Nat) := none
  /-- Records admitted so far -/
  admitted : Nat := 0
  deriving DecidableEq, Repr

/-! ## Assay -/

/-- The result of one start-up test (AST.TEST_INFO): its RESULT code and its duration in µs. -/
structure TestRes where
  result : Nat := 0
  us : Nat := 0
  deriving DecidableEq, Repr

/-- A pin or side test commanded through Assay ordered sets (R399), as the controller holds it. -/
structure PinTest where
  op : Nat
  pin : Nat
  path : Chan
  typ : Nat
  seq : BitVec 8
  /-- The tile has started it -/
  started : Bool := false
  deriving DecidableEq, Repr

/-- A pin test as the tile holds it (R400): what it answers until it is acknowledged. -/
structure TileTest where
  op : Nat
  pin : Nat
  path : Chan
  typ : Nat
  seq : BitVec 8
  /-- RESULT of Table AST-4 -/
  result : Nat := 0
  step : Nat := 0
  deriving DecidableEq, Repr

/-- AST (Table AST-5) and the Assay controller. -/
structure Ast where
  stoEn : Bool := true
  perEn : Bool := true
  deferred : Bool := false
  runBlock : Bool := false
  /-- STATUS.SET and STATUS.TEST -/
  set : Nat := 0
  test : Nat := 0
  testSel : BitVec 5 := 1
  results : Vector TestRes 16 := Vector.replicate 16 {}
  /-- FAIL_INFO: the failing test and its item -/
  failInfo : Option (Nat × Nat) := none
  unusable : BitVec 112 := 0
  unusableTiles : BitVec 8 := 0
  /-- Tests 14 and 15: tiles whose part has not run (R391) -/
  notRun14 : BitVec 8 := 0
  notRun15 : BitVec 8 := 0
  stoInt : BitVec 8 := 1
  pinSlot : BitVec 16 := 100
  /-- PER_POS -/
  rounds : Nat := 0
  pathB : Bool := false
  pin : Nat := 0
  /-- The next unit of each field tile in the present round: pin n path A is 2n, path B 2n + 1 (test 13), and 32 + n is the driver of pin n (test 14) -/
  unit : Vector Nat 6 := Vector.replicate 6 0
  /-- Paths of field pins that have completed the present round of test 13, by path -/
  doneA : BitVec 96 := 0
  doneB : BitVec 96 := 0
  /-- Abort counters that are not 0, by pin index (R402) -/
  aborts : SMap Nat := []
  abortTotal : Nat := 0
  /-- STO_POS; the segment index of each bank, and the banks that have completed the present round -/
  passes : Nat := 0
  segs : Vector Nat 32 := Vector.replicate 32 0
  segDone : BitVec 32 := 0
  /-- Banks whose deferred part of test 16 has not run (R393) -/
  deferBanks : BitVec 32 := 0
  skips : Nat := 0
  /-- A start-up test that could not begin: its number and the milliseconds it has been retried for (R389) -/
  retry : Option (Nat × Nat) := none
  /-- Milliseconds the retries have added to the start-up set (R503) -/
  retryMs : Nat := 0
  /-- Pin and side tests under way, by tile position, and the next SEQ -/
  tests : Vector (Option PinTest) 8 := Vector.replicate 8 none
  seq : BitVec 8 := 0
  /-- Tests as the tiles hold them -/
  tile : Vector (Option TileTest) 8 := Vector.replicate 8 none
  /-- The store cannot be used (group C of Table AST-2); boundary scan cannot (group F) -/
  storeBad : Bool := false
  bscanBad : Bool := false
  /-- Admission-buffer units isolated (group E) -/
  jrnUnits : BitVec 64 := 0
  deriving DecidableEq, Repr

/-! ## Touchmark -/

/-- The states of a row (Table TCH-4). -/
inductive RowSt where
  | blank | good | marginal | invalid
  deriving DecidableEq, Repr

/-- A main row in the shadow (R419): its state, its value, the spare row that serves it, and its trial override (R424). -/
structure Shadow where
  st : RowSt := .blank
  value : BitVec 128 := 0
  spare : Option Nat := none
  ovr : Option (BitVec 128) := none
  deriving DecidableEq, Repr

/-- A calibration value as loaded (R428): factory, user and effective values, and the DEFAULTED and CLAMPED flags. -/
structure CalVal where
  f : Int := 0
  u : Int := 0
  e : Int := 0
  dflt : Bool := false
  clamped : Bool := false
  deriving DecidableEq, Repr

/-- A PROG that runs: its row and the 140-bit pattern it blows. -/
structure ProgRun where
  row : Nat
  data : BitVec 128
  pattern : BitVec 140
  deriving DecidableEq, Repr

/-- TCH (Table TCH-10), the antifuse array and its shadow. -/
structure Tch where
  /-- Rows that are not BLANK, 0 to 543 -/
  rows : SMap Fuse := []
  /-- The shadow of the main rows that are not BLANK or are overridden -/
  shadow : SMap Shadow := []
  /-- STATUS.FLAGS: MFG, PROVISIONED, DEBUG_LOCK, SPLIT -/
  flags : BitVec 4 := 0
  /-- The lifecycle and DEBUG_LOCK flags in effect since P1 -/
  marginDone : Bool := false
  noSpare : Bool := false
  /-- Rows whose move waits (R418) -/
  moves : List Nat := []
  run : Option ProgRun := none
  userCal : BitVec 2 := 0
  userVals : SMap Int := []
  cal : SMap CalVal := []
  calDefault : Bool := false
  incomplete : Bool := false
  manOk : Bool := false
  manChecked : Bool := false
  manReason : Nat := 0
  manRow : Nat := 0
  cmd : Word32 := 0
  data : Vector Word32 4 := Vector.replicate 4 0
  result : Nat := 0
  rdData : BitVec 128 := 0
  /-- RD_STAT -/
  rdStat : Word32 := 0
  rowSel : BitVec 9 := 0
  badEntry : Nat := 0
  nInvalid : Nat := 0
  nMarginal : Nat := 0
  progFails : Nat := 0
  calSel : BitVec 16 := 0x0100
  /-- The logic-zone junction in °C, as R422 tests it -/
  junction : Int := 25
  deriving DecidableEq, Repr

/-! ## Hallmark -/

/-- Owner slot states (Table HMK-4). -/
inductive SlotSt where
  | empty | active | revoked | invalid
  deriving DecidableEq, Repr

/-- An owner slot: its state and its public key, if found (R437, R438). -/
structure KeySlot where
  st : SlotSt := .empty
  key : Option (List Byte) := none
  deriving DecidableEq, Repr

/-- A verification that waits for the engine or runs in it (R433): the requester's rank, the object (Table HMK-7), its copy and slot, and what is verified. -/
structure VerReq where
  rank : Nat
  obj : Nat
  copy : Nat
  slot : Nat
  pk : List Byte
  msg : List Byte
  sig : List Byte
  deriving DecidableEq, Repr

/-- An ATTEST in flight: its command, and once the engine has begun it the captured bytes and the signing steps made (R449). -/
structure AttRun where
  id : CmdId
  body : Option (List Byte) := none
  steps : Nat := 0
  /-- Signing has paused at the end of a step, for a verification (R433) -/
  paused : Bool := false
  deriving DecidableEq, Repr

/-- HMK (Table HMK-14) and the engine. -/
structure Hmk where
  katRun : Bool := false
  katOk : Bool := false
  /-- A run of the known-answer test has failed since chip reset (R434) -/
  katBad : Bool := false
  rootOk : Bool := false
  rootGen : BitVec 2 := 0
  /-- The public key of the root in force -/
  rootKey : List Byte := []
  idOk : Bool := false
  idPk : List Byte := []
  /-- The identity secrets in the engine's working memory: SK.seed, SK.prf, PK.seed (R446) -/
  idSk : List Byte := []
  slots : Vector KeySlot 4 := Vector.replicate 4 {}
  patch : Bool := false
  patchCopy : Bool := false
  patchGen : Word32 := 0
  meas : Vector (List Byte) 6 := Vector.replicate 6 (List.replicate 32 0)
  measSel : BitVec 3 := 0
  measData : List Byte := List.replicate 32 0
  /-- REJECT_INFO without VALID -/
  reject : Option Word32 := none
  verifies : Nat := 0
  rejects : Nat := 0
  attests : Word32 := 0
  verifyMaxUs : Nat := 0
  /-- The verification that runs, and those that wait, in the order they will be served -/
  cur : Option VerReq := none
  queue : List VerReq := []
  /-- ATTEST commands in flight, oldest first -/
  atts : List AttRun := []
  /-- Owner-key record copies, and the patch copy, to rewrite after P7 -/
  keyRepair : List Nat := []
  patchRepair : Option Nat := none
  deriving DecidableEq, Repr

/-! ## Lengthman -/

/-- A retained log entry (Table LMN-3). -/
structure LmnEntry where
  /-- The 128-bit word -/
  word : BitVec 128
  /-- The stored word is uncorrectable -/
  bad : Bool := false
  deriving DecidableEq, Repr

/-- A write on its way through queue 25 (R469): register offset, value, and the time it arrived. -/
structure LmnWrite where
  off : Nat
  v : Word32
  at_ : Nat
  deriving DecidableEq, Repr

/-- A sampling round that runs: the counter at its start, and whether it began in ATTENDED (R455, R457). -/
structure LmnRound where
  start : Nat
  attended : Bool
  deriving DecidableEq, Repr

/-- One WATCH input: its configuration, its last samples (newest first), its filtered level where it is valid. -/
structure Watch where
  wake : Bool := false
  log : Bool := false
  trig : BitVec 2 := 0
  filt5 : Bool := false
  inv : Bool := false
  en : Bool := false
  samples : List Bool := []
  level : Option Bool := none
  deriving DecidableEq, Repr

/-- LMN (Table LMN-5) and the Lengthman. -/
structure Lmn where
  /-- ATTENDED; otherwise WATCHING -/
  attended : Bool := false
  aligned : Bool := false
  cold : Bool := true
  /-- State has been lost since the latest alignment -/
  lostState : Bool := true
  counter : Nat := 0
  /-- The sense-current corrections of inputs 0 to 7, in LSBs of calibration item 0x0B (R456) -/
  senseCal : Vector Int 8 := Vector.replicate 8 0
  watch : Vector Watch 8 := Vector.replicate 8 {}
  rate : BitVec 7 := 10
  /-- Writes that have not taken effect, oldest first (R469) -/
  writes : List LmnWrite := []
  round : Option LmnRound := none
  /-- The counter at the start of the latest round, and the rounds per second then in force -/
  lastStart : Option (Nat × Nat) := none
  /-- Rounds since state was lost, for the background read (R462) -/
  rounds : Nat := 0
  /-- Held entries, oldest first -/
  log : List LmnEntry := []
  lseq : Nat := 0
  lost : Nat := 0
  vLow : Bool := false
  /-- VSTBY was Low at some time since the last entry -/
  vLowSeen : Bool := false
  wakeOut : Bool := false
  /-- The counter when WAKE_OUT was asserted, and whether WAKE_TEST asserted it -/
  wakeAt : Nat := 0
  wakeTest : Bool := false
  /-- Alignment has been made since WAKE_OUT was asserted (R463) -/
  wakeAligned : Bool := false
  alignL : Nat := 0
  alignT : Nat := 0
  entrySel : BitVec 8 := 0
  entry : BitVec 128 := 0
  deriving DecidableEq, Repr

/-! ## Supplies -/

/-- Feed states (Table PWR-6). -/
inductive FeedSt where
  | failed | qualifying | standby | active
  deriving DecidableEq, Repr

/-- The rails VCORE, VIO, VANA. -/
structure Rails where
  vcore : Nat := 800
  vio : Nat := 1800
  vana : Nat := 1800
  deriving DecidableEq, Repr

/-- PWR (Table PWR-12) and the power-fail sequence. -/
structure Pwr where
  feedA : FeedSt := .failed
  feedB : FeedSt := .failed
  untrustedA : Bool := false
  untrustedB : Bool := false
  /-- FEED_A_V and FEED_B_V in 10 mV -/
  voltA : Nat := 0
  voltB : Nat := 0
  /-- The internal rail nodes in mV -/
  rails : Rails := {}
  /-- Rails the bridge converter carries: VCORE, VIO, VANA -/
  bridge : BitVec 3 := 0
  charging : Bool := false
  holdUntrusted : Bool := false
  cmd : BitVec 4 := 0
  result : Nat := 0
  switches : Nat := 0
  switchTime : Nat := 0
  switchGap : Nat := 0
  /-- The power-fail sequence runs or has ended -/
  pfRun : Bool := false
  pfFirst : Nat := 0
  pfSet : BitVec 6 := 0
  pfAt : Nat := 0
  /-- Command images are latched all-off until the next chip reset (R488, step 2) -/
  allOff : Bool := false
  /-- FIRST as the POWER_FAIL record carries it (R487) -/
  sealCause : Nat := 0
  vcoreEarly : Bool := false
  vioLate : Bool := false
  /-- The rails have been shut down: the power-on reset is asserted -/
  off : Bool := false
  deriving DecidableEq, Repr

/-! ## The machine -/

/-- The state of the module. -/
structure State where
  /-- The commands that are waiting, first in, first out -/
  pending : List Instr := []
  /-- The fitted variant (Table SCP-1) -/
  variant : Variant := .gw968
  /-- The model's own counter of free values drawn: no statement rests on its value -/
  free : Nat := 0
  pages : Vector PageHdr 64 := Vector.replicate 64 {}
  sys : Sys := {}
  rst : Rst := {}
  clkg : Clkg := {}
  queues : Vector XQueue 26 := Vector.replicate 26 {}
  fab : Fabric := {}
  arb : Arb := {}
  tb : Tbase := {}
  tmr : Vector Tmr 8 := Vector.replicate 8 {}
  fcr : Fcr := {}
  crc : Vector CrcUnit 4 := Vector.replicate 4 {}
  /-- What the firmware has the check units compare with (R386): length and CRC of table copies 0 and 1 and partition table copies 0 and 1 when each was last verified -/
  crcRef : SMap (Nat × Word32) := []
  pcie : Pcie := {}
  mgt : Mgt := {}
  dbg : Dbg := {}
  uart : Uart := {}
  /-- The high halves each interface has latched (R22), keyed by interface, page and offset -/
  latch : SMap Word32 := []
  ilkA : Ilk := {}
  ilkB : Ilk := { bools := BitVec.allOnes 4096, prevBools := BitVec.allOnes 4096 }
  ilkl : Ilkl := {}
  tab : Tab := {}
  dhd : Dhd := {}
  ep : Epochs := {}
  /-- The tile-side logic of FT0 to FT5, SOT0, SOT1 -/
  tiles : Vector Tile 8 := Vector.replicate 8 {}
  /-- The link controllers of FT0 to FT5, SOT0, SOT1 -/
  links : Vector Link 8 := Vector.replicate 8 {}
  tbl : Tbl := {}
  sto : Sto := {}
  boot : Boot := {}
  jrn : Jrn := {}
  ast : Ast := {}
  tch : Tch := {}
  hmk : Hmk := {}
  lmn : Lmn := {}
  pwr : Pwr := {}
  deriving DecidableEq, Repr

/-- The machine right after the power-on reset is released. -/
def State.reset : State := {}

end Sys2Proof.Machine
end

