-- ==== Sys2Proof/Machine/Traffic.lean ====
section
/-! DEFINITION. The fabric and the region crossbars: classes of service, routes, and the grant of one word at each arbitration point in each cycle (R32 to R37, Table ARC-3). -/

namespace Sys2Proof.Machine

/-- The class of a kind of traffic (R37, Table ARC-3), as its rank in the order of R34: 0 SAFETY, 1 JOURNAL, 2 HOST, 3 BACKGROUND. The kind alone decides it, so no block can raise the class of its own traffic. -/
def serviceRank : Traffic → Nat
  | .tileLink => 0 | .tabletFrame => 0 | .catchPoint => 0 | .rendezvous => 0 | .reaction => 0
  | .record => 1 | .journalPayload => 1 | .drain => 1
  | .hostAccess => 2 | .debugAccess => 2 | .epochRead => 2
  | .assay => 3 | .scrub => 3 | .hashing => 3 | .touchmarkRead => 3 | .lmnMerge => 3

/-- The class of a burst. -/
def reqRank (r : BusReq) : Nat := serviceRank r.kind

/-- The arbitration point of the fabric; points 0 to 3 are the crossbars of Logic, Storage, Host and Field. -/
abbrev fabricPoint : Nat := 4

/-- The crossbar a block is connected to (R32): the Standby region reaches Logic's through queues 24 and 25. DESIGN CHOICE (log 117): a chip-level block is connected to the fabric itself. -/
def crossbarOf (pg : Nat) : Option Nat :=
  let r := regionIndex pg
  if r < 4 then some r else if r = 4 then some 0 else none

/-- The arbitration points a transaction passes (R32): one within a region; the source region's crossbar, the fabric and the destination region's between two regions. -/
def routeOf (src dst : Nat) : List Nat :=
  match crossbarOf src, crossbarOf dst with
  | some a, some b => if a = b then [a] else [a, fabricPoint, b]
  | some a, none => [a, fabricPoint]
  | none, some b => [fabricPoint, b]
  | none, none => [fabricPoint]

/-- How long a requester waits for its turn after the one last granted (R34: round-robin). -/
def turnDistance (last src : Nat) : Nat := (src + 255 - last) % 256

/-- The earlier of two candidates of a point: the higher class; within a class the requester whose turn comes first; of one requester the burst that came first. -/
def comesFirst (turn : Vector Nat 4) (x y : BusReq) : Bool :=
  decide (reqRank x < reqRank y) ||
    (reqRank x == reqRank y && decide (turnDistance (vGet turn (reqRank x) 0) x.src ≤ turnDistance (vGet turn (reqRank y) 0) y.src))

/-- The burst a point would grant next, with those that stay (R34). -/
def takeFirst (turn : Vector Nat 4) : List BusReq → Option (BusReq × List BusReq)
  | [] => none
  | r :: t =>
    match takeFirst turn t with
    | none => some (r, [])
    | some (b, rest) => if comesFirst turn r b then some (r, t) else some (b, r :: rest)

/-- One word of a burst is granted: the point with what is left of it, and the burst if this was its last word. `hold` says that the burst goes on in the cycles that follow; otherwise it waits again, in its place before the later ones of its requester. -/
def grantWord (hold : Bool) (r : BusReq) (rest : List BusReq) (p : ArbPoint) : ArbPoint × Option BusReq :=
  let p := { p with turn := vSet p.turn (reqRank r) r.src }
  let r' := { r with left := r.left - 1 }
  if r.left ≤ 1 then ({ p with waiting := rest, burst := if hold then none else p.burst }, some r')
  else if hold then ({ p with waiting := rest, burst := some r' }, none)
  else ({ p with waiting := r' :: rest }, none)

/-- The burst in progress goes on by one word. -/
def continueBurst (b : BusReq) (p : ArbPoint) : ArbPoint × Option BusReq := grantWord true b p.waiting p

/-- One CLK_SYS cycle of an arbitration point (R34, R35): the burst its last word ended, if one. Every tenth cycle of its slot counter is the reserved slot: a waiting SAFETY request takes one word of it, with a lower burst paused; where none waits, the highest-class request takes one word. In every other slot the burst in progress goes on, or the highest-class request begins. -/
def pointCycle (p : ArbPoint) : ArbPoint × Option BusReq :=
  let reserved := p.slot == 9
  let p := { p with slot := (p.slot + 1) % 10 }
  match p.burst, takeFirst p.turn p.waiting with
  | none, none => (p, none)
  | some b, none => continueBurst b p
  | none, some (r, rest) => grantWord (!reserved) r rest p
  | some b, some (r, rest) =>
    if reserved && decide (reqRank r < reqRank b) then grantWord false r rest p else continueBurst b p

/-- A burst whose last word a point has granted goes to the next point of its route, or is delivered. -/
def forwardBurst (a : Arb) (r : BusReq) : Arb :=
  match r.route with
  | [] => { a with delivered := a.delivered ++ [r] }
  | x :: t => { a with points := vUpd a.points x fun p => { p with waiting := p.waiting ++ [{ r with left := r.words, route := t }] } }

/-- One CLK_SYS cycle of every arbitration point. -/
def arbCycle (a : Arb) : Arb :=
  let out := a.points.map pointCycle
  out.toList.foldl (fun b o => match o.2 with | some r => forwardBurst b r | none => b) { points := out.map Prod.fst, delivered := a.delivered }

/-- The four CLK_SYS cycles of one CLK_TB cycle (Table ARC-4). -/
def arbTick (a : Arb) : Arb := arbCycle (arbCycle (arbCycle (arbCycle { a with delivered := [] })))

/-- A transaction of `n` words as bursts of at most 16 (R33). The fuel is `n`. -/
def burstSizes : Nat → Nat → List Nat
  | 0, _ => []
  | _ + 1, 0 => []
  | f + 1, n => min n 16 :: burstSizes f (n - 16)

/-- A block issues a transaction of `n` words: its bursts wait at the first point of its route (R32, R33). -/
def issue (kind : Traffic) (src dst n : Nat) (s : State) : State :=
  match routeOf src dst with
  | [] => s
  | x :: t =>
    { s with arb := { s.arb with points := vUpd s.arb.points x fun p =>
      { p with waiting := p.waiting ++ (burstSizes n n).map fun w => { kind := kind, src := src, dst := dst, words := w, left := w, route := t } } } }

/-- The requests a block issued and that no point has granted yet are discarded while its port is fenced (R28). -/
def discardRequests (pg : Nat) (s : State) : State :=
  match crossbarOf pg with
  | none => s
  | some x => { s with arb := { s.arb with points := vUpd s.arb.points x fun p => { p with waiting := p.waiting.filter fun r => !(r.src == pg && r.left == r.words) } } }

/-- The cell a block grants next among those that wait: round-robin after the one granted last (Table ARC-1); an isolated cell is out of the arbitration (R26). -/
def nextCell (isolated : Nat → Bool) (last : Nat) (waiting : List Nat) : Option Nat :=
  let l := waiting.filter fun c => !isolated c
  l.foldl (fun b c => match b with
    | none => some c
    | some d => if (c + 65535 - last) % 65536 < (d + 65535 - last) % 65536 then some c else some d) none

end Sys2Proof.Machine
end

