-- ==== Sys2Proof/Config.lean ====
section
/-! DEFINITION. What one implementation fixes and the spec leaves open: constants without a body, so that no proof can see their values. -/

namespace Sys2Proof.Config

open Sys2Proof.Machine

/-- DESIGN CHOICE (log 3): what an implementation takes for column i of the check matrix, for data bit i (R50, R53: the matrix is specific to the implementation). -/
opaque rawCol : Nat → BitVec 12

/-- DESIGN CHOICE (log 3): what an implementation folds into the check for bit j of the home address (R51). -/
opaque rawAddr : Nat → BitVec 12

/-- DESIGN CHOICE (log 3): the raw syndrome of an error the sender of a command describes only as uncorrectable. -/
opaque rawSyndrome : Nat → BitVec 12

/-- DESIGN CHOICE (log 2): a value the spec leaves open, by the model's own counter. -/
opaque freeValue : Nat → Word32

/-- DESIGN CHOICE (log 2): bytes the spec leaves open, by the model's own counter and their place. -/
opaque freeByte : Nat → Nat → Byte

/-- The verification of an SLH-DSA-SHA2-128s signature (R431, FIPS 205): public key, message, signature. -/
opaque slhVerify : List Byte → List Byte → List Byte → Bool

/-- The deterministic SLH-DSA-SHA2-128f signature (R431): private key material, message. -/
opaque slhSign : List Byte → List Byte → List Byte

/-- PK.root of slh_keygen_internal with set 128f (R447): SK.seed, SK.prf, PK.seed. -/
opaque slhKeygenRoot : List Byte → List Byte → List Byte → List Byte

/-- The whole ROM's SHA-256 (Table HMK-9, index 0). -/
opaque romHash : List Byte

/-- A word of the Double-header's ROM (R156). -/
opaque romWord : Nat → BitVec 128

/-- The ROM version a firmware patch names (R441). -/
opaque romId : Word32

/-- The public keys of the Onaelvor root generations in ROM, 0 to 3 (R436). -/
opaque rootKey : Nat → List Byte

/-- The signals that an OUTPUT_MAP section names: the spec gives no entry format (log 8). -/
opaque outMap : List Byte → OutMap

/-- The Vendor ID PCI-SIG assigned to Onaelvor (Table HIF-3). -/
opaque vendorId : BitVec 16

/-- The silicon revision (SYS.DEVID, IDCODE). -/
opaque siliconRev : BitVec 8

/-- The manufacturer identity of the TAP's IDCODE (R340). -/
opaque tapManufacturer : BitVec 11

/-- What an implementation's SFDP table holds at an address where R271 states nothing. -/
opaque sfdpByte : Nat → Byte

/-- The host commands that need the firmware of the Double-header, by opcode (R163): the spec names none (log 131). -/
opaque needsFirmware : BitVec 8 → Bool

/-- The double words an implementation leaves before its two SFDP parameter tables (log 127). -/
opaque sfdpGap : Nat → Nat

/-- The interrupt lines of the Double-header that belong to the Host region (R182): the spec numbers none. -/
opaque hostLines : BitVec 32

/-- A tile's time counter while it is unset (R196), by Station-clock time: the spec states no value (log 2). -/
opaque unsetTileTime : Nat → Nat

/-- The charge current in mA that PWR.CHG_STAT reads while the charger runs, by Station-clock time: a measured value the spec bounds and does not state (log 2). -/
opaque chargeMa : Nat → BitVec 8

end Sys2Proof.Config
end

