-- ==== Sys2Proof/Machine/WordCode.lean ====
section
/-! DEFINITION. The word code (R50 to R53): the four properties a check matrix must have, the matrix in force, and what is stored, read and moved with it. -/

namespace Sys2Proof.Machine

/-- A code: the columns of the 128 data bits and of the bits of the home address. -/
structure WordMatrix where
  col : Nat → BitVec 12
  addr : Nat → BitVec 12

/-- How many bits of a home address are folded into the check. -/
abbrev homeBits : Nat := 40

/-- The columns of the 140 stored bits, as numbers: a check bit stands for itself. -/
def matrixCols (m : WordMatrix) : List Nat := (List.range 128).map (fun i => (m.col i).toNat) ++ (List.range 12).map (2 ^ ·)

/-- The syndromes of single-bit and adjacent errors, in stored order. -/
def correctables (cols : List Nat) : List Nat := cols ++ List.zipWith (· ^^^ ·) cols (cols.drop 1)

/-- A set of numbers as one number with those bits; none where one of them comes twice or is 0. -/
def distinctMask : List Nat → Option Nat
  | [] => some 1
  | v :: t => match distinctMask t with
    | none => none
    | some m => if m.testBit v then none else some (m + 2 ^ v)

/-- No sum of `v` with a number of a list is in a set. -/
def sumsAvoid (mask v : Nat) (l : List Nat) : Bool := l.all fun w => !mask.testBit (v ^^^ w)

/-- No sum of two numbers of a list that do not follow each other is in a set. -/
def pairsAvoid (mask : Nat) : List Nat → Bool
  | [] => true
  | v :: t => sumsAvoid mask v (t.drop 1) && pairsAvoid mask t

/-- No sum of one, two or three numbers of a list is in a set, except 0; `k` says how many more may be added to `v`. -/
def foldsAvoid (mask : Nat) : Nat → Nat → List Nat → Bool
  | 0, _, _ => true
  | _ + 1, _, [] => true
  | k + 1, v, w :: t => (v ^^^ w == 0 || !mask.testBit (v ^^^ w)) && foldsAvoid mask k (v ^^^ w) t && foldsAvoid mask (k + 1) v t

/-- The four properties of R50: the syndromes of single and adjacent errors are distinct and not 0; no other two-bit error has one of them or 0; no error of one, two or three bits confined to the folded address has one of them. -/
def codeMeets (m : WordMatrix) : Bool :=
  let cols := matrixCols m
  match distinctMask (correctables cols) with
  | none => false
  | some mask => pairsAvoid mask cols && foldsAvoid mask 3 0 ((List.range homeBits).map fun j => (m.addr j).toNat)

/-- The data columns of a matrix with the four properties: it only shows that there is one. -/
def sampleCols : List Nat :=
    [2557, 995, 1714, 2092, 2009, 1599, 3437, 2984, 3053, 328, 1773, 1340, 1174, 3789, 565, 942] ++
    [2299, 2445, 4003, 3557, 2351, 1356, 675, 1860, 103, 1181, 1560, 2746, 1161, 2069, 2104, 1386] ++
    [1256, 2215, 286, 3257, 2841, 2853, 433, 2783, 3631, 3589, 1857, 519, 682, 3827, 1426, 1231] ++
    [890, 4064, 2508, 2454, 1737, 2000, 3756, 2311, 3611, 2656, 3655, 1906, 935, 2870, 570, 476] ++
    [1306, 2340, 3456, 4028, 1201, 3688, 3568, 3945, 2763, 902, 1249, 2079, 3514, 2044, 166, 1854] ++
    [3660, 3357, 1326, 1407, 2188, 1653, 4078, 2962, 3117, 758, 1076, 1573, 431, 3391, 1558, 3194] ++
    [3044, 3342, 3431, 2241, 1409, 1486, 471, 2627, 84, 3441, 146, 767, 2653, 297, 1368, 504] ++
    [532, 3204, 980, 2074, 2551, 986, 2159, 3281, 965, 2142, 3667, 436, 747, 1099, 23, 2038]

/-- The address columns of that matrix: no sum of one, two or three of them is 0 or the syndrome of a correctable error. -/
def sampleAddr : List Nat :=
    [2482, 1272, 1927, 2765, 1066, 2400, 2591, 1877, 1736, 2946, 2301, 1463, 2896, 1562, 1381, 2095] ++
    [3247, 485, 666, 4048, 311, 3197, 3842, 584, 981, 3743, 3552, 170, 3661, 775, 120, 3378] ++
    [390, 3276, 4019, 761, 3102, 340, 555, 3937]

/-- A matrix with the four properties. -/
def sampleMatrix : WordMatrix :=
  { col := fun i => BitVec.ofNat 12 (lGet sampleCols i 0), addr := fun j => BitVec.ofNat 12 (lGet sampleAddr j 0) }

/-- The matrix in force (log 3): the implementation's, which has the four properties. -/
def wordMatrix : WordMatrix :=
  if codeMeets { col := Config.rawCol, addr := Config.rawAddr } then { col := Config.rawCol, addr := Config.rawAddr }
  else sampleMatrix

/-- Column i of the check matrix over the 140 stored bits. -/
def codeColumn (i : Nat) : BitVec 12 := if i < 128 then wordMatrix.col i else BitVec.ofNat 12 (2 ^ (i - 128))

/-- What a home address folds into the check (R51). -/
def addrFold (home : Nat) : BitVec 12 := (List.range homeBits).foldl (fun c j => if home.testBit j then c ^^^ wordMatrix.addr j else c) 0

/-- The check bits of a word with a home address (R51). -/
def wordCheckBits (d : BitVec 128) (home : Nat) : BitVec 12 :=
  (List.range 128).foldl (fun c i => if d.getLsbD i then c ^^^ codeColumn i else c) (addrFold home)

/-- The syndrome of 140 stored bits read for a home address. -/
def wordSyndrome (w : BitVec 140) (home : Nat) : BitVec 12 := wordCheckBits (w.setWidth 128) home ^^^ (w >>> 128).setWidth 12

/-- What a syndrome decodes as (Table ARC-16). -/
def decodeSyndrome (x : BitVec 12) : WordCheck :=
  if x = 0 then .good
  else match (List.range 140).find? fun i => codeColumn i == x with
    | some i => .single i
    | none =>
      match (List.range 139).find? fun i => codeColumn i ^^^ codeColumn (i + 1) == x with
      | some i => .adjacent i
      | none => .uncorrectable

/-- The data of a stored word: none where the code rejects it, otherwise the corrected data and whether a correction was made (R52). -/
def wordDecode (w : BitVec 140) (home : Nat) : Option (BitVec 128 × Bool) :=
  match decodeSyndrome (wordSyndrome w home) with
  | .good => some (w.setWidth 128, false)
  | .single i => some ((w ^^^ BitVec.ofNat 140 (2 ^ i)).setWidth 128, true)
  | .adjacent i => some ((w ^^^ BitVec.ofNat 140 (2 ^ i) ^^^ BitVec.ofNat 140 (2 ^ (i + 1))).setWidth 128, true)
  | .uncorrectable => none

/-- The 140 stored bits of a word: data bits 0 to 127, then check bits 0 to 11 (R50). -/
def wordEncode (d : BitVec 128) (home : Nat) : BitVec 140 := d.setWidth 140 ||| ((wordCheckBits d home).setWidth 140 <<< 128)

/-- A word moves from one home to another: checked, corrected if correctable, and encoded anew; none where the code rejects it (R51). -/
def moveWord (w : BitVec 140) (src dst : Nat) : Option (BitVec 140) := (wordDecode w src).map fun d => wordEncode d.1 dst

/-- A port whose two encoder copies disagree has a fatal fault (R51). -/
def encodersAgree (a b : BitVec 12) : Bool := a == b

/-- The home of a word of a memory of a page's block: its fabric address (R51). DESIGN CHOICE (log 119): the page, the memory's number in it and the word's number. -/
def memoryHome (page cell word : Nat) : Nat := page * 2 ^ 34 + cell % 4 * 2 ^ 32 + word % 2 ^ 32

end Sys2Proof.Machine
end

