-- ==== Sys2Proof/Machine/Ops.lean ====
section
/-! DEFINITION. The operations every family of commands is written with: page headers and events, the event summary and its messages, reports to the fault collector, word-code outcomes and injected reads, fresh free values, and the admission of system records to the journal. -/

namespace Sys2Proof.Machine

/-- What a command answers. -/
abbrev Res := Host.Outcome State Fault Refusal

/-! ## Page headers -/

/-- The header of a page. -/
def hdr (s : State) (p : Nat) : PageHdr := vGet s.pages p {}

/-- Change the header of a page. -/
def updHdr (p : Nat) (f : PageHdr → PageHdr) (s : State) : State := { s with pages := vUpd s.pages p f }

/-! ## Modes and times -/

/-- The system view of the Station clock: the time every block stamps with (R350, R371). -/
def now (s : State) : Nat := s.tb.view

/-- Mode codes of SYS.STATUS (Table RST-1). -/
def modeCode : Mode → Nat
  | .starting => 0 | .safe => 1 | .run => 2 | .service => 3 | .split => 4 | .incomplete => 5 | .parked => 6

/-- The modes in which test and configuration writes of several chapters are accepted: SAFE, SERVICE, SPLIT and INCOMPLETE (R382, R385). -/
def notRunMode : Mode → Bool
  | .safe => true | .service => true | .split => true | .incomplete => true
  | .starting => false | .run => false | .parked => false

/-! ## Messages to the host -/

/-- One thing that leaves towards the host. -/
def hostEmit (o : HostOut) (s : State) : State := { s with pcie := { s.pcie with out := s.pcie.out ++ [o] } }

/-- The PCIe function may move data and send messages (R322). -/
def pcieMoves (s : State) : Bool := s.pcie.linkUp && s.pcie.bme && !s.pcie.d3

/-- Send MSI-X vector `v`: a message, or its pending bit while the vector or the function is masked or no message may leave (R331, R322). -/
def sendVector (v : Nat) (s : State) : State :=
  if s.pcie.msixEn then
    let e := vGet s.pcie.msix v {}
    if s.pcie.msixMask || e.ctrl.getLsbD 0 || !pcieMoves s then
      { s with pcie := { s.pcie with pba := setBit s.pcie.pba v true } }
    else hostEmit (.message v (e.addr.toNat + 2 ^ 32 * e.upper.toNat) e.data.toNat) s
  else s

/-- Send the messages of vectors that are pending and no longer held back. -/
def sendPending (s : State) : State :=
  if s.pcie.msixEn && !s.pcie.msixMask && pcieMoves s then
    (List.range 32).foldl (fun t v =>
      if t.pcie.pba.getLsbD v && !((vGet t.pcie.msix v {}).ctrl.getLsbD 0) then
        sendVector v { t with pcie := { t.pcie with pba := setBit t.pcie.pba v false } }
      else t) s
  else s

/-! ## Events -/

/-- EVT_PEND of a page: EVT_RAW AND EVT_EN (Table HIF-1). -/
def evtPend (s : State) (p : Nat) : Word32 := (hdr s p).evtRaw &&& (hdr s p).evtEn

/-- The event summary of R332. -/
def summary (s : State) : Bool := s.pages.any fun h => (h.evtRaw &&& h.evtEn) != 0

/-- The message the summary sends when it changes from 0 to non-zero (R332). -/
def summaryEdge (old : Bool) (s : State) : State :=
  if !old && summary s && s.pcie.evtIen then sendVector s.pcie.evtVec.toNat s else s

/-- Set bits of a page's EVT_RAW. -/
def evtBits (p : Nat) (m : Word32) (s : State) : State :=
  summaryEdge (summary s) (updHdr p (fun h => { h with evtRaw := h.evtRaw ||| m }) s)

/-- Set bit `n` of a page's EVT_RAW. -/
def evt (p n : Nat) (s : State) : State := evtBits p (flag n true) s

/-- Set bit `n` of a page's EVT_RAW where a condition holds. -/
def evtIf (c : Bool) (p n : Nat) (s : State) : State := if c then evt p n s else s

/-- Record an access in ERR_STAT of a page: bit `n` of KEY 0, MODE 1, VALUE 2, OWNER 3, WIDTH 4 (Table HIF-1). -/
def errStat (iface : Iface) (p off n : Nat) (s : State) : State :=
  updHdr p (fun h => { h with errStat := setBit h.errStat n true, errOff := BitVec.ofNat 12 off, errIface := iface }) s

/-! ## Free values -/

/-- A value the spec leaves open: nothing constrains it (log 2). -/
def drawFree (s : State) : Word32 × State := (Config.freeValue s.free, { s with free := s.free + 1 })

/-! ## Reports to the fault collector -/

/-- A source that can be raised on the fitted variant (R367). -/
def srcExists (v : Variant) (n : Nat) : Bool :=
  if 0x0C0 ≤ n ∧ n ≤ 0x13F then tilePresent v ((n - 0x0C0) / 16)
  else if 0x140 ≤ n ∧ n ≤ 0x1AF then
    (let i := n - 0x140
     if i < 96 then tilePresent v (i / 16) else tilePresent v (6 + (i - 96) / 8))
  else true

/-- A report leaves for the collector (R370). -/
def reportAs (r : Report) (s : State) : State :=
  if srcExists s.variant r.src then { s with fcr := { s.fcr with inbox := s.fcr.inbox ++ [r] } } else s

/-- A report with a syndrome and a detail (Table FCR-8). -/
def report (src : Nat) (synd : Word32) (detail page : Nat) (s : State) : State :=
  reportAs { src := src, synd := synd, detail := detail, page := page } s

/-- A report with syndrome and detail 0. -/
def report0 (src page : Nat) (s : State) : State := report src 0 0 page s

/-- A report where a condition holds. -/
def reportIf (c : Bool) (src page : Nat) (s : State) : State := if c then report0 src page s else s

/-- A tile source: `k` of Table FCR-3, with the mask affected; the detail is the tile position (Table FCR-8). -/
def tileReport (p k : Nat) (mask : BitVec 16) (s : State) : State :=
  report (0x0C0 + 16 * p + k) (mask.setWidth 32) p (pgTile p) s

/-! ## The word code (R50 to R53) -/

/-- A correctable outcome. -/
def isCorrectable : WordCheck → Bool
  | .single _ => true | .adjacent _ => true | .good => false | .uncorrectable => false

/-- What an injection mask on the check bits decodes as (R385). -/
def maskOutcome (m : BitVec 12) : WordCheck :=
  if m = 0 then .good
  else match (List.range 12).find? fun i => m == BitVec.ofNat 12 (2 ^ i) with
    | some i => .single (128 + i)
    | none =>
      match (List.range 11).find? fun i => m == BitVec.ofNat 12 (3 * 2 ^ i) with
      | some i => .adjacent (128 + i)
      | none => .uncorrectable

/-- The raw syndrome of an outcome; of one described only as uncorrectable it is a free value. -/
def rawSyndrome (w : WordCheck) (n : Nat) : BitVec 12 :=
  match w with
  | .good => 0
  | .single i => codeColumn i
  | .adjacent i => codeColumn i ^^^ codeColumn (i + 1)
  | .uncorrectable => Config.rawSyndrome n

/-- SYNDROME of a word-code source (Table FCR-8). -/
def wordSynd (w : WordCheck) (raw : BitVec 12) : Word32 :=
  match w with
  | .good => 0
  | .single i => raw.setWidth 32 ||| fld 12 8 i
  | .adjacent i => raw.setWidth 32 ||| fld 12 8 i ||| flag 20 true
  | .uncorrectable => raw.setWidth 32 ||| fld 12 8 0xFF ||| flag 21 true

/-- The result of a read through a port: its outcome, its syndrome word and whether an injection caused it. -/
structure ReadOut where
  check : WordCheck
  synd : Word32
  injected : Bool
  /-- The cell was isolated and has not been read (R26) -/
  isolated : Bool := false
  deriving DecidableEq, Repr

/-- One read through the read port of page `p`: an armed injection acts on it (R385), otherwise the outcome the array itself gives. -/
def readPort (p : Nat) (w : WordCheck) (s : State) : ReadOut × State :=
  let h := hdr s p
  if h.injCount = 0 then
    ({ check := w, synd := wordSynd w (rawSyndrome w s.free), injected := false },
     if w = .uncorrectable then { s with free := s.free + 1 } else s)
  else
    let m := maskOutcome h.injMask
    ({ check := m, synd := wordSynd m h.injMask, injected := true },
     updHdr p (fun h => { h with injCount := h.injCount - 1 }) s)

/-- Key of a cell of a block. -/
def cellKey (page cell : Nat) : Nat := page * 65536 + cell % 65536

/-- A cell of a block is isolated (R26). -/
def cellIsolated (s : State) (page cell : Nat) : Bool := (smGetD s.fab.cells (cellKey page cell) {}).isolated

/-- A block isolates a cell and reports it (R26, R27): CELL_ISO_SAFETY for a block R29 names and where a safety function is left unserved, CELL_ISO otherwise. -/
def isolateCell (page cell : Nat) (unserved : Bool) (s : State) : State :=
  report (if safetyPage page || unserved then 0x00F else 0x00E) 0 cell page
    { s with fab := { s.fab with cells := smSet s.fab.cells (cellKey page cell) { fails := 0, isolated := true }, cellIsolatedResp := false } }

/-- The error response of an isolated cell, which no memory is read for (R26). -/
def isolatedOut : ReadOut := { check := .uncorrectable, synd := 0, injected := false, isolated := true }

/-- Up to three reads of a memory cell, of which the first that is not uncorrectable ends it (R26). -/
def readThrice (p : Nat) (w : WordCheck) (s : State) : ReadOut × State :=
  let r1 := readPort p w s
  if r1.1.check != .uncorrectable then r1 else
  let r2 := readPort p w r1.2
  if r2.1.check != .uncorrectable then r2 else readPort p w r2.2

/-- A read of a memory cell with the retries of R26; after the third failure the block isolates the cell. An isolated cell answers CELL_ISOLATED. The memories of a block are its cells, numbered from 0 in the order of its chapter (log 118); the store's banks are isolated by their own rule (R250). -/
def readRetry (p cell : Nat) (w : WordCheck) (s : State) : ReadOut × State :=
  if cellIsolated s p cell then (isolatedOut, { s with fab := { s.fab with cellIsolatedResp := true } }) else
  let r := readThrice p w s
  if r.1.check != .uncorrectable || p == pgSto then r else (r.1, isolateCell p cell false r.2)

/-- Report the outcome of a read: `corr` is the source of a corrected word, `unc` that of an uncorrectable one (R52); of a word that was not read there is nothing to report. -/
def reportRead (corr unc page addr : Nat) (r : ReadOut) (s : State) : State :=
  if r.isolated then s else
  match r.check with
  | .good => s
  | .uncorrectable => reportAs { src := unc, synd := r.synd, detail := addr, page := page, injected := r.injected } s
  | .single _ => reportAs { src := corr, synd := r.synd, detail := addr, page := page, injected := r.injected } s
  | .adjacent _ => reportAs { src := corr, synd := r.synd, detail := addr, page := page, injected := r.injected } s

/-! ## The last committed epoch, and system records of the journal -/

/-- The latest committed epoch of the start-up, 0 if none (R54, R58). -/
def lastEpoch (s : State) : Word32 := s.sys.epoch

/-- The occupancy of a record (R291). -/
def recOcc (r : Rec) : Nat := 32 + 16 * ((r.payload.length + 15) / 16)

/-- H: the occupancy of host records not yet sealed (R293). -/
def occHost (j : Jrn) : Nat := ((j.waiting ++ j.buf).map fun b => if b.host then recOcc b.r else 0).sum

/-- S: the occupancy of system records not yet sealed (R293). -/
def occSys (j : Jrn) : Nat := ((j.waiting ++ j.buf).map fun b => if b.host then 0 else recOcc b.r).sum

/-- The engine admits records: recovery has ended and sealing has not (R305, R538). -/
def jrnAdmits (j : Jrn) : Bool :=
  match j.st with
  | .running => true | .sealing => true | .recovering => false | .sealed => false

/-- Admission of a system record (Table JRN-8): always admitted; UNCOVERED and RESERVE_OVF as R293 lays down. -/
def admitSystem (r : Rec) (s : State) : State :=
  if jrnAdmits s.jrn then
    let b := recOcc r
    let S := occSys s.jrn
    let H := occHost s.jrn
    let unc := decide (H + S + b > s.jrn.k)
    let ovf := decide (S + b > 262144)
    let r' := { r with uncovered := unc }
    let s := { s with jrn := { s.jrn with
      waiting := s.jrn.waiting ++ [{ r := r', host := false, at_ := now s, no := s.jrn.admitted + 1 }], admitted := s.jrn.admitted + 1,
      uncov := if unc then satAdd 32 s.jrn.uncov 1 else s.jrn.uncov } }
    let s := evtIf unc pgJrn 3 (reportIf unc 0x088 pgJrn s)
    evtIf ovf pgJrn 10 (reportIf ovf 0x091 pgJrn s)
  else s

/-- Admit a system record with the given stamp, source, class and payload. -/
def sysRecord (time : Nat) (epoch : Word32) (source cls : Nat) (payload : List Byte) (s : State) : State :=
  admitSystem { time := time, epoch := epoch, source := source, cls := cls, payload := payload } s

/-- A record raised by the Interlocking (Table JRN-2), as JOURNAL traffic (Table ARC-3). -/
def interlockRecord (time : Nat) (epoch : Word32) (cls : Nat) (payload : List Byte) (s : State) : State :=
  sysRecord time epoch 0x0002 cls payload (issue .record pgIlkl pgJrn (2 + (payload.length + 15) / 16) s)

/-- Change the mode; the change raises a MODE record with the time of the change (R288). -/
def setMode (m : Mode) (s : State) : State :=
  if s.sys.mode = m then s
  else
    let old := s.sys.mode
    sysRecord (now s) (lastEpoch s) 0x0001 0x03 (leBytes 1 (modeCode old) ++ leBytes 1 (modeCode m) ++ zeros 2)
      { s with sys := { s.sys with mode := m } }

/-! ## The console (R342) -/

/-- The console queues a line of `n` bytes, or drops it whole and counts it. -/
def uartLine (n : Nat) (s : State) : State :=
  if s.uart.queued + n ≤ 512 then { s with uart := { s.uart with queued := s.uart.queued + n } }
  else { s with uart := { s.uart with drop := satAdd 32 s.uart.drop 1 } }

/-! ## Dual-clock queues (R44 to R46) -/

/-- Queue i of Table ARC-6. -/
def xq (s : State) (i : Nat) : XQueue := vGet s.queues i {}

/-- Change queue i. -/
def updQ (i : Nat) (f : XQueue → XQueue) (s : State) : State := { s with queues := vUpd s.queues i f }

/-- The clock domains (Table ARC-4); a tile link's is its tile position. -/
inductive Domain where
  | sys | tb | sto | pcie | xspi | mgt | tileLink (p : Nat) | stby
  deriving DecidableEq, Repr

/-- The producer domain, the consumer domain and the depth of a queue (Table ARC-6). -/
def xqTable (i : Nat) : Domain × Domain × Nat :=
  match i with
  | 0 => (.pcie, .sys, 64) | 1 => (.sys, .pcie, 64) | 2 => (.mgt, .sys, 8) | 3 => (.sys, .mgt, 8)
  | 4 => (.sys, .sto, 32) | 5 => (.sto, .sys, 32) | 6 => (.xspi, .sys, 4) | 7 => (.sys, .xspi, 64)
  | 24 => (.stby, .sys, 16) | 25 => (.sys, .stby, 4)
  | _ => if i < 16 then (.tileLink (i - 8), .sys, 8) else (.sys, .tileLink (i - 16), 8)

/-- The depth of a queue: a power of two (R43, Table ARC-6). -/
def xqDepth (i : Nat) : Nat := (xqTable i).2.2

/-- The block of a page that queue i serves, which has an end in it (Table ARC-6). -/
def xqBlock (i : Nat) : Nat :=
  if i < 2 then pgPcie else if i < 4 then pgMgt else if i < 6 then pgSto else if i < 8 then pgBoot
  else if i < 16 then pgTile (i - 8) else if i < 24 then pgTile (i - 16) else pgLmn

/-- The queues of Table ARC-6 that serve a page's block. -/
def queuesOfPage (pg : Nat) : List Nat := (List.range 26).filter fun i => xqBlock i == pg

/-- A pointer in Gray code, as it crosses to the other side (R43). -/
def grayCode (n : Nat) : Nat := n ^^^ (n / 2)

/-- The number a Gray-coded pointer of up to 8 bits stands for. -/
def fromGray (g : Nat) : Nat := g ^^^ (g / 2) ^^^ (g / 4) ^^^ (g / 8) ^^^ (g / 16) ^^^ (g / 32) ^^^ (g / 64) ^^^ (g / 128)

/-- The entries between two pointers of queue i. -/
def xqBetween (i w r : Nat) : Nat := (w + 2 * xqDepth i - r % (2 * xqDepth i)) % (2 * xqDepth i)

/-- The producer's full flag, from the consumer's pointer as it has it (R43). -/
def xqFull (i : Nat) (q : XQueue) : Bool := decide (xqDepth i ≤ xqBetween i q.wptr q.rSeen)

/-- The consumer's empty flag, from the producer's pointer as it has it (R43). -/
def xqEmpty (i : Nat) (q : XQueue) : Bool := decide (xqBetween i q.wSeen q.rptr = 0)

/-- The home of an entry of a queue: the queue index and the entry index (R51). -/
def queueHome (i ptr : Nat) : Nat := i * 256 + ptr % xqDepth i

/-- Both sides have synchronised the other's pointer, which crosses in Gray code (R43). DESIGN CHOICE (log 119): within one CLK_TB cycle in which no command waits. -/
def syncQueue (q : XQueue) : XQueue := { q with wSeen := fromGray (grayCode q.wptr), rSeen := fromGray (grayCode q.rptr) }

/-- What a queue holds is lost when it is severed (R44): its entries, and the writes to the Lengthman that have not crossed queue 25, which takes 4 ticks at most (R469). -/
def loseQueue (i : Nat) (s : State) : State :=
  if i = 25 then { s with lmn := { s.lmn with writes := s.lmn.writes.filter fun w => decide (w.at_ + 12208 ≤ now s) } } else s

/-- A reset on the sides named puts a queue in SEVERED: its discard count is cleared, CLKG.XQ_SEVER and the source SEVERED are raised (R44, R46). A queue that is SEVERED already only keeps the reset. -/
def severQueue (i : Nat) (prod cons : Bool) (s : State) : State :=
  match (xq s i).st with
  | .absent => s
  | .severed => updQ i (fun q => { q with prodRst := q.prodRst || prod, consRst := q.consRst || cons }) s
  | .joined => report 0x009 0 i pgClkg (evt pgClkg 2 (updQ i (fun _ => { st := .severed, prodRst := prod, consRst := cons }) (loseQueue i s)))
  | .rejoining => report 0x009 0 i pgClkg (evt pgClkg 2 (updQ i (fun _ => { st := .severed, prodRst := prod, consRst := cons }) (loseQueue i s)))

/-- A side of a queue leaves reset. -/
def queueRelease (i : Nat) (prod cons : Bool) (s : State) : State :=
  updQ i (fun q => { q with prodRst := q.prodRst && !prod, consRst := q.consRst && !cons }) s

/-- What a queue makes of `n` words written into it and read from it (R43, R44). JOINED, they pass and both pointers move on. SEVERED or REJOINING, the writes are discarded, and counted while the producer side is out of reset; a consumer that is out of reset reads empty, and reports SEVERED. -/
def passQueue (i n : Nat) (q : XQueue) : XQueue :=
  match q.st with
  | .joined => let w := (q.wptr + n) % (2 * xqDepth i); { q with wptr := w, rptr := w, wSeen := w, rSeen := w, sevRead := false }
  | .severed => { q with discards := if q.prodRst then q.discards else BitVec.ofNat 16 (min (q.discards.toNat + n) 0xFFFF), sevRead := q.sevRead || !q.consRst }
  | .rejoining => { q with sevRead := q.sevRead || !q.consRst }
  | .absent => q

/-- `n` words pass queue i within one command. -/
def qPass (i n : Nat) (s : State) : State := updQ i (passQueue i n) s

/-- A write into a queue that is SEVERED is discarded and counted while the producer side is out of reset (R44). -/
def queueDiscard (i n : Nat) (s : State) : State :=
  let q := xq s i
  if q.st = .severed && !q.prodRst then updQ i (fun q => { q with discards := BitVec.ofNat 16 (min (q.discards.toNat + n) 0xFFFF) }) s else s

/-- The producer of queue i writes a word: it is held until the consumer takes it (R43); SEVERED, it is discarded. A full queue takes none. -/
def qPush (i : Nat) (d : BitVec 128) (s : State) : State :=
  let q := xq s i
  match q.st with
  | .joined => if xqFull i q then s else updQ i (fun q => { q with ents := q.ents ++ [d], wptr := (q.wptr + 1) % (2 * xqDepth i) }) s
  | .severed => queueDiscard i 1 s
  | .rejoining => s
  | .absent => s

/-- The consumer of queue i takes `n` of the words held, oldest first. -/
def qPop (i n : Nat) (s : State) : State :=
  updQ i (fun q => let k := min n q.ents.length; { q with ents := q.ents.drop k, rptr := (q.rptr + k) % (2 * xqDepth i) }) s

end Sys2Proof.Machine
end

