-- ==== Sys2Proof/Machine/Trip.lean ====
section
/-! DEFINITION. Interlocking trips: detection, the trip latch, the catch points and the TRIP record (R92 to R97, R369), and the fences that force them (R28, R29). -/

namespace Sys2Proof.Machine

/-- A mode in which scans run while a table is installed (R82). -/
def modeScans : Mode → Bool
  | .safe => true | .run => true | .incomplete => true | .split => true
  | .starting => false | .service => false | .parked => false

/-- An evaluator of channel c. -/
def chanIlk (s : State) : Chan → Ilk
  | .a => s.ilkA | .b => s.ilkB

/-- Change the evaluator of a channel. -/
def updIlk (c : Chan) (f : Ilk → Ilk) (s : State) : State :=
  match c with
  | .a => { s with ilkA := f s.ilkA }
  | .b => { s with ilkB := f s.ilkB }

/-- The page of a channel's evaluator. -/
def pgIlk : Chan → Nat
  | .a => pgIlkA | .b => pgIlkB

/-- The installed table, as evaluator A holds it. -/
def curTable (s : State) : Option Table := s.ilkA.table

/-- A table is installed in both evaluators, in SPLIT in evaluator A (Table ILK-28). -/
def tableIn (s : State) : Bool := s.ilkA.table.isSome && (s.ilkB.table.isSome || s.sys.mode == .split)

/-- The epoch after `e` (R54): after 0xFFFF_FFFF the number continues at 1. -/
def nextEpoch (e : Word32) : Word32 := if e = 0xFFFFFFFF then 1 else e + 1

/-- Scanning runs: the evaluator has entered SCANNING and not left it (R79, R92). -/
def scanningRuns (s : State) : Bool := s.ilkA.st == .scanning

/-- The mode in force at the next scan start. -/
def nextMode (s : State) : Mode := s.sys.modePend.getD s.sys.mode

/-- Between scans, the next scan will run, so a cause detected now belongs to it (R92). -/
def nextScanRuns (s : State) : Bool := scanningRuns s && modeScans (nextMode s) && s.ilkA.table.isSome

/-- The phase a cause detected now is recorded with: 7 outside a scan (R92). -/
def tripPhaseNow (s : State) : Nat := if s.ilkl.scanning then s.ilkA.phase else 7

/-- The epoch a cause detected now belongs to (R92). -/
def tripEpochNow (s : State) : Word32 :=
  if s.ilkl.scanning then (if s.ilkl.committed then s.sys.epoch else nextEpoch s.sys.epoch)
  else if nextScanRuns s then nextEpoch s.sys.epoch
  else s.sys.epoch

/-- The codes of a list of causes as a mask, bit n for code n. -/
def causeMask (l : List Cause) : Word32 := l.foldl (fun m c => m ||| flag c.code true) 0

/-- The lowest code of a list of causes, with the channel and phase it was detected with. -/
def lowestCause (l : List Cause) : Cause :=
  l.foldl (fun b c => if b.code = 0 ∨ c.code < b.code then c else b) { code := 0, phase := 0, chan := 0 }

/-- The payload of a TRIP record (Table JRN-4). -/
def tripPayload (l : List Cause) (digest : Word32) : List Byte :=
  let c := lowestCause l
  leBytes 4 (causeMask l).toNat ++ leBytes 1 c.code ++ leBytes 1 c.phase ++ leBytes 1 c.chan ++ zeros 1 ++
    leBytes 2 (if c.detail ≤ 8319 then c.detail else 0xFFFF) ++ zeros 2 ++ leBytes 4 digest.toNat

/-- Both channels replace their command images with the all-off images (R92). -/
def imagesOff (s : State) : State :=
  { s with ilkl := { s.ilkl with imgA := { s.ilkl.imgA with sot := 0, field := 0 }, imgB := { s.ilkl.imgB with sot := 0, field := 0 } } }

/-- What the trip latch holds after a cause: the first cause stays; TRIP_SET accumulates; TRIP_COUNT counts settings of the latch (R93, Table ILK-35). -/
def latchTrip (c : Cause) (epoch : Word32) (time : Nat) (l : Ilkl) : Ilkl :=
  let l := { l with tripSet := l.tripSet ||| flag c.code true, clearBroken := l.clearBroken || l.clearPend }
  if l.trip then l
  else { l with trip := true, cause := c.code, causePhase := c.phase, causeChan := c.chan, tripEpoch := epoch, tripTime := time, tripCount := satAdd 32 l.tripCount 1 }

/-- A channel that detected a cause records it in TRIP_INFO and TRIP_EPOCH and raises its TRIP event (Tables ILK-19, ILK-21, ILK-22). -/
def chanTrip (c : Chan) (cause : Cause) (epoch : Word32) (s : State) : State :=
  evt (pgIlk c) 1 (updIlk c (fun k => { k with tripPhase := cause.phase, tripCause := cause.code, tripEpoch := epoch }) s)

/-- A cause's fault source is raised when it was detected neither in the previous epoch nor earlier in this one; while no scan runs, when it is first detected since the latch was clear (R369). -/
def causeIsNew (code : Nat) (s : State) : Bool :=
  if s.ilkl.scanning || nextScanRuns s then
    !(s.ilkl.causes.any fun c => c.code == code) && !(s.ilkl.prevCauses.getLsbD code)
  else !(s.ilkl.tripSet.getLsbD code)

/-- Detection of a trip cause by the channels named (1 A, 2 B, 3 both, 0 neither), reported from page `pg` (R92, R93, R369). -/
def trip (code chan detail pg : Nat) (s : State) : State :=
  let c : Cause := { code := code, phase := tripPhaseNow s, chan := chan, detail := detail }
  let e := tripEpochNow s
  let fresh := causeIsNew code s
  let wasSet := s.ilkl.trip
  let belongs := s.ilkl.scanning || nextScanRuns s
  let s := imagesOff { s with ilkl := latchTrip c e (now s) s.ilkl }
  let s := if belongs then { s with ilkl := { s.ilkl with causes := s.ilkl.causes ++ [c] } } else s
  let s := evtIf (!wasSet) pgIlkl 2 s
  let s := if chan % 2 = 1 then chanTrip .a c e s else s
  let s := if chan / 2 = 1 then chanTrip .b c e s else s
  let s := if fresh then report (0x020 + code) (fld 0 5 code ||| fld 5 3 c.phase ||| fld 8 2 chan) detail pg s else s
  if belongs then s
  else interlockRecord (now s) e 0x01 (tripPayload [c] s.ilkA.digest) s

/-- A cause with no mismatching bit to name. -/
def trip0 (code chan pg : Nat) (s : State) : State := trip code chan 0xFFFFFF pg s

/-- A Logic-region block is fenced (R95, Table RST-3). -/
def logicFenced (s : State) : Bool := (List.range 64).any fun p => logicPage p && s.fab.fenced.getLsbD p

/-- Every queue with one end in a block is severed (R28). DESIGN CHOICE (log 120): where a fence alone severs it and no reset does, the spec does not say which side XQ_INFO shows in reset; the model shows the block's own side, the consumer side of queue 25 and the producer side of every other. -/
def severPage (pg : Nat) (s : State) : State := (queuesOfPage pg).foldl (fun t i => severQueue i (i != 25) (i == 25) t) s

/-- Set the fence of a block: the requests it issued and that no point has granted are discarded, its queues are SEVERED; the fence of a safety block forces the catch points in the same cycle (R28, R29). `src` is the report it makes. -/
def fence (pg : Nat) (src : Bool) (s : State) : State :=
  let s := { s with fab := { s.fab with fenced := setBit s.fab.fenced pg true, resetDone := setBit s.fab.resetDone pg false } }
  let s := severPage pg (discardRequests pg s)
  let s := if src then report 0x00D 0 (regionIndex pg) pg s else s
  if safetyPage pg then trip0 0x10 0 pg s else s

end Sys2Proof.Machine
end

