-- ==== Sys2Proof/Machine/ResetOps.lean ====
section
/-! DEFINITION. What a reset does to the blocks it reaches (R364, R509, Table RST-9), the PCIe reset (R322), and the start of the power-fail sequence (R487, R488). -/

namespace Sys2Proof.Machine

/-- The header of a page returns to reset: events, enables, injection, access record and key. -/
def resetHdr (p : Nat) (s : State) : State := updHdr p (fun _ => {}) s

/-- Release the pin of an interface (R337). -/
def releasePin (i : Nat) (s : State) : State := { s with ep := { s.ep with pins := vSet s.ep.pins i none } }

/-- Number of an interface (Table HIF-1). -/
def ifaceNo : Iface → Nat
  | .pcie => 0 | .mgt => 1 | .debug => 2

/-- Key of the _LO/_HI latch of an interface, a page and an offset (R22). -/
def latchKey (i : Iface) (p off : Nat) : Nat := (ifaceNo i * 256 + p) * 4096 + off

/-- Release the latches of an interface (R322). -/
def releaseLatches (i : Iface) (s : State) : State :=
  { s with latch := s.latch.filter fun e => e.1 / (256 * 4096) != ifaceNo i }

/-- The fate of a command in flight at a PCIe reset (R322, points 3 and 4): one whose host data have been fetched, or that needs none, runs on and loses its completion; every other one is abandoned. -/
def pcieResetCmd (c : Cmd) : Option Cmd :=
  match c.id.src with
  | .mbx => some c
  | .sq _ =>
    match c.stage with
    | .fetched =>
      let op := c.desc.opcode.toNat
      if op = 0x02 ∨ op = 0x03 ∨ (op = 0x10 ∧ c.desc.length != 0) then none else some { c with orphan := true }
    | .waiting => some { c with orphan := true }
    | .decided _ => some { c with orphan := true }

/-- The queue blocks, IRQ_CFG, EVT_EN of the PCIE page and the MSI-X table at their reset values (R322, point 2). -/
def pcieQueuesReset (p : Pcie) : Pcie :=
  { p with evtIen := false, evtVec := 0, sqs := Vector.ofFn fun q => { vec := BitVec.ofNat 5 q.val },
           msix := Vector.replicate 32 {}, pba := 0, rr := 0, cmds := p.cmds.filterMap pcieResetCmd }

/-- A PCIe reset (R322). A Function Level Reset leaves the link up. -/
def pcieReset (flr : Bool) (s : State) : State :=
  let s := severQueue 1 false true (severQueue 0 true false s)
  let s := { s with pcie := { pcieQueuesReset s.pcie with bme := false, msixEn := false, msixMask := false, d3 := false, linkUp := s.pcie.linkUp && flr } }
  let s := updHdr pgPcie (fun h => { h with evtEn := 0 }) s
  releaseLatches .pcie (releasePin 0 s)

/-- Lengthman at a loss of state (Table LMN-2, first row); the supply's own level stands. -/
def lmnLost (s : State) : State := { s with lmn := { vLow := s.lmn.vLow, vLowSeen := s.lmn.vLow } }

/-- The Timetable and the claims start anew. -/
def tblReset (s : State) : State := { s with tbl := {} }

/-- An evaluator after a reset: NO_TABLE, every boolean signal FALSE and every word signal 0 in the channel's encoding (Table ILK-1, log 13). -/
def ilkReset (c : Chan) (s : State) : State :=
  match c with
  | .a => { s with ilkA := {} }
  | .b => { s with ilkB := { bools := BitVec.allOnes 4096, prevBools := BitVec.allOnes 4096 } }

/-- The causes of a scan that a reset cuts off: no commit will list them, so the loader raises their TRIP record at once, with the epoch they belong to (R92, R93; log 121). -/
def closeCauses (s : State) : State :=
  if s.ilkl.causes.isEmpty then s
  else interlockRecord (now s) (tripEpochNow s) 0x01 (tripPayload s.ilkl.causes s.ilkA.digest) { s with ilkl := { s.ilkl with causes := [] } }

/-- The loader after a reset of its block: commands and copies forgotten; the trip latch and TRIP_COUNT stand (R96, R110), and so does which copy is active, for the evaluators reinstall it (Table ILK-16, Table RST-9). -/
def ilklReset (s : State) : State :=
  let l := s.ilkl
  { s with ilkl := { trip := l.trip, cause := l.cause, causePhase := l.causePhase, causeChan := l.causeChan, tripEpoch := l.tripEpoch,
                     tripTime := l.tripTime, tripSet := l.tripSet, tripCount := l.tripCount, active := l.active, activeGen := l.activeGen } }

/-- Compare channels 1 to 31 at reset; channel 0 loses EN (R355, R364). -/
def tbaseReset (s : State) : State :=
  let c0 := vGet s.tb.chans 0 {}
  { s with tb := { s.tb with chans := (Vector.replicate 32 {}).setIfInBounds 0 { c0 with en := false, wrPend := none } } }

/-- The Touchmark controller's registers after a Logic reset; the array, its shadow and what P1 took from it stand (R423, R439). -/
def tchReset (s : State) : State :=
  let t := s.tch
  { s with tch := { t with run := none, cmd := 0, data := Vector.replicate 4 0, result := 0, rdData := 0, rdStat := 0, rowSel := 0, progFails := 0, calSel := 0x0100 } }

/-- The Hallmark engine after a Logic reset: waiting work is lost; keys, identity and measurements of the start-up stand (R439, R444). -/
def hmkReset (s : State) : State :=
  let h := s.hmk
  { s with hmk := { h with measSel := 0, measData := zeros 32, reject := none, verifies := 0, rejects := 0, verifyMaxUs := 0, cur := none, queue := [], atts := [] } }

/-- The Assay controller after a Logic reset: what a chip reset alone ends stands (R396, Table AST-5). -/
def astReset (s : State) : State :=
  let a := s.ast
  { s with ast := { a with stoEn := true, perEn := true, testSel := 1, stoInt := 1, pinSlot := 100, rounds := 0, pathB := false, pin := 0, unit := Vector.replicate 6 0, doneA := 0, doneB := 0,
                           aborts := [], abortTotal := 0, passes := 0, segs := Vector.replicate 32 0, segDone := 0, skips := 0, tests := Vector.replicate 8 none } }

/-- The store controller after a Storage reset: the array and the map ingots stand; the map is recovered again (R509). -/
def stoReset (s : State) : State :=
  let t := s.sto
  { s with sto := { mem := t.mem, poison := t.poison, log := t.log, snaps := t.snaps } }

/-- The engine after a reset (R312): what each start-up raises once stays raised (R299), and entries recorded from now on are handed over after recovery (R538). -/
def jrnReset (s : State) : Jrn :=
  { judged := s.jrn.judged, weakRaised := s.jrn.weakRaised, shortRaised := s.jrn.shortRaised, handed := s.fcr.total }

/-- A link controller after a reset. -/
def linkReset (p : Nat) (s : State) : State := { s with links := vSet s.links p {} }

/-- One stream's side of the tile-side logic after a tile reset at time `t` (R197); the supply's own level and the temperature stand. -/
def sideReset (t : Nat) (d : Side) : Side :=
  { volt := d.volt, band := d.band, temp := d.temp, hot := d.hot, acceptAt := t,
    normalAt := if d.band == .normal then some t else none, belowAt := if d.band == .belowTrip || d.band == .missing then some t else none }

/-- The tile-side logic resets (R197): both sides of a safety output tile. -/
def tileReset (p : Nat) (s : State) : State :=
  { s with tiles := vUpd s.tiles p (fun t => { a := sideReset (now s) t.a, b := sideReset (now s) t.b }), ast := { s.ast with tile := vSet s.ast.tile p none } }

/-- The Tablet after a reset of its block: SPLIT is the mode's, and what P3 found stands, for only a chip reset repeats P3 (R170, R182, log 35). -/
def tabReset (s : State) : State :=
  { s with tab := { split := s.tab.split, cmpFail := s.tab.cmpFail, injFail := s.tab.injFail } }

/-- The Double-header after a reset of its block: the pair restarts, LOCKSTEP is 0 until the comparator injection has been repeated (R163), and the supervisor watchdog counts from here. -/
def dhdReset (s : State) : State :=
  { s with dhd := { split := s.dhd.split, cmpFail := s.dhd.cmpFail, injFail := s.dhd.injFail, wdogAt := now s } }

/-- The block of a page returns to its reset values (R509). Chip-level pages are not reached. -/
def resetBlock (pg : Nat) (s : State) : State :=
  let s := resetHdr pg s
  match pageKind s.variant pg with
  | .ilk => ilkReset (if pg = pgIlkA then .a else .b) s
  | .ilkl => ilklReset s
  | .tab => tabReset s
  | .dhd => dhdReset s
  | .tbl => tblReset s
  | .tbase => tbaseReset s
  | .tmr => { s with tmr := Vector.replicate 8 {} }
  | .crc => { s with crc := vSet s.crc (pg - 0x1C) {} }
  | .ast => astReset s
  | .tch => tchReset s
  | .hmk => hmkReset s
  | .sto => stoReset s
  | .jrn => { s with jrn := jrnReset s }
  | .boot => { s with boot := { since := now s, sfdp := s.boot.sfdp } }
  | .pcie => { pcieReset false s with pcie := { cmds := s.pcie.cmds.filterMap pcieResetCmd, out := s.pcie.out } }
  | .mgt => { s with mgt := {} }
  | .ft => linkReset (pg - 0x10) s
  | .sot => linkReset (pg - 0x12) s
  | .lmn => lmnLost s
  | .ep => { s with ep := {} }
  | .sys => s | .rst => s | .pwr => s | .clkg => s | .fcr => s | .absent => s

/-- The pages of a region (Table ARC-2). -/
def regionPages : Region → List Nat
  | .logic => [pgTbase, pgTmr, pgIlkA, pgIlkB, pgIlkl, pgTab, pgDhd, pgTbl, 0x1C, 0x1D, 0x1E, 0x1F, pgAst, pgTch, pgHmk] ++ (List.range 16).map fun k => 0x30 + k
  | .storage => [pgSto, pgJrn, pgBoot]
  | .host => [pgPcie, pgMgt]
  | .field => [0x10, 0x11, 0x12, 0x13, 0x14, 0x15, 0x18, 0x19]
  | .standby => [pgLmn]

/-- The queues a region reset severs and on which sides (Table RST-9): queue, producer side, consumer side. -/
def regionQueues : Region → List (Nat × Bool × Bool)
  | .logic => [(24, false, true), (25, true, false)]
  | .storage => [(4, true, true), (5, true, true), (6, true, true), (7, true, true)]
  | .host => [(0, true, true), (1, true, true), (2, true, true), (3, true, true)]
  | .field => (List.range 16).map fun i => (8 + i, true, true)
  | .standby => [(24, true, false), (25, false, true)]

/-- A pending mode request is cancelled by a Logic region reset and completes RESET (R495). -/
def cancelModeReq (code : Nat) (s : State) : State :=
  match s.sys.modePend with
  | none => s
  | some _ => evt pgSys 3 { s with sys := { s.sys with modePend := none, modeResult := BitVec.ofNat 8 code } }

/-- A reset that reaches a block ends the isolation of its cells (R27). -/
def cellsReset (pg : Nat) (s : State) : State :=
  { s with fab := { s.fab with cells := s.fab.cells.filter (fun e => e.1 / 65536 != pg), turns := smErase s.fab.turns pg } }

/-- A page is reached by a region or block reset that runs. -/
def pageInReset (pg : Nat) (s : State) : Bool :=
  s.rst.running.any fun r => !r.waiting && (match r.target with | .region g => (regionPages g).contains pg | .block p => p == pg)

/-- A region reset takes hold (R30, R509): its ports are fenced, its queues are severed, its blocks return to reset; a Logic reset forces the catch points with cause FENCE (R96). -/
def regionResetStart (r : Region) (s : State) : State :=
  let s := (regionPages r).foldl (fun t p => discardRequests p (cellsReset p { t with fab := { t.fab with fenced := setBit t.fab.fenced p (pagePresent t.variant p) } })) s
  let s := (regionQueues r).foldl (fun t q => severQueue q.1 q.2.1 q.2.2 t) s
  let s := if r = .logic then closeCauses (trip0 0x10 0 pgIlkl s) else s
  let s := (regionPages r).foldl (fun t p => resetBlock p t) s
  match r with
  | .logic => cancelModeReq 0x0E s
  | .host => releasePin 2 (releasePin 1 (releasePin 0 { s with dbg := {}, uart := {} }))
  | .field => (List.range 8).foldl (fun t p => if tilePresent t.variant p then tileReset p t else t) s
  | .storage => s
  | .standby => s

/-- A block reset takes hold (R28, R509). -/
def blockResetStart (pg : Nat) (s : State) : State :=
  let s := fence pg false s
  let s := if pg = pgIlkl then closeCauses s else s
  resetBlock pg (cellsReset pg s)

/-- A reset must wait until the records admitted before it are SEALED (R511). -/
def resetWaits (t : ResetTarget) (s : State) : Bool :=
  (match t with
   | .region .storage => true
   | .block pg => pg == pgSto || pg == pgJrn
   | .region _ => false) && jrnAdmits s.jrn && !(s.jrn.waiting.isEmpty && s.jrn.buf.isEmpty)

/-- The index of a region (CMD.REGION of Table RST-11). -/
def regionNo : Region → Nat
  | .logic => 0 | .storage => 1 | .host => 2 | .field => 3 | .standby => 4

/-- RST.LAST and REGION_COUNT as a reset begins (Table RST-11). -/
def noteReset (t : ResetTarget) (fromFcr : Bool) (r : Rst) : Rst :=
  match t with
  | .region g =>
    let i := regionNo g
    { r with counts := vUpd r.counts i (fun n => if i = 4 then min (n + 1) 15 else min (n + 1) 255),
             lastFromFcr := fromFcr, lastBlock := false, lastRegion := BitVec.ofNat 3 i }
  | .block pg => { r with lastFromFcr := fromFcr, lastBlock := true, lastPage := BitVec.ofNat 8 pg }

/-- A region or block reset takes hold now. -/
def takeReset (t : ResetTarget) (s : State) : State :=
  match t with
  | .region r => (regionPages r).foldl (fun t p => { t with fab := { t.fab with resetDone := setBit t.fab.resetDone p true } }) (regionResetStart r s)
  | .block pg => (fun t : State => { t with fab := { t.fab with resetDone := setBit t.fab.resetDone pg true } }) (blockResetStart pg s)

/-- A region or block reset is asked for: it waits under R511, or takes hold at once. -/
def startReset (t : ResetTarget) (fromFcr : Bool) (s : State) : State :=
  let w := resetWaits t s
  let s := { s with rst := { noteReset t fromFcr s.rst with running := s.rst.running ++ [{ target := t, fromFcr := fromFcr, waiting := w }] } }
  if w then { s with jrn := { s.jrn with closed := true } } else takeReset t s

/-- The power-fail sequence starts for a cause of Table PWR-10, or the cause is added while it runs (R487): steps 1 and 2 of Table PWR-11. -/
def pfStart (cause : Nat) (s : State) : State :=
  if s.pwr.pfRun then
    { s with pwr := { s.pwr with pfSet := setBit s.pwr.pfSet (cause - 1) true } }
  else
    let s := { s with pwr := { s.pwr with pfRun := true, pfFirst := cause, pfSet := setBit s.pwr.pfSet (cause - 1) true, pfAt := now s,
                                          charging := false, allOff := true } }
    let s := imagesOff s
    let s := report0 0x013 pgPwr (evt pgPwr 4 s)
    cancelModeReq 0x0C s

/-- The queues after a chip reset: those of absent tiles are ABSENT (R47). -/
def queuesFor (v : Variant) : Vector XQueue 26 :=
  Vector.ofFn fun i => if 8 ≤ i.val ∧ i.val < 24 ∧ !(tilePresent v ((i.val - 8) % 8)) then { st := .absent } else {}

/-- CAUSE.CODE and CAUSE.SOURCE of a chip reset (Table RST-8). -/
def causeCode : ChipCause → Nat × Nat
  | .powerOn => (1, 0) | .pin => (2, 0) | .fault n => (3, n) | .host => (4, 0) | .feedReturn => (5, 0)

/-- A chip reset (R507): the catch points are forced, the tiles get the reset sequence, the trip latch clears, and start-up begins at P0. The Standby region, the store's contents, the Touchmark array, the rails and what has left towards the host stand. -/
def chipReset (cause : ChipCause) (s : State) : State :=
  let c := causeCode cause
  let t : State :=
    { pending := s.pending, variant := s.variant, free := s.free,
      rst := { causeCode := BitVec.ofNat 4 c.1, causeSource := BitVec.ofNat 9 c.2, pinLow := s.rst.pinLow },
      queues := queuesFor s.variant,
      dbg := s.dbg,
      pcie := { out := s.pcie.out },
      sto := { mem := s.sto.mem, poison := s.sto.poison, log := s.sto.log, snaps := s.sto.snaps },
      tch := { rows := s.tch.rows, junction := s.tch.junction },
      lmn := { s.lmn with aligned := false },
      tiles := s.tiles,
      pwr := { voltA := s.pwr.voltA, voltB := s.pwr.voltB, rails := s.pwr.rails, bridge := s.pwr.bridge,
               vcoreEarly := s.pwr.vcoreEarly && c.1 != 1, vioLate := s.pwr.vioLate && c.1 != 1, off := false },
      pages := (Vector.replicate 64 {}).setIfInBounds pgLmn (hdr s pgLmn) }
  (List.range 8).foldl (fun u p => if tilePresent u.variant p then tileReset p u else u) t

end Sys2Proof.Machine
end

