-- ==== Sys2Proof/Machine/Faults.lean ====
section
/-! DEFINITION. The fault collector (R367 to R385): classes, promotion, escalation, the history queue, the reactions, ERR_N and acknowledgement. -/

namespace Sys2Proof.Machine

/-- The reset configuration of a source (Tables FCR-2 and FCR-3): class, N and W. -/
structure SrcDef where
  cls : Nat
  n : Nat
  w : Nat
  deriving DecidableEq, Repr

/-- "std" for a class (R368). -/
def stdDef (cls : Nat) : SrcDef :=
  if cls = 1 then { cls := 1, n := 16, w := 1000 } else if cls = 2 then { cls := 2, n := 4, w := 10000 } else { cls := 3, n := 0, w := 0 }

/-- "Never" for a class: N is 0; the window the spec does not give is the class's default (log 9). -/
def neverDef (cls : Nat) : SrcDef := { stdDef cls with n := 0 }

/-- Tile sources by k (Table FCR-3). -/
def tileSrcDef (k : Nat) : Option SrcDef :=
  match k with
  | 0 => some (stdDef 2) | 1 => some { cls := 1, n := 50, w := 1000 } | 2 => some (stdDef 2) | 3 => some (neverDef 2)
  | 4 => some (neverDef 1) | 5 => some (neverDef 1) | 6 => some (stdDef 2) | 7 => some (stdDef 2)
  | 8 => some (stdDef 1) | 9 => some (stdDef 1) | 10 => some (stdDef 2) | 11 => some (stdDef 1)
  | 12 => some (neverDef 1) | 13 => some (stdDef 1) | 14 => some (stdDef 1) | 15 => some (stdDef 2)
  | _ => none

/-- The sources of the chip level (Table FCR-2). -/
def chipSrcDef (n : Nat) : Option SrcDef :=
  match n with
  | 0x000 => some (stdDef 3) | 0x001 => some (stdDef 3) | 0x002 => some (stdDef 3) | 0x003 => some (stdDef 3) | 0x004 => some (stdDef 3)
  | 0x005 => some (stdDef 2) | 0x006 => some (stdDef 2) | 0x007 => some (stdDef 1) | 0x008 => some (neverDef 1) | 0x009 => some (neverDef 1)
  | 0x00A => some { cls := 1, n := 255, w := 1000 } | 0x00B => some (stdDef 2) | 0x00C => some (stdDef 3) | 0x00D => some (stdDef 2)
  | 0x00E => some (stdDef 2) | 0x00F => some (stdDef 3) | 0x010 => some (stdDef 2) | 0x011 => some (neverDef 2) | 0x012 => some (neverDef 1)
  | 0x013 => some (neverDef 2) | 0x014 => some (stdDef 3) | 0x015 => some (stdDef 3) | 0x016 => some (stdDef 3) | 0x017 => some (neverDef 1)
  | 0x018 => some (stdDef 3) | 0x019 => some (neverDef 2)
  | _ => none

/-- The sources of the Logic region (Table FCR-2). -/
def logicSrcDef (n : Nat) : Option SrcDef :=
  match n with
  | 0x031 => some (stdDef 3) | 0x033 => some (neverDef 2) | 0x034 => some (neverDef 1)
  | 0x038 => some { cls := 1, n := 8, w := 1000 } | 0x039 => some { cls := 1, n := 8, w := 1000 }
  | 0x03A => some (stdDef 1) | 0x03B => some (stdDef 1) | 0x03C => some (stdDef 2) | 0x03D => some (stdDef 2)
  | 0x03E => some (stdDef 3) | 0x03F => some (stdDef 1) | 0x040 => some (stdDef 2) | 0x041 => some (neverDef 1)
  | 0x042 => some (stdDef 1) | 0x043 => some (stdDef 1) | 0x044 => some (stdDef 2)
  | 0x048 => some (stdDef 3) | 0x049 => some (stdDef 3) | 0x04A => some (stdDef 2) | 0x04B => some (stdDef 2) | 0x04C => some (stdDef 3) | 0x04D => some (stdDef 3)
  | 0x04E => some (stdDef 2) | 0x04F => some (stdDef 2)
  | 0x050 => some (stdDef 2) | 0x051 => some (stdDef 2) | 0x052 => some (stdDef 2) | 0x053 => some (stdDef 2)
  | 0x054 => some (stdDef 2) | 0x055 => some (stdDef 2) | 0x056 => some (stdDef 1) | 0x057 => some (stdDef 3)
  | 0x058 => some (neverDef 1) | 0x059 => some (stdDef 2) | 0x05A => some (neverDef 2) | 0x05B => some (stdDef 2) | 0x05C => some (stdDef 2) | 0x05D => some (neverDef 1)
  | _ => if 0x021 ≤ n ∧ n ≤ 0x034 then some (stdDef 2) else none

/-- The sources of the Storage, Host and Standby regions (Table FCR-2). -/
def otherSrcDef (n : Nat) : Option SrcDef :=
  match n with
  | 0x080 => some { cls := 1, n := 255, w := 1000 } | 0x081 => some (stdDef 2) | 0x082 => some (neverDef 2) | 0x083 => some (neverDef 2)
  | 0x084 => some (stdDef 2) | 0x085 => some (neverDef 1) | 0x086 => some (stdDef 2) | 0x087 => some (stdDef 2) | 0x088 => some (stdDef 2) | 0x089 => some (stdDef 2)
  | 0x08A => some (neverDef 1) | 0x08B => some (neverDef 2) | 0x08C => some (stdDef 2) | 0x08D => some (stdDef 2) | 0x08E => some (stdDef 1) | 0x08F => some (neverDef 2)
  | 0x090 => some { cls := 1, n := 255, w := 1000 } | 0x091 => some (stdDef 1)
  | 0x0A0 => some (stdDef 1) | 0x0A1 => some (stdDef 2) | 0x0A2 => some (neverDef 1) | 0x0A3 => some (stdDef 1) | 0x0A4 => some (stdDef 2)
  | 0x0A5 => some (stdDef 1) | 0x0A6 => some (stdDef 2)
  | 0x0B0 => some (stdDef 2) | 0x0B1 => some (neverDef 1) | 0x0B2 => some (neverDef 1)
  | _ => none

/-- The definition of a source number; none for a number that is never raised on the variant (R367). OVL is a source of field tiles only. -/
def srcDef (v : Variant) (n : Nat) : Option SrcDef :=
  if !(srcExists v n) then none
  else if n < 0x020 then chipSrcDef n
  else if n < 0x080 then logicSrcDef n
  else if n < 0x0C0 then otherSrcDef n
  else if n < 0x140 then (if (n - 0x0C0) % 16 = 9 ∧ (n - 0x0C0) / 16 ≥ 6 then none else tileSrcDef ((n - 0x0C0) % 16))
  else if n < 0x1B0 then some (neverDef 2)
  else none

/-- The default reactions of a class: INT, and TRAP for contained and fatal (Table FCR-4). -/
def defaultReact (cls : Nat) : BitVec 4 := if cls = 1 then 1 else 3

/-- The reset configuration of a source. -/
def srcReset (v : Variant) (n : Nat) : Src :=
  match srcDef v n with
  | some d => { cls := d.cls, n := d.n, w := d.w, react := defaultReact d.cls }
  | none => { cls := 0, n := 0, w := 0, react := 0 }

/-- A source as it is configured now. -/
def srcOf (s : State) (n : Nat) : Src := (smGet s.fcr.srcs n).getD (srcReset s.variant n)

/-- Change a source. -/
def updSrc (n : Nat) (f : Src → Src) (s : State) : State :=
  { s with fcr := { s.fcr with srcs := smSet s.fcr.srcs n (f (srcOf s n)) } }

/-- The class of a source after its promotions (R374). -/
def effClass (x : Src) : Nat := min 3 (x.cls + x.promo)

/-- Some source is PENDING at fatal (R379). -/
def fatalPend (s : State) : Bool := s.fcr.srcs.any fun e => e.2.pending == 3

/-- Some source is PENDING at contained. -/
def contPend (s : State) : Bool := s.fcr.srcs.any fun e => e.2.pending == 2

/-- One event of a group, judged (R375, R376). -/
structure Judged where
  r : Report
  cls : Nat
  promoted : Bool
  escalated : Bool
  deriving DecidableEq, Repr

/-- 1 ms in CLK_TB cycles. -/
abbrev tbMs : Nat := 100000

/-- The count and the promotion of a source on a report of `k` events at time `t` (R375): the source, and whether it gained a promotion. -/
def countEvents (k t : Nat) (x : Src) : Src × Bool :=
  let x := { x with cnt := satAdd 32 x.cnt k }
  if x.n = 0 then (x, false)
  else
    let x := if x.c = 0 ∨ t ≥ x.t0 + max x.w 1 * tbMs then { x with t0 := t, c := satAdd 8 0 k } else { x with c := satAdd 8 x.c k }
    if x.c ≥ x.n ∧ effClass x < 3 then ({ x with promo := x.promo + 1, c := 0 }, true) else (x, false)

/-- Escalation (R376): an event contained after R375 whose source is PENDING at contained becomes fatal; FATAL and HOST_TEST never do (R369). -/
def escalates (src : Nat) (x : Src) : Bool := effClass x == 2 && x.pending == 2 && src != 0x033 && src != 0x034

/-- Judge one report: the source counts, and the event takes its class. -/
def judge (t : Nat) (r : Report) (s : State) : Judged × State :=
  let c := countEvents r.k t (srcOf s r.src)
  let esc := escalates r.src c.1
  ({ r := r, cls := if esc then 3 else effClass c.1, promoted := c.2, escalated := esc }, updSrc r.src (fun _ => c.1) s)

/-- ERR_N is driven low (R381). -/
def errnLow (s : State) : State :=
  if s.fcr.errn then s else { s with fcr := { s.fcr with errn := true, errnSince := now s } }

/-- The 32 bytes of a history entry (Table FCR-7). -/
def histBytes (e : HistEntry) : List Byte :=
  leBytes 8 e.time ++ leBytes 4 e.epoch.toNat ++ leBytes 2 e.src ++ leBytes 1 e.cls ++
  [(if e.coincident then 1 else 0) ||| (if e.promoted then 2 else 0) ||| (if e.escalated then 4 else 0) ||| (if e.injected then 8 else 0)] ++
  leBytes 4 e.synd.toNat ++ leBytes 4 e.detail.toNat ++ leBytes 2 (min e.count 0xFFFF) ++ [e.react] ++ [0] ++ leBytes 4 e.seq.toNat

/-- The reactions of an event (R378): INT, TRAP, BRST, CRST as configured, ERRN, and CATCH for a fatal event. BRST is not allowed for chip-level sources. -/
def reactOf (x : Src) (src cls : Nat) : BitVec 8 :=
  let b := if src < 0x020 then x.react &&& 0xB else x.react
  b.setWidth 8 ||| (if x.errn || cls == 3 then 0x10 else 0) ||| (if cls = 3 then 0x20 else 0)

/-- The FAULT record of an entry is admitted (R384). -/
def faultRecord (e : HistEntry) (s : State) : State :=
  admitSystem { time := e.time, epoch := e.epoch, source := 0x0003, cls := e.cls, coincident := e.coincident, payload := histBytes e }
    (issue .record pgFcr pgJrn (2 + ((histBytes e).length + 15) / 16) s)

/-- The journal limit of R384: a corrected or contained entry is withheld if the source has an entry journalled in the same millisecond. -/
def withheldNow (x : Src) (cls t : Nat) : Bool := decide (cls < 3) && x.lastMs == some (t / tbMs)

/-- The reactions that act on the rest of the module. -/
def react (e : HistEntry) (page : Nat) (s : State) : State :=
  let s := evtIf (e.react.getLsbD 0) pgFcr (e.cls - 1) s
  let s := if e.react.getLsbD 1 then { s with fcr := { s.fcr with traps := s.fcr.traps ++ [(e.src, e.cls)] } } else s
  let s := if e.react.getLsbD 4 then (let s := errnLow s; if e.cls = 1 then { s with fcr := { s.fcr with errnHold := max s.fcr.errnHold (now s + tbMs) } } else s) else s
  let s := if e.react.setWidth 4 = (0 : BitVec 4) then s else issue .reaction pgFcr page 1 s
  let s := if e.react.getLsbD 5 then trip0 0x13 0 pgFcr (issue .catchPoint pgFcr pgIlkl 1 s) else s
  let s := if e.react.getLsbD 2 then startReset (.block page) true s else s
  if e.react.getLsbD 3 ∧ s.rst.chip.isNone then pfStart 0x05 { s with rst := { s.rst with chip := some (.fault e.src, now s) } } else s

/-- Record one judged event of a group: the history entry, the first-fatal copy, PENDING, the journal and the reactions (R376, R378, R383, R384). -/
def recordEvent (t : Nat) (coincident : Bool) (j : Judged) (s : State) : State :=
  let x := srcOf s j.r.src
  let hold := withheldNow x j.cls t
  let e : HistEntry :=
    { time := t, epoch := lastEpoch s, src := j.r.src, cls := j.cls, coincident := coincident, promoted := j.promoted, escalated := j.escalated,
      injected := j.r.injected, synd := j.r.synd, detail := fld 0 8 j.r.page ||| fld 8 24 j.r.detail,
      count := j.r.k - 1 + x.withheld, react := reactOf x j.r.src j.cls, seq := s.fcr.total + 1 }
  let ff := if j.cls = 3 ∧ !(fatalPend s) then some e else s.fcr.ff
  let s := { s with fcr := { s.fcr with hist := (e :: s.fcr.hist).take 32, total := s.fcr.total + 1, ff := ff } }
  let s := updSrc j.r.src (fun x =>
    { x with pending := if j.cls ≥ 2 then max x.pending j.cls else x.pending,
             lastMs := if hold then x.lastMs else some (t / tbMs),
             withheld := if hold then x.withheld + j.r.k else 0 }) s
  let s := if hold then s else faultRecord e s
  let s := evtIf j.promoted pgFcr 3 (evtIf j.escalated pgFcr 4 s)
  react e j.r.page s

/-- One event of two detections of a source (R370): the larger count stands, and the syndrome records every detector where it has room: CHAN of a trip cause, the mask of a tile source (Table FCR-8). -/
def joinReport (q r : Report) : Report :=
  { q with k := max q.k r.k, injected := q.injected || r.injected,
           synd := q.synd ||| (if 0x021 ≤ q.src ∧ q.src ≤ 0x034 then r.synd &&& 0x300 else if 0x0C0 ≤ q.src ∧ q.src ≤ 0x13F then r.synd else 0) }

/-- Reports of one source in one cycle form one event (R370). -/
def mergeReports (l : List Report) : List Report :=
  l.foldl (fun acc r =>
    if acc.any fun q => q.src == r.src then acc.map fun q => if q.src == r.src then joinReport q r else q
    else acc ++ [r]) []

/-- Insert a judged event in the recording order of R372: class descending, source ascending. -/
def insertJudged (j : Judged) : List Judged → List Judged
  | [] => [j]
  | h :: t => if j.cls > h.cls ∨ (j.cls = h.cls ∧ j.r.src < h.r.src) then j :: h :: t else h :: insertJudged j t

/-- Judge every report of a group. -/
def judgeAll (t : Nat) : List Report → State → List Judged × State
  | [], s => ([], s)
  | r :: rest, s =>
    let a := judge t r s
    let b := judgeAll t rest a.2
    (insertJudged a.1 b.1, b.2)

/-- Record every judged event of a group, the first without COINCIDENT (R372) unless it carries it by itself (R90). -/
def recordAll (t : Nat) : Bool → List Judged → State → State
  | _, [], s => s
  | c, j :: rest, s => recordAll t true rest (recordEvent t (c || j.r.coinc) j s)

/-- A group of reports reaches the collector in one cycle (R370 to R384). -/
def faultGroup (rs : List Report) (s : State) : State :=
  let rs := (mergeReports rs).filter fun r => (srcDef s.variant r.src).isSome
  let t := now s
  let g := judgeAll t rs s
  recordAll t false g.1 g.2

/-- How many of the reports on their way arrive when the oldest `n` do: reports detected in one CLK_SYS cycle arrive in one (R370, R371). -/
def groupSize : Nat → List Report → Nat
  | 0, _ => 0
  | _ + 1, [] => 0
  | n + 1, _ :: t => 1 + (if n = 0 then (t.takeWhile fun r => r.joined).length else groupSize n t)

/-- A source whose events merged in a crossing makes its block record a corrected-class MERGED event (R41). -/
def mergedReports (l : List Report) (s : State) : State :=
  l.foldl (fun t r => if 1 < r.k ∧ r.src ≠ 0x008 ∧ (srcDef s.variant r.src).isSome = true then report0 0x008 r.page t else t) s

/-- FAULT_REPORT: the oldest `n` reports on their way, with those detected in the same cycle as the last of them, and those `more` detectors bring, arrive in one CLK_SYS cycle (R370). -/
def execFaultReport (n : Nat) (more : List Report) (s : State) : Res :=
  let m := groupSize n s.fcr.inbox
  .next (mergedReports more (faultGroup (s.fcr.inbox.take m ++ more) { s with fcr := { s.fcr with inbox := s.fcr.inbox.drop m } }))

/-- FAULT_CHIP_RESET: the chip reset that the collector asked for is asserted, once sealing and parking have ended or at 3 ms (R380). While a cause of another kind runs the sequence, it ends in PARKED instead (R489). -/
def execFaultChipReset (atLimit : Bool) (s : State) : Res :=
  match s.rst.chip with
  | some (.fault n, at_) =>
    if (s.jrn.st = .sealed && s.sto.parked || atLimit && decide (now s ≥ at_ + 3 * tbMs)) && s.pwr.pfSet &&& 0x2F == 0 then .next (chipReset (.fault n) s) else .next s
  | some (.powerOn, _) => .next s
  | some (.pin, _) => .next s
  | some (.host, _) => .next s
  | some (.feedReturn, _) => .next s
  | none => .next s

/-- Some condition of R381 holds ERR_N low. -/
def errnHeld (s : State) : Bool :=
  s.fcr.errnCheck || fatalPend s || (s.fcr.srcs.any fun e => e.2.errn && decide (e.2.pending ≥ 2)) || decide (now s < s.fcr.errnHold)

/-- ERRN_RELEASE: once no condition holds ERR_N low and it has been low for 1 ms, it is released (R381). -/
def execErrnRelease (s : State) : Res :=
  if s.fcr.errn && !errnHeld s && decide (now s ≥ s.fcr.errnSince + tbMs) then .next { s with fcr := { s.fcr with errn := false } } else .next s

/-! ## What the collector's registers do -/

/-- The first-fatal copy is held until every fatal source is acknowledged (R383); nothing else changes. An acknowledgement of one source (R377): one of ASSAY_SAFETY has no effect in RUN (R397). -/
def ackSource (n : Nat) (s : State) : State :=
  if n = 0x057 ∧ s.sys.mode = .run then s
  else if (smGet s.fcr.srcs n).isSome then updSrc n (fun x => { x with pending := 0 }) s else s

/-- An acknowledgement of every source (R377). -/
def ackAll (s : State) : State :=
  { s with fcr := { s.fcr with srcs := s.fcr.srcs.map fun e => if e.1 = 0x057 ∧ s.sys.mode = .run then e else (e.1, { e.2 with pending := 0 }) } }

/-- Promotions and count of one source are cleared (Table FCR-11). -/
def promoClr (n : Nat) (s : State) : State :=
  if (smGet s.fcr.srcs n).isSome then updSrc n (fun x => { x with promo := 0, c := 0 }) s else s

/-- Promotions and counts of every source are cleared. -/
def promoClrAll (s : State) : State :=
  { s with fcr := { s.fcr with srcs := s.fcr.srcs.map fun e => (e.1, { e.2 with promo := 0, c := 0 }) } }

/-- CTRL.CNT_CLR clears every SRC_CNT (Table FCR-11). -/
def fcrCntClr (s : State) : State :=
  { s with fcr := { s.fcr with srcs := s.fcr.srcs.map fun e => (e.1, { e.2 with cnt := 0 }) } }

/-- SRC_CFG as it reads (Table FCR-11). -/
def srcCfgWord (x : Src) : Word32 :=
  fld 24 8 x.n ||| fld 8 16 x.w ||| flag 6 x.errn ||| fld 4 2 x.cls ||| x.react.setWidth 32

/-- A SRC_CFG value is allowed for a source (R382). -/
def srcCfgOk (v : Variant) (n : Nat) (w : Word32) : Bool :=
  match srcDef v n with
  | none => false
  | some d => decide (bits w 4 2 ≥ d.cls) && decide (bits w 4 2 ≠ 0) && !(decide (n < 0x020) && bitOf w 2)

/-- A keyed write of SRC_CFG (R382): refused in RUN with MODE and for a value R382 names with VALUE. -/
def srcCfgWrite (iface : Iface) (w : Word32) (s : State) : State :=
  let n := s.fcr.srcSel.toNat
  if !(notRunMode s.sys.mode) then errStat iface pgFcr 0x044 1 s
  else if !(srcCfgOk s.variant n w) then errStat iface pgFcr 0x044 2 s
  else updSrc n (fun x => { x with n := bits w 24 8, w := bits w 8 16, errn := bitOf w 6, cls := bits w 4 2, react := BitVec.ofNat 4 (bits w 0 4) }) s

/-- CTRL.ERRN_TEST holds ERR_N low for 1 ms; refused in RUN with MODE (R381). -/
def errnTest (iface : Iface) (s : State) : State :=
  if s.sys.mode = .run then errStat iface pgFcr 0x008 1 s
  else (let s := errnLow s; { s with fcr := { s.fcr with errnHold := max s.fcr.errnHold (now s + tbMs) } })

/-- HQ_SEL captures the selected entry; an AGE beyond the entries held captures 0. An uncorrectable word makes the captured data read 0 (R387). -/
def hqSel (age : Nat) (s : State) : State :=
  let r := readRetry pgFcr 0 .good s
  let d := if r.1.check = .uncorrectable then zeros 32 else
    match s.fcr.hist[age]? with
    | some e => histBytes e
    | none => zeros 32
  { r.2 with fcr := { r.2.fcr with hqSel := BitVec.ofNat 5 age, hqData := d, hqUnc := r.1.check == .uncorrectable } }

/-- The watermark of R373. -/
def watermark (s : State) : Nat := now s - 100

end Sys2Proof.Machine
end

