-- ==== Sys2Proof/Machine/Clock.lean ====
section
/-! DEFINITION. The Station clock, its views, the compare channels and the general timers (R346 to R364). -/

namespace Sys2Proof.Machine

/-! ## The counter and the views -/

/-- A timer of TMR. -/
def tmrOf (s : State) (n : Nat) : Tmr := vGet s.tmr n {}

/-- Change a timer. -/
def updTmr (n : Nat) (f : Tmr → Tmr) (s : State) : State := { s with tmr := vUpd s.tmr n f }

/-- A timer is frozen while the Double-header is halted for debug (R363). -/
def tmrFrozen (s : State) (t : Tmr) : Bool := t.dbgFreeze && s.dhd.halted

/-- A timer's prescaler counts (Table TB-3): RUN is 1, it is not frozen, its mode uses the prescaler, and a GATED timer's master runs. -/
def prescCounts (s : State) (t : Tmr) : Bool :=
  t.run && !tmrFrozen s t && (t.slave == 0 || t.slave == 2 || (t.slave == 1 && (tmrOf s t.master.toNat).run))

/-- One CLK_TB cycle passes while no command waits (log 5): each arbitration point makes four grants, the queues' pointers are synchronised, and a running Station clock advances the counter, the system view, which holds while it is ahead of the counter (R350), and the prescalers of the timers that count. -/
def clockCycle (s : State) : State :=
  let s := { s with arb := arbTick s.arb, queues := s.queues.map syncQueue }
  if s.tb.running then
    { s with tb := { s.tb with counter := s.tb.counter + 1, view := if s.tb.view ≤ s.tb.counter then s.tb.view + 1 else s.tb.view },
             tmr := s.tmr.map fun t => if prescCounts s t then { t with presc := min (t.presc + 1) (t.prescale.toNat + 1) } else t }
  else s

/-- COUNTER_START (R346): TB_LOCK becomes 1 for the first time after a chip reset. -/
def execCounterStart (s : State) : Res :=
  if s.clkg.pll.getLsbD 1 && !s.tb.running then
    .next { s with tb := { s.tb with running := true, counter := 0, view := 0, viewOk := false, viewSeq := none, viewGood := 0 } }
  else .next s

/-- SYSTEM_VIEW_SNAPSHOT (R350): a snapshot with sequence number `seq` reaches CLK_SYS. In sequence it loads the view, which never decreases; out of sequence the view goes on by itself, VIEW_OK falls and TIME_SKIP is raised. -/
def execSystemViewSnapshot (seq : BitVec 8) (s : State) : Res :=
  if !s.tb.running then .next s else
  match s.tb.viewSeq with
  | none => .next { s with tb := { s.tb with viewSeq := some seq, viewGood := 1, view := max s.tb.view s.tb.counter } }
  | some q =>
    if seq = q + 1 then
      let g := s.tb.viewGood + 1
      .next { s with tb := { s.tb with viewSeq := some seq, viewGood := g, viewOk := s.tb.viewOk || decide (g ≥ 2), view := max s.tb.view s.tb.counter } }
    else
      .next (report0 0x010 pgTbase { s with tb := { s.tb with viewSeq := some seq, viewGood := 0, viewOk := false } })

/-- TILE_SNAPSHOT (R351): the counter has reached a multiple of 100,000. -/
def execTileSnapshot (s : State) : Res :=
  if s.tb.running && decide (s.tb.counter % tbMs = 0) && decide (s.tb.counter > s.tb.snapTime) then
    .next { s with tb := { s.tb with snapTime := s.tb.counter, snapSeq := s.tb.snapSeq + 1 } }
  else .next s

/-! ## Compare channels -/

/-- A compare channel. -/
def chanOf (s : State) (n : Nat) : CmpChan := vGet s.tb.chans n {}

/-- Change a compare channel. -/
def updChan (n : Nat) (f : CmpChan → CmpChan) (s : State) : State := { s with tb := { s.tb with chans := vUpd s.tb.chans n f } }

/-- An INTERVAL from 1 to 7 acts as 8 (R354). -/
def effInterval (v : Word32) : Nat := if v.toNat = 0 then 0 else max v.toNat 8

/-- The round trip of the crossing from CLK_TB to CLK_SYS in whole CLK_TB cycles: 37.5 ns (Table ARC-5). -/
abbrev roundTrip : Nat := 4

/-- Two matches that fall within one round trip set STAT.MERGED (R354). -/
def mergesWith (at_ t : Nat) : Bool := decide (t < at_ + roundTrip)

/-- The crossing as its source finds it in cycle t: an event held is sent when the acknowledge of the one before has returned (R41). -/
def settle (t : Nat) (c : Crossing) : Crossing :=
  if c.held && decide (c.freeAt ≤ t) then { freeAt := c.freeAt + roundTrip } else c

/-- An event is presented to a crossing in cycle t (R41): sent at once, held in the pending flag, or merged with the event held; whether it was merged. -/
def present (t : Nat) (c : Crossing) : Crossing × Bool :=
  let c := settle t c
  if c.freeAt ≤ t then ({ freeAt := t + roundTrip }, false)
  else if c.held then (c, true)
  else ({ c with held := true }, false)

/-- The counter as a 64-bit value. -/
def counter64 (s : State) : Word64 := BitVec.ofNat 64 s.tb.counter

/-- A channel has matched since its reset. -/
def hasMatched (c : CmpChan) : Bool := c.matchCnt != 0 || c.matchTime != 0

/-- COMPARE_MATCH (R353): an enabled channel whose COMPARE equals the counter matches. An isolated channel refuses its own result (Table ARC-1, R26). Two matches within one round trip set STAT.MERGED (R354); one that meets the crossing's pending flag set is merged, and the block records MERGED (R41; log 122). -/
def execCompareMatch (n : Nat) (s : State) : Res :=
  let c := chanOf s n
  if n < 32 ∧ s.tb.running ∧ c.en ∧ c.cmp = counter64 s ∧ !cellIsolated s pgTbase n then
    let near := hasMatched c && mergesWith c.matchTime.toNat s.tb.counter
    let x := present s.tb.counter c.cross
    let s := updChan n (fun c => { c with matchTime := counter64 s, matchCnt := c.matchCnt + 1, merged := c.merged || near,
                                          cmp := c.cmp + BitVec.ofNat 64 (effInterval c.interval), cross := x.1 }) s
    let s := if x.2 then report 0x008 0 n pgTbase s else s
    .next (evt pgTbase n s)
  else .next s

/-- A write to CFG, INTERVAL or CMP_HI starts crossing, unless one crosses already (R356). -/
def chanWrite (iface : Iface) (n off : Nat) (w : CmpWrite) (s : State) : State :=
  match (chanOf s n).wrPend with
  | some _ => errStat iface pgTbase off 2 s
  | none => updChan n (fun c => { c with wrPend := some w }) s

/-- A host write to a compare channel's register (R356): `r` is the offset in the channel. -/
def chanRegWrite (iface : Iface) (n r off : Nat) (v : Word32) (s : State) : State :=
  match r with
  | 0x00 => chanWrite iface n off (.cfg (bitOf v 0)) s
  | 0x04 => chanWrite iface n off (.interval v) s
  | 0x08 => updChan n (fun c => { c with staged := vSet c.staged (ifaceNo iface) v }) s
  | 0x0C =>
    let lo := vGet (chanOf s n).staged (ifaceNo iface) 0
    chanWrite iface n off (.compare (BitVec.ofNat 64 (lo.toNat + 2 ^ 32 * v.toNat))) s
  | 0x18 => updChan n (fun c => { c with merged := c.merged && !(bitOf v 17), late := c.late && !(bitOf v 16) }) s
  | _ => s

/-- What a write does in the cycle in which it takes effect (R357, Table TB-2). -/
def chanEffect (t : Word64) (w : CmpWrite) (c : CmpChan) : CmpChan :=
  let c := { c with wrPend := none }
  match w with
  | .cfg en => { c with en := en, late := c.late || (en && decide (c.cmp < t)) }
  | .interval v => { c with interval := v }
  | .compare v => { c with cmp := v, late := c.late || decide (v < t) }

/-- COMPARE_WRITE_EFFECT (R357). -/
def execCompareWriteEffect (n : Nat) (s : State) : Res :=
  match (chanOf s n).wrPend with
  | none => .next s
  | some w => .next (updChan n (chanEffect (counter64 s) w) s)

/-- Channel 0 as the loader sets it at an installation (R355). -/
def chan0Set (scanUs : Nat) (s : State) : State :=
  updChan 0 (fun c => { c with interval := BitVec.ofNat 32 (100 * scanUs), cmp := BitVec.ofNat 64 (s.tb.counter + 100 * scanUs), en := true, wrPend := none }) s

/-- Channel 0 stops (R355). -/
def chan0Off (s : State) : State := updChan 0 (fun c => { c with en := false }) s

/-! ## Timers -/

/-- A wrap of timer `n` reaches EVT_RAW through its crossings (R359): one that meets a pending flag set is merged with the event held, and the block records MERGED (R41; log 122). -/
def wrapEvent (n : Nat) (overrun : Bool) (s : State) : State :=
  let t := tmrOf s n
  let w := present s.tb.counter t.wrapX
  let o := if overrun then present s.tb.counter t.ovrX else (t.ovrX, false)
  let s := updTmr n (fun t => { t with wrapX := w.1, ovrX := o.1 }) s
  let s := if w.2 || o.2 then report 0x008 0 n pgTmr s else s
  evtIf overrun pgTmr (8 + n) (evt pgTmr n s)

/-- What one tick does to COUNT (R359): the count, whether it wrapped, whether it overran. -/
def tickCount (t : Tmr) : Word32 × Bool × Bool :=
  if t.count = t.reload then (0, true, false)
  else if t.count = 0xFFFFFFFF then (0, true, true)
  else (t.count + 1, false, false)

/-- A tick of timer `n`, with the triggers and the CLOCKED timers its wrap drives in the same cycle (R359 to R363). The fuel is the number of timers. -/
def tickTimer : Nat → Nat → State → State
  | 0, _, s => s
  | fuel + 1, n, s =>
    let t := tmrOf s n
    let r := tickCount t
    let s := updTmr n (fun t => { t with count := r.1, presc := 0, run := t.run && !(r.2.1 && t.oneshot) }) s
    if r.2.1 then
      let s := wrapEvent n r.2.2 s
      (List.range 8).foldl (fun u m =>
        let k := tmrOf u m
        if m ≠ n ∧ k.master.toNat = n ∧ !(tmrFrozen u k) then
          (if k.slave = 3 then (if k.run then tickTimer fuel m u else u)
           else if k.slave = 2 then (if k.run then u else updTmr m (fun t => { t with run := true, presc := 0 }) u)
           else u)
        else u) s
    else s

/-- TIMER_TICK (R359): a running timer whose prescaler has counted PRESCALE + 1 cycles ticks. -/
def execTimerTick (n : Nat) (s : State) : Res :=
  let t := tmrOf s n
  if n < 8 ∧ prescCounts s t ∧ t.presc ≥ t.prescale.toNat + 1 then .next (tickTimer 8 n s) else .next s

/-- A write of CFG, RELOAD or CMD starts crossing, unless one crosses already (R361). -/
def tmrWrite (iface : Iface) (n off : Nat) (w : TmrWrite) (s : State) : State :=
  match (tmrOf s n).wrPend with
  | some _ => errStat iface pgTmr off 2 s
  | none => updTmr n (fun t => { t with wrPend := some w }) s

/-- A CFG value that R360 allows for timer `n`. -/
def tmrCfgOk (n : Nat) (v : Word32) : Bool :=
  let m := bits v 8 3
  m != n && !(bits v 2 2 == 3 && (n == 0 || m != n - 1))

/-- A host write to a timer's register: `r` is the offset in the timer (Table TB-5). -/
def tmrRegWrite (iface : Iface) (n r off : Nat) (v : Word32) (s : State) : State :=
  match r with
  | 0x00 => if tmrCfgOk n v then tmrWrite iface n off (.cfg v) s else errStat iface pgTmr off 2 s
  | 0x04 => tmrWrite iface n off (.reload v) s
  | 0x0C => tmrWrite iface n off (.cmd (bitOf v 0) (bitOf v 1) (bitOf v 2)) s
  | _ => s

/-- What a timer write does in the cycle in which it takes effect (R361): STOP wins over START; CLEAR restarts the prescaler. -/
def tmrEffect (w : TmrWrite) (t : Tmr) : Tmr :=
  let t := { t with wrPend := none }
  match w with
  | .cfg v => { t with prescale := BitVec.ofNat 16 (bits v 16 16), dbgFreeze := bitOf v 12, master := BitVec.ofNat 3 (bits v 8 3),
                       slave := BitVec.ofNat 2 (bits v 2 2), oneshot := bitOf v 1 }
  | .reload v => { t with reload := v }
  | .cmd start stop clear =>
    let t := if clear then { t with count := 0, presc := 0 } else t
    if stop then { t with run := false }
    else if start ∧ !t.run then { t with run := true, presc := 0 } else t

/-- TIMER_WRITE_EFFECT (R361). -/
def execTimerWriteEffect (n : Nat) (s : State) : Res :=
  match (tmrOf s n).wrPend with
  | none => .next s
  | some w => .next (updTmr n (tmrEffect w) s)

/-- The members of the chain above base `n`: each CLOCKED from the one below (R362). -/
def chainAbove : Nat → Nat → State → List Nat
  | 0, _, _ => []
  | fuel + 1, n, s =>
    let t := tmrOf s (n + 1)
    if n + 1 < 8 ∧ t.slave = 3 ∧ t.master.toNat = n then (n + 1) :: chainAbove fuel (n + 1) s else []

/-- A read of COUNT (R362): of a CLOCKED timer the interface's latched value; of a base its count, with every member of its chain latched in the same cycle. -/
def timerCountRead (iface : Iface) (n : Nat) (s : State) : Word32 × State :=
  let t := tmrOf s n
  let i := ifaceNo iface
  if t.slave = 3 then (vGet t.latch i 0, s)
  else (t.count, (chainAbove 8 n s).foldl (fun u m => updTmr m (fun k => { k with latch := vSet k.latch i k.count }) u) s)

end Sys2Proof.Machine
end

