-- ==== Sys2Proof/Machine/Fabric.lean ====
section
/-! DEFINITION. Fences and dual-clock queues (R28 to R30, R43 to R47) and clock generation (R48, R49). -/

namespace Sys2Proof.Machine

/-- FABRIC_TIMEOUT (R28): a block has not answered within 8,192 CLK_SYS cycles, so its port is fenced. A block without a port, and a port fenced already, change nothing. -/
def execFabricTimeout (page : Nat) (s : State) : Res :=
  if pagePresent s.variant page && regionIndex page != 5 && regionIndex page != 4 && !(s.fab.fenced.getLsbD page) then .next (fence page true s) else .next s

/-- A fence is removed (R29). -/
def unfence (page : Nat) (s : State) : State :=
  { s with fab := { s.fab with fenced := setBit s.fab.fenced page false, resetDone := setBit s.fab.resetDone page false } }

/-- FENCE_REMOVE (R29): only after the block has been reset, has completed its post-reset check, and the FENCED responses have drained. A region reset fences its ports for its whole duration (R30). -/
def execFenceRemove (page : Nat) (checked drained : Bool) (s : State) : Res :=
  if !pageInReset page s && s.fab.fenced.getLsbD page && !(s.fab.stuck.getLsbD page) && s.fab.resetDone.getLsbD page && checked && drained then .next (unfence page s) else .next s

/-- QUEUE_SEVER (R44): a reset on the sides named. -/
def execQueueSever (q : Nat) (prod cons : Bool) (s : State) : Res :=
  if prod || cons then .next (severQueue q prod cons s) else .next s

/-- A region reset that runs holds a side of queue q in reset (Table RST-9). -/
def queueInReset (q : Nat) (s : State) : Bool :=
  s.rst.running.any fun r => !r.waiting && (match r.target with
    | .region g => (regionQueues g).any fun e => e.1 == q
    | .block p => xqBlock q == p)

/-- Both sides of a queue may leave reset: no reset that runs holds one, its block is not fenced, and the link that clocks its other side is up (R45, R195, R322). -/
def queueMayRejoin (q : Nat) (s : State) : Bool :=
  !queueInReset q s && !(s.fab.fenced.getLsbD (xqBlock q)) &&
    (if q < 2 then s.pcie.linkUp else if 8 ≤ q ∧ q < 24 then (vGet s.links ((q - 8) % 8) {}).up else true)

/-- QUEUE_REJOINING (R45): each side that names its rejoin request is out of reset and its owning block has acknowledged SEVERED, which a block does in its own post-reset sequence; with both requests seen the queue is REJOINING and both pointers are 0. -/
def execQueueRejoining (q : RejoinAsk) (s : State) : Res :=
  if (xq s q.queue).st = .severed && queueMayRejoin q.queue s then
    .next (updQ q.queue (fun x => if q.prod && q.cons then { x with st := .rejoining, prodRst := false, consRst := false, ents := [], wptr := 0, rptr := 0, wSeen := 0, rSeen := 0 }
      else { x with prodRst := x.prodRst && !q.prod, consRst := x.consRst && !q.cons }) s)
  else .next s

/-- QUEUE_JOINED (R45, R46): both completions are seen; a reset in the same cycle wins. -/
def execQueueJoined (q : Nat) (resetProd resetCons : Bool) (s : State) : Res :=
  if (xq s q).st = .rejoining then
    if resetProd || resetCons then .next (severQueue q resetProd resetCons s)
    else .next (evt pgClkg 3 (updQ q (fun x => { x with st := .joined }) s))
  else .next s

/-- A write of MEAS_SEL (R49): DOMAIN is taken; START abandons a running measurement and starts one. -/
def measSelWrite (v : Word32) (s : State) : State :=
  let d := BitVec.ofNat 3 (bits v 0 3)
  let s := { s with clkg := { s.clkg with measDomain := d } }
  if bitOf v 31 then { s with clkg := { s.clkg with measRun := some d, measValid := false } } else s

/-- CLK_MEAS_DONE (R49): the gate has counted `freq` (kHz; Hz for CLK_STBY). -/
def execClkMeasDone (freq : BitVec 24) (s : State) : Res :=
  match s.clkg.measRun with
  | none => .next s
  | some _ => .next (evt pgClkg 4 { s with clkg := { s.clkg with measRun := none, measValid := true, measFreq := freq } })

/-- PLL_UNLOCK (R48): lock bit `b` falls. While PERST_N is low, PCIE_LOCK raises no source (R519). -/
def execPllUnlock (b : Fin 4) (perstLow : Bool) (s : State) : Res :=
  if s.clkg.pll.getLsbD b.val then
    let s := evt pgClkg 0 { s with clkg := { s.clkg with pll := setBit s.clkg.pll b.val false } }
    .next (reportIf (!(b.val == 3 && perstLow)) 0x002 pgClkg s)
  else .next s

/-- The source of a monitor bit of MON_OK that falls (Table FCR-2): the activity bits have none. -/
def monSource (b : Nat) (perstLow : Bool) : Option Nat :=
  match b with
  | 0 => some 0x003 | 1 => some 0x004 | 2 => some 0x005
  | 3 => if perstLow then none else some 0x006
  | 6 => some 0x007
  | _ => none

/-- MON_FAIL (R48): monitor bit `b` of MON_OK falls. -/
def execMonFail (b : Fin 7) (perstLow : Bool) (s : State) : Res :=
  if s.clkg.monOk.getLsbD b.val then
    let s := evt pgClkg 1 { s with clkg := { s.clkg with monOk := setBit s.clkg.monOk b.val false } }
    match monSource b.val perstLow with
    | some n => .next (report0 n pgClkg s)
    | none => .next s
  else .next s

end Sys2Proof.Machine
end

