-- ==== Sys2Proof/Machine/Touchmark.lean ====
section
/-! DEFINITION. The Touchmark: the antifuse array, redirection, the start-up judgement, programming, overrides, the manifest and calibration (R406 to R430). -/

namespace Sys2Proof.Machine

/-! ## Rows and redirection -/

/-- A row of the array; rows not listed are BLANK (R406). -/
def fuseAt (s : State) (row : Nat) : Fuse := smGetD s.tch.rows row {}

/-- The shadow of a main row; rows not listed are BLANK (R419). -/
def shadowOf (s : State) (row : Nat) : Shadow := smGetD s.tch.shadow row {}

/-- Change the shadow of a main row. -/
def updShadow (row : Nat) (f : Shadow → Shadow) (s : State) : State :=
  { s with tch := { s.tch with shadow := smSet s.tch.shadow row (f (shadowOf s row)) } }

/-- Redirection entry e of a read of the redirection rows (R413). -/
def entryBits (f : BitVec 140) (e : Nat) : Word32 := (f >>> (32 * (e % 4))).setWidth 32

/-- Entry e at the normal reference. -/
def entryN (s : State) (e : Nat) : Word32 := entryBits (fuseAt s (528 + e / 4)).n e

/-- The rows that may be moved to a spare row (R414). -/
def redirectable (n : Nat) : Bool := (decide (64 ≤ n) && decide (n ≤ 191)) || (decide (192 ≤ n) && decide (n ≤ 223)) || (decide (256 ≤ n) && decide (n ≤ 511))

/-- The row and the spare of an entry that guards itself (R414, the first three conditions), from its reads at both margins. -/
def entryRead (l h : Word32) : Option (Nat × Nat) :=
  if bits l 0 16 = bits l 16 16 ∧ bits h 0 16 = bits h 16 16 ∧ l = h ∧ bitOf l 13 ∧ redirectable (bits l 0 9) then some (bits l 0 9, bits l 9 4) else none

/-- The valid entries, oldest first, as main row and spare, and the number of entries ignored (R414). -/
def validEntries (s : State) : List (Nat × Nat) × Nat :=
  (List.range 64).foldl (fun acc e =>
    let f := fuseAt s (528 + e / 4)
    if entryN s e = 0 then acc
    else match entryRead (entryBits f.l e) (entryBits f.h e) with
      | none => (acc.1, acc.2 + 1)
      | some x => if acc.1.any fun y => y.2 == x.2 && y.1 != x.1 then (acc.1, acc.2 + 1) else (acc.1 ++ [x], acc.2)) ([], 0)

/-- The spare that serves a main row: that of the valid entry with the highest number (R414). -/
def spareFor (entries : List (Nat × Nat)) (n : Nat) : Option Nat := (entries.filter fun x => x.1 == n).getLast?.map Prod.snd

/-- A spare row is free only if it reads BLANK and no entry that is not BLANK names it (R414). -/
def spareFree (s : State) (i : Nat) : Bool :=
  (fuseAt s (512 + i)).n == 0 && !((List.range 64).any fun e => entryN s e != 0 && bits (entryN s e) 9 4 == i)

/-- The BLANK entries (R414). -/
def blankEntries (s : State) : List Nat := (List.range 64).filter fun e => entryN s e == 0

/-- The row of the array that serves a main row. -/
def servingRow (s : State) (n : Nat) : Nat :=
  match (shadowOf s n).spare with
  | some i => 512 + i
  | none => n

/-- The judgement of Table TCH-4: the state, the value used, and whether the code corrected it. -/
def judgeFuse (f : Fuse) (home : Nat) : RowSt × BitVec 128 × Bool :=
  if f.n = 0 ∨ (f.l = 0 ∧ f.h = 0) then (.blank, 0, false)
  else match wordDecode f.l home, wordDecode f.h home with
    | some (a, c), some (b, _) => if f.l = f.h then (.good, a, c) else if a = b then (.marginal, a, false) else (.invalid, 0, false)
    | some (a, _), none => (.marginal, a, false)
    | none, some (b, _) => (.marginal, b, false)
    | none, none => (.invalid, 0, false)

/-- The value used of a row that is GOOD, MARGINAL or moved. -/
def rowValue (x : Shadow) : Option (BitVec 128) :=
  match x.st with
  | .good => some x.value | .marginal => some x.value | .blank => none | .invalid => none

/-- One read of the shadow SRAM (R419): an armed injection acts on it; a word that stays uncorrectable gives nothing (R430, R52). -/
def shadowRead (n : Nat) (s : State) : Option Shadow × State :=
  let r := readRetry pgTch 0 .good s
  (if r.1.check = .uncorrectable then none else some (shadowOf r.2 n), r.2)

/-- A flag counts as set unless its row is BLANK (R410): accepted with the pattern it is set, and in any other state it counts as set. -/
def flagSet (s : State) (n : Nat) : Bool := (shadowOf s n).st != .blank

/-- The mode of the region of a row is spare-row (R409, R411). -/
def spareMode (s : State) (n : Nat) : Bool :=
  let owner := fun (r : Nat) => (shadowOf s 4).value.toNat / 2 ^ (8 * r) % 256 != 0xA5
  if 64 ≤ n ∧ n ≤ 191 then true
  else if 192 ≤ n ∧ n ≤ 223 then owner 0
  else if 256 ≤ n ∧ n ≤ 383 then owner 1
  else if 384 ≤ n ∧ n ≤ 511 then owner 2
  else false

/-! ## The judgement in P1 (R416) -/

/-- Judge one main row into the shadow. -/
def judgeRow (entries : List (Nat × Nat)) (n : Nat) (s : State) : State :=
  let sp := spareFor entries n
  let f := match sp with | some i => fuseAt s (512 + i) | none => fuseAt s n
  let j := judgeFuse f n
  let s := if j.1 = .blank ∧ sp.isNone then s else updShadow n (fun _ => { st := j.1, value := j.2.1, spare := sp }) s
  match j.1 with
  | .blank => s
  | .good => if j.2.2 && spareMode s n then { s with tch := { s.tch with moves := s.tch.moves ++ [n] } } else s
  | .marginal =>
    let s := report0 0x058 pgTch (evt pgTch 3 { s with tch := { s.tch with nMarginal := satAdd 8 s.tch.nMarginal 1 } })
    if spareMode s n then { s with tch := { s.tch with moves := s.tch.moves ++ [n] } } else s
  | .invalid => report0 0x059 pgTch (evt pgTch 4 { s with tch := { s.tch with nInvalid := satAdd 8 s.tch.nInvalid 1 } })

/-- The main rows in the order of R416 that are programmed or redirected. -/
def judgeOrder (entries : List (Nat × Nat)) (s : State) : List Nat :=
  let used := fun n => (smGet s.tch.rows n).isSome || (entries.any fun x => x.1 == n)
  let rows := (List.range 512).filter used
  rows.filter (fun n => n < 8) ++ rows.filter (fun n => (32 ≤ n && n < 64) || (192 ≤ n && n < 224)) ++
    rows.filter (fun n => !(n < 8 || (32 ≤ n && n < 64) || (192 ≤ n && n < 224)))

/-- The Touchmark's work of P1: every row judged, the lifecycle flags known (R416, R410). -/
def tchJudge (s : State) : State :=
  let e := validEntries s
  let s := { s with tch := { s.tch with shadow := [], moves := [], nInvalid := 0, nMarginal := 0, badEntry := min e.2 255 } }
  let s := (judgeOrder e.1 s).foldl (fun t n => judgeRow e.1 n t) s
  let fl : BitVec 4 := (List.range 4).foldl (fun m n => setBit m n (flagSet s n)) 0
  { s with tch := { s.tch with flags := fl, marginDone := true }, sys := { s.sys with splitFlag := fl.getLsbD 3 } }

/-! ## The manifest (R425 to R427) -/

/-- The used fields of the manifest word: FIRST and COUNT. -/
def manFields (w : BitVec 128) : List (Nat × Nat) :=
  ((List.range 8).map fun f => let x := w.toNat / 2 ^ (16 * f) % 2 ^ 16; (x % 512, x / 512)).filter fun x => x.2 != 0

/-- A row that the fields list. -/
def rowListed (l : List (Nat × Nat)) (n : Nat) : Bool := l.any fun x => decide (x.1 ≤ n) && decide (n < x.1 + x.2)

/-- The rows the manifest in the shadow lists. -/
def listedNow (s : State) (n : Nat) : Bool := rowListed (manFields (shadowOf s 5).value) n

/-- The bytes of a row's value, bits [7:0] first. -/
def rowBytes (v : BitVec 128) : List Byte := leBytes 16 v.toNat

/-- Read the listed rows in ascending order: the bytes hashed, and the first row that fails with its reason. -/
def readListed : List Nat → State → (List Byte × Option (Nat × Nat)) × State
  | [], s => (([], none), s)
  | n :: rest, s =>
    let r := shadowRead n s
    let x := r.1.getD { st := .invalid }
    match rowValue x with
    | none => (([], some (if x.st = .blank then 3 else 4, n)), r.2)
    | some v => let q := readListed rest r.2; ((rowBytes v ++ q.1.1, q.1.2), q.2)

/-- What a manifest check finds: 0 for a match, otherwise the REASON of MAN_INFO, with the row it names (R426). -/
def manifestJudge (s : State) : (Nat × Nat) × State :=
  let r5 := shadowRead 5 s
  let r6 := shadowRead 6 r5.2
  let r7 := shadowRead 7 r6.2
  match r5.1.bind rowValue, r6.1.bind rowValue, r7.1.bind rowValue with
  | some w, some h0, some h1 =>
    let fs := manFields w
    if fs.isEmpty || fs.any (fun x => decide (x.1 + x.2 > 512)) || (List.range 512).any (fun n => rowListed fs n && ((5 ≤ n && n ≤ 7) || (48 ≤ n && n ≤ 63))) then ((2, 0), r7.2)
    else
      let q := readListed ((List.range 512).filter (rowListed fs)) r7.2
      match q.1.2 with
      | some (reason, row) => ((reason, row), q.2)
      | none => (if sha256 q.1.1 = rowBytes h0 ++ rowBytes h1 then (0, 0) else (5, 0), q.2)
  | _, _, _ => ((1, 0), r7.2)

/-- A manifest check (R426, MAN_INFO): STATUS.INCOMPLETE follows it where PROVISIONED counts as set. -/
def manifestCheck (s : State) : Bool × State :=
  let j := manifestJudge s
  let ok := j.1.1 == 0
  (ok, { j.2 with tch := { j.2.tch with manChecked := true, manOk := ok, manReason := j.1.1, manRow := j.1.2,
                                        incomplete := if j.2.tch.flags.getLsbD 1 then !ok else j.2.tch.incomplete } })

/-- The module leaves INCOMPLETE for SAFE (R427, Table RST-2). -/
def incompleteExitNow (s : State) : State :=
  if s.sys.mode = .incomplete then evt pgTch 6 (evt pgSys 0 (setMode .safe { s with sys := { s.sys with exitPend := false } }))
  else { s with sys := { s.sys with exitPend := false } }

/-- A manifest check has passed in INCOMPLETE: the module leaves it now, or at the next scan start (R427, R82). -/
def incompleteExit (s : State) : State :=
  if s.ilkl.scanning then { s with sys := { s.sys with exitPend := true } } else incompleteExitNow s

/-! ## Commands (R420 to R424) -/

/-- The programming window (R422). -/
def progWindow (s : State) : Bool :=
  decide (1760 ≤ s.pwr.rails.vana) && decide (s.pwr.rails.vana ≤ 1840) && decide (0 ≤ s.tch.junction) && decide (s.tch.junction ≤ 110)

/-- A command of TCH.CMD ends (R420). -/
def tchEnd (code : Nat) (s : State) : State := evt pgTch (if code < 0x10 then 0 else 1) { s with tch := { s.tch with result := code } }

/-- STATE of RD_STAT for a word read with a home address. -/
def rdState (w : BitVec 140) (home : Nat) : Nat :=
  if w = 0 then 0 else match wordDecode w home with
    | none => 3
    | some (_, false) => 1
    | some (_, true) => 2

/-- RD_STAT (Table TCH-10). -/
def rdStatWord (w : BitVec 140) (st : Nat) (spare : Option Nat) : Word32 :=
  fld 20 12 (w.toNat / 2 ^ 128) ||| flag 19 spare.isSome ||| fld 15 4 (spare.getD 0) ||| fld 12 3 st

/-- TCH_READ (Table TCH-6). A MARGIN of 3 completes RANGE. -/
def tchRead (row margin : Nat) (s : State) : State :=
  if row > 543 ∨ margin = 3 then tchEnd 0x11 s
  else if 48 ≤ row ∧ row ≤ 63 then tchEnd 0x18 { s with tch := { s.tch with rdData := 0, rdStat := 0 } }
  else if margin = 0 ∧ row < 512 then
    let w := (fuseAt s (servingRow s row)).n
    let d := (wordDecode w row).map Prod.fst
    tchEnd 0 { s with tch := { s.tch with rdData := if w = 0 then 0 else d.getD (w.setWidth 128), rdStat := rdStatWord w (rdState w row) (shadowOf s row).spare } }
  else
    let f := fuseAt s row
    let w := if margin = 0 then f.n else if margin = 1 then f.l else f.h
    if row < 512 ∨ w = 0 then tchEnd 0 { s with tch := { s.tch with rdData := w.setWidth 128, rdStat := rdStatWord w (rdState w row) none } }
    else
      let v := drawFree s
      tchEnd 0 { v.2 with tch := { v.2.tch with rdData := w.setWidth 128, rdStat := rdStatWord w (bits v.1 0 2) none } }

/-- Rows that are never programmed (R409). -/
def rowReserved (n : Nat) : Bool := (decide (8 ≤ n) && decide (n ≤ 15)) || (decide (74 ≤ n) && decide (n ≤ 191)) || (decide (224 ≤ n) && decide (n ≤ 255))

/-- Rows that MFG makes read-only (R409). -/
def rowMfg (n : Nat) : Bool := n == 0 || (decide (16 ≤ n) && decide (n ≤ 191))

/-- The flag pattern of R410. -/
abbrev flagPattern : BitVec 128 := 0xC3C3C3C3C3C3C3C3C3C3C3C3C3C3C3C3

/-- Check 4 of Table TCH-7: the present content is accepted by its code, or has a 1 where the new pattern has a 0. -/
def rowWritten (s : State) (n : Nat) (pattern : BitVec 140) : Bool :=
  let w := (fuseAt s (servingRow s n)).n
  (w != 0 && (wordDecode w n).isSome) || (w &&& ~~~pattern) != 0

/-- The checks of Table TCH-7 but MANIFEST and SUPPLY: the code of the first that fails. -/
def progChecks (row : Nat) (data : BitVec 128) (s : State) : Option Nat :=
  if row > 511 then some 0x11
  else if !(s.sys.mode == .service || (s.sys.mode == .incomplete && ((5 ≤ row && row ≤ 7) || listedNow s row))) then some 0x12
  else if rowReserved row || (s.tch.flags.getLsbD 0 && rowMfg row) then some 0x13
  else if rowWritten s row (wordEncode data row) then some 0x14
  else if row ≤ 3 ∧ data ≠ flagPattern then some 0x15
  else none

/-- DATA0 to DATA3 as one value. -/
def tchData (s : State) : BitVec 128 := BitVec.ofNat 128 ((List.range 4).foldl (fun a k => a + (vGet s.tch.data k 0).toNat * 2 ^ (32 * k)) 0)

/-- PROG begins (R421, R422). -/
def progStart (row : Nat) (force : Bool) (s : State) : State :=
  let data := tchData s
  match progChecks row data s with
  | some c => tchEnd c s
  | none =>
    let m := if row = 1 ∧ !force then manifestCheck s else (true, s)
    if !m.1 then tchEnd 0x19 m.2
    else if !progWindow m.2 then tchEnd 0x16 m.2
    else { m.2 with tch := { m.2.tch with run := some { row := row, data := data, pattern := wordEncode data row } } }

/-- What the antifuses of a row are after pulses for a pattern: a blown bit stays blown, and only bits of the pattern are blown (R406, R422). -/
def blow (old : Fuse) (pattern : BitVec 140) (back : Fuse) : Fuse :=
  { n := old.n ||| (back.n &&& pattern), l := old.l ||| (back.l &&& pattern), h := old.h ||| (back.h &&& pattern) }

/-- Write a row of the array. -/
def setFuse (row : Nat) (f : Fuse) (s : State) : State := { s with tch := { s.tch with rows := smSet s.tch.rows row f } }

/-- The read-back of a fully blown pattern. -/
def exactFuse (p : BitVec 140) : Fuse := { n := p, l := p, h := p }

/-- Step 1 of R415: the lowest free spare rows are taken in turn until one verifies; `backs` are their read-backs, in order, exact where none is given. -/
def takeSpare (pattern : BitVec 140) : List Nat → List Fuse → State → Option Nat × State
  | [], _, s => (none, s)
  | i :: rest, backs, s =>
    let f := blow (fuseAt s (512 + i)) pattern (backs.headD (exactFuse pattern))
    let s := setFuse (512 + i) f s
    if f.l = pattern ∧ f.h = pattern then (some i, s) else takeSpare pattern rest backs.tail s

/-- An entry for main row n and spare i (Table TCH-4a). -/
def entryWord (n i : Nat) : Word32 := let x := n % 512 + 512 * (i % 16) + 8192; r32 (x + x * 65536)

/-- Step 2 of R415: the lowest BLANK entries are programmed in turn until one verifies. -/
def takeEntry (w : Word32) : List Nat → List Fuse → State → Bool × State
  | [], _, s => (false, s)
  | e :: rest, backs, s =>
    let p := (w.setWidth 140) <<< (32 * (e % 4))
    let f := blow (fuseAt s (528 + e / 4)) p (backs.headD (exactFuse p))
    let s := setFuse (528 + e / 4) f s
    if entryBits f.l e = w ∧ entryBits f.h e = w then (true, s) else takeEntry w rest backs.tail s

/-- A move of a main row's value to a spare row (R415): whether it was made. -/
def moveRow (n : Nat) (v : BitVec 128) (spares entries : List Fuse) (s : State) : Bool × State :=
  let a := takeSpare (wordEncode v n) ((List.range 16).filter (spareFree s)) spares s
  match a.1 with
  | none => (false, { a.2 with tch := { a.2.tch with noSpare := true } })
  | some i =>
    let b := takeEntry (entryWord n i) (blankEntries a.2) entries a.2
    if b.1 then (true, evt pgTch 5 (updShadow n (fun x => { x with st := .good, value := v, spare := some i }) b.2))
    else (false, { b.2 with tch := { b.2.tch with noSpare := true } })

/-- A PROG that failed (R423). -/
def progFailed (code : Nat) (s : State) : State :=
  tchEnd code (report0 0x05B pgTch (evt pgTch 2 s))

/-- A PROG ended OK, MOVED or CORRECTED: the override of the row ends; in INCOMPLETE the manifest is checked (R424, R427). -/
def progGood (code row : Nat) (s : State) : State :=
  let s := tchEnd code (updShadow row (fun x => { x with ovr := none }) s)
  if s.sys.mode = .incomplete then
    let m := manifestCheck s
    if m.1 then incompleteExit m.2 else m.2
  else s

/-- PROG_COMPLETE (R422, Table TCH-3): the row's read-backs, and those of the spare rows and entries a move takes. -/
def progComplete (back : Option Fuse) (spares entries : List Fuse) (s : State) : State :=
  match s.tch.run with
  | none => s
  | some r =>
    let f := blow (fuseAt s r.row) r.pattern (back.getD (exactFuse r.pattern))
    let s := setFuse r.row f { s with tch := { s.tch with run := none } }
    let j := judgeFuse f r.row
    if f.l = r.pattern ∧ f.h = r.pattern then progGood 0x00 r.row (updShadow r.row (fun x => { x with st := .good, value := r.data }) s)
    else if spareMode s r.row then
      let m := moveRow r.row r.data spares entries s
      if m.1 then progGood 0x01 r.row m.2 else progFailed 0x1B (updShadow r.row (fun x => { x with st := j.1, value := j.2.1 }) m.2)
    else if ((wordDecode f.l r.row).map Prod.fst == some r.data) && ((wordDecode f.h r.row).map Prod.fst == some r.data) then
      progGood 0x02 r.row (updShadow r.row (fun x => { x with st := j.1, value := j.2.1 }) s)
    else
      progFailed 0x1A (updShadow r.row (fun x => { x with st := .invalid, value := 0 }) { s with tch := { s.tch with progFails := satAdd 8 s.tch.progFails 1 } })

/-- PROG_COMPLETE. -/
def execProgComplete (back : Option Fuse) (spares entries : List Fuse) (s : State) : Res := .next (progComplete back spares entries s)

/-- A PROG is cut short: the row is left part-programmed (R422). -/
def progCut (code : Nat) (back : Fuse) (s : State) : State :=
  match s.tch.run with
  | none => s
  | some r => tchEnd code (setFuse r.row (blow (fuseAt s r.row) r.pattern back) { s with tch := { s.tch with run := none } })

/-- PROG_WINDOW_LOST (R422). -/
def execProgWindowLost (back : Fuse) (s : State) : Res := .next (progCut 0x16 back s)

/-- OVERRIDE (R424). -/
def tchOverride (row : Nat) (s : State) : State :=
  if s.sys.mode ≠ .service then tchEnd 0x12 s
  else if row > 511 then tchEnd 0x11 s
  else if !((256 ≤ row && row ≤ 511) || (!(s.tch.flags.getLsbD 0) && 64 ≤ row && row ≤ 191)) then tchEnd 0x13 s
  else if (shadowOf s row).st != .blank || (fuseAt s row).n != 0 then tchEnd 0x14 s
  else tchEnd 0 (updShadow row (fun x => { x with ovr := some (tchData s) }) s)

/-- CLEAR_OVR (Table TCH-6). -/
def tchClearOvr (row : Nat) (s : State) : State :=
  if row = 0x3FF then tchEnd 0 { s with tch := { s.tch with shadow := s.tch.shadow.map fun e => (e.1, { e.2 with ovr := none }) } }
  else if row > 511 then tchEnd 0x11 s
  else if (smGet s.tch.shadow row).isSome then tchEnd 0 (updShadow row (fun x => { x with ovr := none }) s) else tchEnd 0 s

/-- A read of the array: after start-up it is BACKGROUND traffic (R37, R408). -/
def tchTraffic (s : State) : State := if s.sys.phase = 15 then issue .touchmarkRead pgTch pgTch 2 s else s

/-- A write of TCH.CMD (R420). -/
def tchCommand (v : Word32) (s : State) : State :=
  let s := { s with tch := { s.tch with cmd := v } }
  if s.tch.run.isSome then tchEnd 0x17 s
  else match bits v 28 4 with
    | 1 => tchRead (bits v 16 10) (bits v 26 2) (tchTraffic s)
    | 2 => progStart (bits v 16 10) (bitOf v 0) s
    | 3 => tchOverride (bits v 16 10) s
    | 4 => tchClearOvr (bits v 16 10) s
    | _ => tchEnd 0x10 s

/-- ROW_MOVE (R418): the first waiting move, after P7, once the window holds and no command runs. -/
def execRowMove (spares entries : List Fuse) (s : State) : Res :=
  match s.tch.moves with
  | [] => .next s
  | n :: rest =>
    if s.sys.phase = 15 && progWindow s && s.tch.run.isNone then
      match rowValue (shadowOf s n) with
      | none => .next { s with tch := { s.tch with moves := rest } }
      | some v => .next (moveRow n v spares entries { s with tch := { s.tch with moves := rest } }).2
    else .next s

/-! ## Calibration (R428) -/

/-- An item of Table TCH-9: its number, instances, first index k, user range and effective range. -/
structure CalItem where
  item : Nat
  inst : Nat
  k : Nat
  user : Nat
  eff : Nat

/-- Table TCH-9. -/
def calItems : List CalItem :=
  [⟨0x01, 1, 0, 0, 200⟩, ⟨0x02, 1, 1, 0, 10⟩, ⟨0x03, 11, 2, 0, 500⟩, ⟨0x04, 11, 13, 0, 50⟩, ⟨0x05, 12, 24, 0, 40⟩, ⟨0x06, 10, 36, 0, 20⟩,
   ⟨0x07, 3, 46, 0, 200⟩, ⟨0x08, 1, 49, 0, 300⟩, ⟨0x09, 10, 50, 0, 150⟩, ⟨0x0A, 11, 60, 50, 100⟩, ⟨0x0B, 8, 71, 10, 20⟩]

/-- The item of a number. -/
def calItem (item : Nat) : Option CalItem := calItems.find? fun c => c.item == item

/-- The tile position of an instance; none for the logic side. -/
def calTile (item inst : Nat) : Option Nat :=
  let sides := fun (i : Nat) => if i < 6 then i else 6 + (i - 6) / 2
  match item with
  | 0x03 => if inst = 0 then none else some (sides (inst - 1))
  | 0x04 => if inst = 0 then none else some (sides (inst - 1))
  | 0x0A => if inst = 0 then none else some (sides (inst - 1))
  | 0x05 => some (inst / 2)
  | 0x06 => some (sides inst)
  | 0x09 => some (sides inst)
  | _ => none

/-- Two's complement of 16 bits. -/
def int16 (n : Nat) : Int := (BitVec.ofNat 16 n).toInt

/-- A value held to a symmetric range. -/
def clampTo (r : Nat) (v : Int) : Int := max (-(Int.ofNat r)) (min (Int.ofNat r) v)

/-- The factory value of index k: the value of its row, overridden or not; none where the row is BLANK or INVALID. -/
def factoryVal (k : Nat) (x : Shadow) : Option Int :=
  (x.ovr <|> rowValue x).map fun v => int16 (v.toNat / 2 ^ (16 * (k % 8)))

/-- Load the effective value of one instance of an item (R428). -/
def calLoad1 (c : CalItem) (i : Nat) (s : State) : State :=
  let k := c.k + i
  let r := shadowRead (64 + k / 8) s
  let fv := r.1.bind (factoryVal k)
  let f := fv.getD 0
  let u := smGetD r.2.tch.userVals (c.item * 256 + i) 0
  let e := clampTo c.eff (f + u)
  { r.2 with tch := { r.2.tch with cal := smSet r.2.tch.cal (c.item * 256 + i) { f := f, u := u, e := e, dflt := fv.isNone, clamped := e != f + u },
                                   calDefault := r.2.tch.calDefault || fv.isNone } }

/-- A factory value as P1 finds it in the shadow (CAL_VAL.FACTORY, R17), before the item is loaded. -/
def calNote1 (c : CalItem) (i : Nat) (s : State) : State :=
  let k := c.k + i
  let r := shadowRead (64 + k / 8) s
  { r.2 with tch := { r.2.tch with cal := smSet r.2.tch.cal (c.item * 256 + i) { f := (r.1.bind (factoryVal k)).getD 0 } } }

/-- The factory values of the items that P5 loads, as P1 finds them. -/
def calNote (s : State) : State :=
  calItems.foldl (fun t c => (List.range c.inst).foldl (fun u i =>
    let present := match calTile c.item i with | some p => tilePresent u.variant p | none => true
    if present && c.item != 1 && c.item != 2 then calNote1 c i u else u) t) s

/-- Load the instances of items that a condition names; those of absent tiles are ignored. -/
def calLoad (want : Nat → Nat → Bool) (s : State) : State :=
  calItems.foldl (fun t c => (List.range c.inst).foldl (fun u i =>
    let present := match calTile c.item i with | some p => tilePresent u.variant p | none => true
    if present && want c.item i then calLoad1 c i u else u) t) s

/-- A tile's bring-up or re-arm while an override of a FACTORY_CAL row is in force loads that tile's values again (R424, R428). -/
def calTileReload (p : Nat) (s : State) : State :=
  if s.tch.shadow.any fun e => e.2.ovr.isSome && decide (64 ≤ e.1) && decide (e.1 ≤ 191) then calLoad (fun item i => calTile item i == some p) s else s

end Sys2Proof.Machine
end

