-- ==== Sys2Proof/Machine/HostCmd.lean ====
section
/-! DEFINITION. The ports of the host interfaces (R506), and host commands in flight (R324, R325, R328, R335): how a command of the submission queues or of the mailbox is found, and how its completion is decided. -/

namespace Sys2Proof.Machine

/-! ## Ports -/

/-- Register access is open on an interface (R506, R322, R44, R341): from the end of P2; PCIe with its link up, in D0 and with queues 0 and 1 joined; management SPI with queues 2 and 3 joined; debug unless the debug-lock fuse is blown. -/
def portOpen (i : Iface) (s : State) : Bool :=
  !s.pwr.off && decide (3 ≤ s.sys.phase) &&
  (match i with
   | .pcie => s.pcie.linkUp && !s.pcie.d3 && (xq s 0).st == .joined && (xq s 1).st == .joined
   | .mgt => (xq s 2).st == .joined && (xq s 3).st == .joined
   | .debug => !(s.tch.flags.getLsbD 2))

/-- An access that does not reach the fabric: what a severed inbound queue takes is discarded and counted (R44). -/
def closedAccess (i : Iface) (s : State) : State :=
  match i with
  | .pcie => queueDiscard 0 1 s
  | .mgt => queueDiscard 2 1 s
  | .debug => s

/-! ## Commands in flight -/

/-- The oldest command in flight with an identifier. -/
def cmdOf (s : State) (id : CmdId) : Option Cmd := s.pcie.cmds.find? fun c => c.id == id

/-- Change the oldest command in flight with an identifier. -/
def updCmd (id : CmdId) (f : Cmd → Cmd) (l : List Cmd) : List Cmd :=
  match l with
  | [] => []
  | c :: t => if c.id == id then f c :: t else c :: updCmd id f t

/-- A command's stage changes. -/
def setStage (id : CmdId) (g : CmdStage) (s : State) : State :=
  { s with pcie := { s.pcie with cmds := updCmd id (fun c => { c with stage := g }) s.pcie.cmds } }

/-- A command's completion is decided. -/
def finishCmd (id : CmdId) (c : Cpl) (s : State) : State := setStage id (.decided c) s

/-- A command completes with a result code and nothing else. -/
def finishCode (id : CmdId) (code : Nat) (s : State) : State := finishCmd id { result := BitVec.ofNat 8 code } s

/-- A command takes data from host memory: the payload of a WRITE, a WRITE_ATOMIC or a JOURNAL_APPEND of a submission queue. -/
def takesHostData (c : Cmd) : Bool :=
  match c.id.src with
  | .mbx => false
  | .sq _ => c.desc.opcode == 0x02 || c.desc.opcode == 0x03 || (c.desc.opcode == 0x10 && c.desc.length != 0)

/-- No command fetched earlier from the same queue has still to begin: the commands of one SQ begin in the order fetched, and so receive their admission decisions in that order (R325). -/
def firstOfQueue (s : State) (c : Cmd) : Bool :=
  match s.pcie.cmds.find? fun d => d.id.src == c.id.src && d.stage == .fetched with
  | some d => d.id == c.id
  | none => true

/-- A command is served: it is its queue's turn; one that needs the firmware is not served while the pair is frozen (R163), and one that takes host data waits while no data may move (R322). -/
def cmdServed (s : State) (c : Cmd) : Bool :=
  firstOfQueue s c && !(s.dhd.frozen && Config.needsFirmware c.desc.opcode) && (!(takesHostData c) || pcieMoves s)

/-- A command that was fetched, passed checks 1 to 3 of R328, has the given opcode and is served. -/
def fetchedCmd (s : State) (id : CmdId) (op : Nat) : Option Cmd :=
  match cmdOf s id with
  | some c => if c.stage == .fetched && c.desc.opcode.toNat == op && cmdServed s c then some c else none
  | none => none

/-- A command that waits. -/
def waitingCmd (s : State) (id : CmdId) : Bool :=
  match cmdOf s id with
  | some c => c.stage == .waiting
  | none => false

/-- A block that a command needs is fenced (R28, Table HIF-8). -/
def pageFenced (s : State) (pg : Nat) : Bool := s.fab.fenced.getLsbD pg

/-- The mailbox's data bytes from an offset (R335). -/
def mbxBytes (s : State) (off n : Nat) : List Byte :=
  (List.range n).map fun i => let w := smGetD s.mgt.mbxData ((off + i) / 4) 0; BitVec.ofNat 8 (w.toNat / 2 ^ (8 * ((off + i) % 4)))

/-- Write the mailbox's data bytes. -/
def mbxWrite (off : Nat) (l : List Byte) (s : State) : State :=
  match l with
  | [] => s
  | b :: t =>
    let k := off / 4
    let w := smGetD s.mgt.mbxData k 0
    let sh := 8 * (off % 4)
    let v := (w &&& ~~~(r32 (255 * 2 ^ sh))) ||| r32 (b.toNat * 2 ^ sh)
    mbxWrite (off + 1) t { s with mgt := { s.mgt with mbxData := if v = 0 then smErase s.mgt.mbxData k else smSet s.mgt.mbxData k v } }

/-- The data a command takes from its buffer: the mailbox's own bytes, or what the host's memory gave. -/
def cmdData (c : Cmd) (given : List Byte) (s : State) : List Byte :=
  let n := c.desc.length.toNat
  match c.id.src with
  | .mbx => mbxBytes s c.desc.hostAddr.toNat n
  | .sq _ => padTo n given

/-- Read `k` words of MBX_DATA through its read port (R344): whether all could be read. -/
def mbxPort : Nat → State → Bool × State
  | 0, s => (true, s)
  | k + 1, s =>
    let r := readRetry pgMgt 0 .good s
    let q := mbxPort k r.2
    if r.1.check = .uncorrectable then (false, reportAs { src := 0x0A6, synd := r.1.synd, page := pgMgt, injected := r.1.injected } q.2) else q

/-- The data of a command reach the module (R328, R335): none where host memory does not give them, or where a mailbox word cannot be read (log 31). -/
def takeData (c : Cmd) (dma : Bool) (given : List Byte) (s : State) : Option (List Byte) × State :=
  match c.id.src with
  | .mbx =>
    let r := mbxPort ((c.desc.length.toNat + 3) / 4) s
    (if r.1 then some (cmdData c given s) else none, r.2)
  | .sq _ => (if dma || c.desc.length == 0 then some (cmdData c given s) else none, s)

/-- A host memory access of the command failed (R328). -/
def dmaError (id : CmdId) (s : State) : State := finishCode id 0x0B (evt pgPcie 1 s)

end Sys2Proof.Machine
end

