-- ==== Sys2Proof/Machine/Memory.lean ====
section
/-! DEFINITION. Byte memory in one canonical form: addresses strictly rising, no entry equal to 0, which is what an unlisted address reads as (log 11). -/

namespace Sys2Proof.Machine

/-- A byte memory. -/
abbrev Memory : Type := List Host.Cell

/-- The byte at an address; an unlisted address reads 0 (log 11). -/
def memGet (m : Memory) (a : Nat) : Byte :=
  match m with
  | [] => 0
  | (k, b) :: t => if k = a then b else if a < k then 0 else memGet t a

/-- Write one byte, keeping the canonical form: writing 0 removes the entry. -/
def memSet (m : Memory) (a : Nat) (v : Byte) : Memory :=
  match m with
  | [] => if v = 0 then [] else [(a, v)]
  | (k, b) :: t =>
    if k = a then (if v = 0 then t else (a, v) :: t)
    else if a < k then (if v = 0 then (k, b) :: t else (a, v) :: (k, b) :: t)
    else (k, b) :: memSet t a v

/-- Write bytes at consecutive addresses. -/
def memWrite (m : Memory) (a : Nat) (l : List Byte) : Memory :=
  match l with
  | [] => m
  | b :: t => memWrite (memSet m a b) (a + 1) t

/-- Read `n` bytes from consecutive addresses. -/
def memRead (m : Memory) (a n : Nat) : List Byte := (List.range n).map fun i => memGet m (a + i)

/-- Every entry from `lo` upward stands in rising order and is not 0. -/
def memWfFrom (lo : Nat) (m : Memory) : Bool :=
  match m with
  | [] => true
  | (k, b) :: t => decide (lo ≤ k) && b != 0 && memWfFrom (k + 1) t

/-- The canonical form. -/
def Memory.wf (m : Memory) : Bool := memWfFrom 0 m

end Sys2Proof.Machine
end

