-- ==== Sys2Proof/Machine/Store.lean ====
section
/-! DEFINITION. The store: the array, word faults and bank isolation, the ingot map, partitions and host access (R246 to R269). -/

namespace Sys2Proof.Machine

/-! ## The array -/

/-- Addressable ingots (Table STO-1). -/
def capIngots (v : Variant) : Nat := match v with | .gw968 => 8192 | .gw488 => 4096

/-- Lines of a bank, counting the reserved ingots (R250). -/
def bankLines (v : Variant) : Nat := (capIngots v + 40) * 1024 / 32

/-- The bank of a physical address (R247). -/
def bankOf (p : Nat) : Nat := p / 64 % 32

/-- The physical ingot of a logical one (R252). -/
def physIngot (t : Sto) (n : Nat) : Nat := smGetD t.map n n

/-- The physical address of a logical one (R252). -/
def physAddr (t : Sto) (a : Nat) : Nat := physIngot t (a / 65536) * 65536 + a % 65536

/-- The logical ingot that a physical one holds. -/
def logIngot (v : Variant) (t : Sto) (p : Nat) : Option Nat :=
  match t.map.find? fun e => e.2 == p with
  | some e => some e.1
  | none => if p < capIngots v ∧ (smGet t.map p).isNone then some p else none

/-- Change the store. -/
def updSto (f : Sto → Sto) (s : State) : State := { s with sto := f s.sto }

/-- UNCORR_ADDR of a physical address: the reserved area is named by physical address (Table STO-19). -/
def uncorrName (s : State) (p : Nat) : Bool × Nat :=
  match logIngot s.variant s.sto (p / 65536) with
  | some n => (false, n * 65536 + p % 65536)
  | none => (true, p)

/-- The die of a bank (R247). -/
def dieOf (b : Nat) : Nat := b % 2

/-- The line of a physical address within its bank (R247). -/
def lineInBank (p : Nat) : Nat := p / 2048

/-- The home address of a store word: its number within its die, by bank, line and word (R246). -/
def storeHome (v : Variant) (p : Nat) : Nat := (bankOf p / 2 * bankLines v + lineInBank p) * 4 + p / 16 % 4

/-- The 140 bits the array holds for the word at a physical address (R50, R246); none for a poisoned word, whose pattern only is uncorrectable (R250). -/
def storedWord (s : State) (p : Nat) : Option (BitVec 140) :=
  if s.sto.poison.contains (p / 16) then none
  else some (wordEncode (BitVec.ofNat 128 (leNat (memRead s.sto.mem (p / 16 * 16) 16))) (storeHome s.variant p))

/-- Keep the substitutions and the migrations with their positions in the map ingots (R250). -/
def noteBanks (t : Sto) : Sto :=
  let f := fun (o : Option MapSnap) => o.map fun m => { m with subst := [vGet t.spare 0 none, vGet t.spare 1 none], iso := t.bankIso, dead := t.dead, migr := t.migr, migrPos := t.migrPos }
  { t with snaps := #v[f (vGet t.snaps 0 none), f (vGet t.snaps 1 none)] }

/-- A bank is isolated (R250): the spare of its die takes its place and migration starts; without a spare it stays isolated. -/
def isolateBank (b : Nat) (s : State) : State :=
  let d := dieOf b
  let s := evt pgSto 4 (updSto (fun t => { t with bankIso := setBit t.bankIso b true }) s)
  match vGet s.sto.spare d none with
  | none => report0 0x082 pgSto (updSto (fun t => noteBanks { t with spare := vSet t.spare d (some b), migr := vSet t.migr d (some b), migrPos := vSet t.migrPos d 0, migrDie := d }) s)
  | some _ => report0 0x083 pgSto (updSto (fun t => noteBanks { t with dead := setBit t.dead b true, degraded := true }) s)

/-- A physical address lies in a line that still stands in an isolated bank: its migration has not reached it (R250). -/
def unmigrated (t : Sto) (p : Nat) : Bool :=
  let d := dieOf (bankOf p)
  vGet t.migr d none == some (bankOf p) && decide (vGet t.migrPos d 0 ≤ lineInBank p)

/-- A word whose three reads have failed (R249, R250): one that migration has still to move, which a request has its line migrated for, stands in the spare as a poisoned word; the bank of any other is isolated. -/
def wordFailed (p : Nat) (s : State) : State :=
  if unmigrated s.sto p then
    report 0x084 (wordSynd .uncorrectable (rawSyndrome .uncorrectable s.free)) (p / 16) pgSto
      { updSto (fun t => { t with poison := t.poison ++ [p / 16] }) s with free := s.free + 1 }
  else isolateBank (bankOf p) s

/-- Lines a migration moves in one CLK_TB cycle out of 64: DESIGN CHOICE (log 125), 100 MB/s exactly, the slowest rate R250 allows. -/
def migrTick (t : Nat) (v : Variant) (x : Sto) : Sto :=
  if t % 64 = 0 ∧ (x.migr.any fun m => m.isSome) then
    noteBanks { x with migrPos := Vector.ofFn fun d => if (vGet x.migr d.val none).isSome then min (vGet x.migrPos d.val 0 + 1) (bankLines v) else vGet x.migrPos d.val 0 }
  else x

/-- The outcome of one word of a read. -/
inductive WordRead where
  | data (l : List Byte)
  | uncorrectable
  | isolated
  deriving DecidableEq, Repr

/-- A word of the store is read at a physical address (R249): `w` is what the array itself gives. -/
def readWordPhys (p : Nat) (w : WordCheck) (s : State) : WordRead × State :=
  let wa := p / 16
  if s.sto.dead.getLsbD (bankOf p) then (.isolated, { s with fab := { s.fab with cellIsolatedResp := true } })
  else if s.sto.poison.contains wa then
    let n := uncorrName s (wa * 16)
    (.uncorrectable, report 0x081 (wordSynd .uncorrectable (rawSyndrome .uncorrectable s.free)) wa pgSto (evt pgSto 1 { updSto (fun t => { t with uncorr := satAdd 32 t.uncorr 1, uncorrAddr := some n }) s with free := s.free + 1 }))
  else
    let r := readRetry pgSto (bankOf p) w s
    let bytes := memRead r.2.sto.mem (wa * 16) 16
    let s := reportRead 0x080 0x081 pgSto wa r.1 r.2
    match r.1.check with
    | .good => (.data bytes, s)
    | .uncorrectable =>
      let n := uncorrName s (wa * 16)
      (.uncorrectable, wordFailed p (evt pgSto 1 (updSto (fun t => { t with uncorr := satAdd 32 t.uncorr 1, uncorrAddr := some n }) s)))
    | .single _ => (.data bytes, evt pgSto 0 (updSto (fun t => { t with corr := satAdd 32 t.corr 1 }) s))
    | .adjacent _ => (.data bytes, evt pgSto 0 (updSto (fun t => { t with corr := satAdd 32 t.corr 1 }) s))

/-- What the array gives for a logical word: the disturbances a command names, otherwise a good word. -/
def wordAtFault (fs : List (Nat × WordCheck)) (a : Nat) : WordCheck := ((fs.find? fun e => e.1 / 16 == a / 16).map Prod.snd).getD .good

/-- The outcome of a read of logical words: the bytes, failing words as 0, and the first failing address with whether it was isolated. -/
structure LogRead where
  bytes : List Byte := []
  bad : Option (Nat × Bool) := none
  deriving DecidableEq, Repr

/-- One word before the words that follow it: a word that gives no data reads as 0, and the first such word is named. -/
def joinWord (a : Nat) (r : WordRead) (q : LogRead) : LogRead :=
  match r with
  | .data l => { q with bytes := l ++ q.bytes }
  | .uncorrectable => { bytes := zeros 16 ++ q.bytes, bad := some (a, false) }
  | .isolated => { bytes := zeros 16 ++ q.bytes, bad := some (a, true) }

/-- Read `k` words from a logical address (R262). -/
def readWords (fs : List (Nat × WordCheck)) : Nat → Nat → State → LogRead × State
  | 0, _, s => ({}, s)
  | k + 1, a, s =>
    let r := readWordPhys (physAddr s.sto a) (wordAtFault fs a) s
    let q := readWords fs k (a + 16) r.2
    (joinWord a r.1 q.1, q.2)

/-- Write logical bytes: the words written are no longer poisoned (R248, R250). -/
def writeLog (a : Nat) (l : List Byte) (t : Sto) : Sto :=
  let p := physAddr t a
  { t with mem := memWrite t.mem p l, poison := t.poison.filter fun w => !(decide (p / 16 ≤ w) && decide (w < (p + l.length + 15) / 16)) }

/-- Write logical bytes that may cross ingots, one ingot at a time. -/
def writeSpan : Nat → Nat → List Byte → Sto → Sto
  | 0, _, _, t => t
  | fuel + 1, a, l, t =>
    let room := 65536 - a % 65536
    if l.length ≤ room then writeLog a l t else writeSpan fuel (a + room) (l.drop room) (writeLog a (l.take room) t)

/-! ## The ingot map (R252 to R254) -/

/-- The bits of a commit word but its CRC (Table STO-2). -/
def commitFields (w : CommitWord) : Nat :=
  let e := w.second.getD (0, 0)
  w.seq.toNat + w.log0 % 2 ^ 14 * 2 ^ 32 + w.phy0 % 2 ^ 14 * 2 ^ 46 + e.1 % 2 ^ 14 * 2 ^ 60 + e.2 % 2 ^ 14 * 2 ^ 74 + (if w.second.isSome then 2 ^ 88 else 0)

/-- A commit word as the array holds it (Table STO-2): its CRC covers bytes 0 to 11. -/
def commitBits (w : CommitWord) : BitVec 128 :=
  let n := commitFields w
  BitVec.ofNat 128 (n + (crc32c (leBytes 12 n)).toNat * 2 ^ 96)

/-- A commit word as it is read; none where its CRC is wrong (R254). -/
def commitOf (b : BitVec 128) : Option CommitWord :=
  let n := b.toNat % 2 ^ 96
  let f := fun (lo : Nat) => n / 2 ^ lo % 2 ^ 14
  if (crc32c (leBytes 12 n)).toNat = b.toNat / 2 ^ 96 then
    some { seq := BitVec.ofNat 32 n, log0 := f 32, phy0 := f 46, second := if n / 2 ^ 88 % 2 = 1 then some (f 60, f 74) else none }
  else none

/-- Snapshot x is newer than y: it has the higher base sequence number (R254). DESIGN CHOICE (log 123): the spec gives no rule where both are equal, as after two floor snapshots without a commit between them; the higher journal floor is then the newer. -/
def snapNewer (x y : MapSnap) : Bool := decide (y.base.toNat < x.base.toNat) || (x.base == y.base && decide (y.floor < x.floor))

/-- Write a map snapshot into the older snapshot ingot and start the log afresh (R253). -/
def writeSnapshot (t : Sto) : Sto :=
  let i := match vGet t.snaps 0 none, vGet t.snaps 1 none with
    | none, _ => 0
    | _, none => 1
    | some x, some y => if snapNewer x y then 1 else 0
  let m : MapSnap := { base := t.commitSeq, map := t.map, subst := [vGet t.spare 0 none, vGet t.spare 1 none], floor := t.floor, layout := t.layout,
                       iso := t.bankIso, dead := t.dead, migr := t.migr, migrPos := t.migrPos }
  { t with snaps := vSet t.snaps i (some m), log := [] }

/-- Capacity of the log (R253). -/
abbrev logCap : Nat := 24576

/-- Write one commit word and update the map (Table STO-10, steps 4 and 5). -/
def commitMap (x : Nat × Nat) (y : Option (Nat × Nat)) (t : Sto) : Sto :=
  let t := if t.log.length ≥ logCap then writeSnapshot t else t
  let seq := t.commitSeq + 1
  let put := fun (m : SMap Nat) (e : Nat × Nat) => if e.1 = e.2 then smErase m e.1 else smSet m e.1 e.2
  let m := put t.map x
  { t with commitSeq := seq, log := t.log ++ [commitBits { seq := seq, log0 := x.1, phy0 := x.2, second := y }],
           map := match y with | none => m | some e => put m e }

/-- Replay the log over a snapshot's map (R254): it stops at `bad`, the first commit word that cannot be read, at one whose CRC is wrong, and at one whose SEQ is not the one expected. -/
def replay (bad : Option Nat) : Nat → Word32 → SMap Nat → List (BitVec 128) → SMap Nat × Word32
  | _, seq, m, [] => (m, seq)
  | i, seq, m, b :: rest =>
    match commitOf b with
    | none => (m, seq)
    | some w =>
    if bad = some i ∨ w.seq ≠ seq + 1 then (m, seq)
    else
      let put := fun (m : SMap Nat) (e : Nat × Nat) => if e.1 = e.2 then smErase m e.1 else smSet m e.1 e.2
      let m := put m (w.log0, w.phy0)
      replay bad (i + 1) w.seq (match w.second with | none => m | some e => put m e) rest

/-- The snapshot that is valid and newer (R254). -/
def newestSnap (t : Sto) : MapSnap :=
  match vGet t.snaps 0 none, vGet t.snaps 1 none with
  | some a, some b => if snapNewer b a then b else a
  | some a, none => a
  | none, some b => b
  | none, none => {}

/-- Recovery of the map (R254): a migration recorded under R250 resumes from its position. -/
def mapRecover (bad : Option Nat) (t : Sto) : Sto :=
  let m := newestSnap t
  let r := replay bad 0 m.base m.map t.log
  { t with map := r.1, commitSeq := r.2, floor := m.floor, mapOk := true, layout := m.layout,
           spare := #v[(m.subst[0]?).getD none, (m.subst[1]?).getD none], bankIso := m.iso, dead := m.dead, degraded := m.dead != 0,
           migr := m.migr, migrPos := m.migrPos, log := t.log.take (r.2 - m.base).toNat }

/-- Free shadow ingots (R252): physical ingots outside the map and outside the map ingots, less those that running atomic writes hold. -/
def freeShadows (s : State) : List Nat :=
  let cap := capIngots s.variant
  let t := s.sto
  let held := fun (p : Nat) => t.atomics.any fun a => a.targets.any fun x => x.2 == p
  let mapped := fun (p : Nat) => t.map.any fun e => e.2 == p
  ((t.map.map Prod.fst).filter (fun n => !(mapped n)) ++ ((List.range 32).map (cap + ·)).filter (fun p => !(mapped p))).filter fun p => !(held p)

/-! ## Partitions and host access (R255 to R262) -/

/-- The default layouts (Table STO-4). -/
def defaultLayout (v : Variant) : List Part :=
  match v with
  | .gw968 => [{ typ := 1, first := 0, count := 1024 }, { typ := 2, first := 1024, count := 1024 }, { typ := 3, first := 2048, count := 256 },
               { typ := 4, first := 2304, count := 5632 }, { typ := 5, first := 7936, count := 256 }]
  | .gw488 => [{ typ := 1, first := 0, count := 1024 }, { typ := 2, first := 1024, count := 1024 }, { typ := 3, first := 2048, count := 256 },
               { typ := 4, first := 2304, count := 1536 }, { typ := 5, first := 3840, count := 256 }]

/-- The partition of a logical ingot. -/
def partOf (t : Sto) (n : Nat) : Option Part := t.layout.find? fun p => decide (p.first ≤ n) && decide (n < p.first + p.count)

/-- The partition of a type. -/
def partOfType (t : Sto) (typ : Nat) : Option Part := t.layout.find? fun p => p.typ == typ

/-- Logical byte address of configuration ingot i (R255). -/
def cfgAddr (i : Nat) : Nat := (2048 + i) * 65536

/-- The read of a host command or of BAR2 may be made: a result code where it may not (Table STO-9). -/
def readRefusal (s : State) (a n : Nat) : Option Nat :=
  if s.sto.parked then some 0x0A
  else if s.ast.storeBad then some 0x09
  else if pageFenced s pgSto then some 0x0C
  else if a % 16 ≠ 0 ∨ n % 16 ≠ 0 then some 0x03
  else if n < 16 ∨ n > 1048576 then some 0x04
  else match partOf s.sto (a / 65536) with
    | none => some 0x07
    | some p => if a + n > (p.first + p.count) * 65536 then some 0x04 else none

/-- The write access to one ingot of a partition (Table STO-9): a result code where it is refused. -/
def writeIngot (s : State) (p : Part) (n : Nat) : Option Nat :=
  let i := n - p.first
  if p.typ = 1 ∨ p.typ = 2 then (if s.boot.lock && (s.boot.slot == (p.typ == 2)) then some 0x05 else none)
  else if p.typ = 3 then
    if i ≥ 48 then some 0x05
    else if (s.ilkl.active == some 0 && i ≤ 3) || (s.ilkl.active == some 1 && 4 ≤ i && i ≤ 7) || (!s.sto.ptDefault && i == 8 + s.sto.ptCopy) || i == 10 || i == 11 then some 0x05
    else if s.sys.mode ≠ .service then some 0x06 else none
  else if p.typ = 4 then some 0x05
  else if p.lock then some 0x05 else none

/-- The first refusal among ingots: PROTECTED before MODE. -/
def writeIngots (s : State) (p : Part) (l : List Nat) : Option Nat :=
  let r := l.filterMap (writeIngot s p)
  if r.contains 0x05 then some 0x05 else r.head?

/-- The logical ingots that a range covers. -/
def ingotsOf (a n : Nat) : List Nat := (List.range ((a + n - 1) / 65536 + 1 - a / 65536)).map (a / 65536 + ·)

/-- The write of a host command may be made: a result code where it may not (R262, Table STO-9). -/
def writeRefusal (s : State) (atomic : Bool) (a n : Nat) : Option Nat :=
  if s.sto.parked then some 0x0A
  else if s.ast.storeBad then some 0x09
  else if pageFenced s pgSto then some 0x0C
  else if a % 16 ≠ 0 ∨ n % 16 ≠ 0 then some 0x03
  else if n < 16 ∨ n > (if atomic then 65536 else 1048576) then some 0x04
  else match partOf s.sto (a / 65536) with
    | none => some 0x07
    | some p => if a + n > (p.first + p.count) * 65536 then some 0x04 else writeIngots s p (ingotsOf a n)

/-- The configuration ingots from 48 on read 0 (Table STO-9). -/
def maskReserved (s : State) (a : Nat) (l : List Byte) : List Byte :=
  match partOf s.sto (a / 65536) with
  | some p => if p.typ = 3 ∧ a / 65536 - p.first ≥ 48 then zeros l.length else l
  | none => l

/-- What a READ of a checked range delivers and completes with (R262, Table HIF-7). -/
def readCpl (fs : List (Nat × WordCheck)) (a n : Nat) (s : State) : Cpl × State :=
  let r := readWords fs (n / 16) a s
  match r.1.bad with
  | none => ({ result := 0x00, count := n, data := maskReserved s a r.1.bytes }, r.2)
  | some (b, iso) => ({ result := if iso then 0x09 else 0x08, count := n, value := b, data := maskReserved s a r.1.bytes }, r.2)

/-- The page that issues a command's transactions: that of the interface it came over. -/
def cmdPage (c : Cmd) : Nat := match c.id.src with | .mbx => pgMgt | .sq _ => pgPcie

/-- An idle cycle of the block: the clocks and queues, and the lines that migrations move. -/
def idleCycle (s : State) : State :=
  let s := clockCycle s
  if s.tb.running && !s.sto.parked then updSto (migrTick s.tb.counter s.variant) s else s

/-- READ (R262): the command named reads the store; `dma` says that host memory took the data, `fs` what the array gives for disturbed words. While the store parks, only PARK requests are granted (R269), so the command waits. -/
def execRead (id : CmdId) (dma : Bool) (fs : List (Nat × WordCheck)) (s : State) : Res :=
  match fetchedCmd s id 0x01 with
  | none => .next s
  | some c =>
    if s.sto.parking && !s.sto.parked then .next s else
    let a := c.desc.addr.toNat
    let n := c.desc.length.toNat
    match readRefusal s a n with
    | some code => .next (finishCode id code s)
    | none =>
      let r := readCpl fs a n (issue .hostAccess (cmdPage c) pgSto (n / 16) s)
      if dma || c.id.src == .mbx then .next (finishCmd id r.1 r.2) else .next (dmaError id r.2)

/-! ## Writes (R263 to R265) -/

/-- An ingot is locked by an atomic write that runs. -/
def ingotLocked (t : Sto) (n : Nat) : Bool := t.atomics.any fun a => a.targets.any fun x => x.1 == n

/-- The ingots a write names. -/
def writeTargets (w : WaitWrite) : List Nat := ingotsOf w.addr w.data.length

/-- At most this many atomic writes run at once (R264). -/
abbrev atomicPlaces : Nat := 16

/-- The locks that the atomic writes hold which wait with a place among the 16: each takes its locks in ascending ingot order, up to the first that another holds (R264). -/
def waitingLocks (t : Sto) (places : Nat) (held : List Nat) : List WaitWrite → List Nat
  | [] => held
  | w :: rest =>
    if w.atomic && decide (0 < places) then
      waitingLocks t (places - 1) (held ++ (writeTargets w).takeWhile fun n => !(ingotLocked t n || held.contains n)) rest
    else waitingLocks t places held rest

/-- An earlier write that waits comes before this one: an atomic write runs after every earlier write to one of its ingots, any other after the earlier ones that are not atomic, for an atomic write without a lock delays no other command (R263, R264). -/
def waitsFor (before : List WaitWrite) (w : WaitWrite) : Bool :=
  before.any fun x => (w.atomic || !x.atomic) && (writeTargets x).any fun n => (writeTargets w).contains n

/-- The shadows an atomic write takes: one free shadow per target, or none where it must wait. -/
def takeShadows (s : State) (ns : List Nat) : Option (List (Nat × Nat)) :=
  let f := freeShadows s
  if f.length < ns.length then none else some (ns.zip f)

/-- Begin a write that has been checked, where the writes before it allow it: whether it began (R263, R264). -/
def beginWrite (before : List WaitWrite) (w : WaitWrite) (s : State) : Option State :=
  let ns := writeTargets w
  let held := waitingLocks s.sto (atomicPlaces - s.sto.atomics.length) [] before
  if waitsFor before w || ns.any (fun n => ingotLocked s.sto n || held.contains n) then none
  else if w.atomic then
    if s.sto.atomics.length ≥ atomicPlaces then none
    else (takeShadows s ns).map fun ts =>
      setStage w.id .waiting (updSto (fun t => { t with atomics := t.atomics ++ [{ id := w.id, targets := ts, addr := w.addr, data := w.data }] }) s)
  else some (finishCmd w.id { result := 0, count := w.data.length } (updSto (writeSpan 17 w.addr w.data) s))

/-- Begin the waiting writes that may begin now, in the order in which they were accepted. -/
def beginWaits : List WaitWrite → List WaitWrite → State → List WaitWrite × State
  | before, [], s => (before, s)
  | before, w :: rest, s =>
    match beginWrite before w s with
    | some s' => beginWaits before rest s'
    | none => beginWaits (before ++ [w]) rest s

/-- Let waiting writes begin. -/
def wakeWrites (s : State) : State :=
  let r := beginWaits [] s.sto.waits s
  updSto (fun t => { t with waits := r.1 }) r.2

/-- A checked write begins or waits. -/
def acceptWrite (w : WaitWrite) (s : State) : State :=
  match beginWrite s.sto.waits w s with
  | some s' => s'
  | none => setStage w.id .waiting (updSto (fun t => { t with waits := t.waits ++ [w] }) s)

/-- The first address of a range whose line lies in a bank that no spare stands in for. -/
def deadAddr (s : State) (a n : Nat) : Option Nat :=
  ((List.range ((a + n - 1) / 64 + 1 - a / 64)).map fun k => max a ((a / 64 + k) * 64)).find? fun x => s.sto.dead.getLsbD (bankOf (physAddr s.sto x))

/-- A WRITE or WRITE_ATOMIC of a command. One that names a line of an isolated bank completes CELL_ISOLATED (R250); DESIGN CHOICE (log 124): it writes no word. While the store parks, only PARK requests are granted (R269), so the command waits. -/
def hostWrite (atomic : Bool) (id : CmdId) (dma : Bool) (given : List Byte) (s : State) : State :=
  match fetchedCmd s id (if atomic then 0x03 else 0x02) with
  | none => s
  | some c =>
    if s.sto.parking && !s.sto.parked then s else
    let a := c.desc.addr.toNat
    match writeRefusal s atomic a c.desc.length.toNat with
    | some code => finishCode id code s
    | none =>
      match deadAddr s a c.desc.length.toNat with
      | some b => finishCmd id { result := 0x09, value := b } { s with fab := { s.fab with cellIsolatedResp := true } }
      | none =>
        match takeData c dma given (issue .hostAccess (cmdPage c) pgSto (c.desc.length.toNat / 16) s) with
        | (some l, t) => acceptWrite { id := id, atomic := atomic, addr := a, data := l } t
        | (none, t) => dmaError id t

/-- WRITE (R262, R263): `given` is what the host's memory holds in the command's buffer. -/
def execWrite (id : CmdId) (dma : Bool) (given : List Byte) (s : State) : Res := .next (hostWrite false id dma given s)

/-- WRITE_ATOMIC (R264): steps 1 to 3 of Table STO-10 begin, or the command waits. -/
def execWriteAtomic (id : CmdId) (dma : Bool) (given : List Byte) (s : State) : Res := .next (hostWrite true id dma given s)

/-- Copy an ingot's bytes and its poisoned words to another physical ingot. -/
def copyIngot (src dst : Nat) (t : Sto) : Sto :=
  let cells := t.mem.filter fun c => c.1 / 65536 == src
  let clean := (t.mem.filter fun c => c.1 / 65536 == dst).foldl (fun m c => memSet m c.1 0) t.mem
  let pois := (t.poison.filter fun w => w / 4096 == src).map fun w => w % 4096 + dst * 4096
  { t with mem := cells.foldl (fun m c => memSet m (c.1 % 65536 + dst * 65536) c.2) clean,
           poison := t.poison.filter (fun w => w / 4096 != dst) ++ pois }

/-- Steps 3 to 5 of Table STO-10 for one atomic write: the shadows hold the old ingots with the new words, the commit word is written and the map updated. -/
def commitAtomic (a : Atomic) (t : Sto) : Sto :=
  let t := a.targets.foldl (fun t x => copyIngot (physIngot t x.1) x.2 t) t
  let t := match a.targets with
    | [] => t
    | [x] => commitMap x none t
    | x :: y :: _ => commitMap x (some y) t
  writeSpan 3 a.addr a.data { t with atomics := t.atomics.filter fun b => b.id != a.id }

/-- A FLUSH has nothing to wait for any more (R263, R289). -/
def flushReady (s : State) (f : Flush) : Bool :=
  (s.jrn.waiting ++ s.jrn.buf).all (fun b => decide (b.no > f.upTo)) &&
  f.writes.all fun w => !(s.sto.atomics.any fun a => a.id == w) && !(s.sto.waits.any fun x => x.id == w)

/-- Every FLUSH that has nothing to wait for completes with SEALED_SEQ (Table HIF-7). -/
def wakeFlushes (s : State) : State :=
  let done := s.jrn.flushes.filter (flushReady s)
  done.foldl (fun u f => finishCmd f.id { result := 0, value := u.jrn.sealedSeq } u)
    { s with jrn := { s.jrn with flushes := s.jrn.flushes.filter fun f => !(flushReady s f) } }

/-- ATOMIC_COMMIT (R264): the atomic write named, whose shadow copies are complete, commits; writes that waited for its locks begin. -/
def execAtomicCommit (id : CmdId) (s : State) : Res :=
  match s.sto.atomics.find? fun a => a.id == id with
  | none => .next s
  | some a => .next (wakeFlushes (wakeWrites (finishCmd id { result := 0, count := a.data.length } (updSto (commitAtomic a) s))))

/-! ## Migration, scrubbing, parking -/

/-- MIGRATION_DONE (R250): every line of the isolated bank of a die is in the spare; `lost` names the physical words that could not be read and were poisoned. -/
def execMigrationDone (lost : MigrationEnd) (s : State) : Res :=
  match vGet s.sto.migr lost.die.val none with
  | none => .next s
  | some _ =>
    let s := updSto (fun t => noteBanks { t with migr := vSet t.migr lost.die.val none, migrPos := vSet t.migrPos lost.die.val (bankLines s.variant), poison := t.poison ++ lost.lost.filter fun w => !(t.poison.contains w) }) s
    .next (lost.lost.foldl (fun u w => report 0x084 (wordSynd .uncorrectable (rawSyndrome .uncorrectable u.free)) w pgSto { u with free := u.free + 1 }) (evt pgSto 3 s))

/-- Read the words of one line. -/
def readLine (fs : List (Nat × WordCheck)) (p : Nat) (s : State) : State :=
  (List.range 4).foldl (fun u i => (readWordPhys (p + 16 * i) (wordAtFault fs (16 * i)) u).2) s

/-- SCRUB_STEP (R251): the next line is read as BACKGROUND traffic; `fs` is what its words give, by offset in the line. -/
def execScrubStep (fs : List (Nat × WordCheck)) (s : State) : Res :=
  if s.sto.scrubEn && s.sto.mapOk && !s.sto.parked && !s.sto.parking then
    let s := readLine fs (s.sto.scrubIngot * 65536 + s.sto.scrubLine * 64) (issue .scrub pgSto pgSto 4 s)
    if s.sto.scrubLine < 1023 then .next (updSto (fun t => { t with scrubLine := t.scrubLine + 1 }) s)
    else if s.sto.scrubIngot + 1 < capIngots s.variant + 40 then .next (updSto (fun t => { t with scrubLine := 0, scrubIngot := t.scrubIngot + 1 }) s)
    else .next (evt pgSto 2 (updSto (fun t => { t with scrubLine := 0, scrubIngot := 0, scrubPasses := satAdd 16 t.scrubPasses 1 }) s))
  else .next s

/-- PARK_REQUEST (R269): only PARK requests are granted; atomic writes whose step 3 has ended (`done`) complete, and the others are abandoned without a completion. -/
def parkRequest (done : List CmdId) (s : State) : State :=
  if s.sto.parking ∨ s.sto.parked then s else
  let s := s.sto.atomics.foldl (fun u a => if done.contains a.id then finishCmd a.id { result := 0, count := a.data.length } (updSto (commitAtomic a) u) else u) s
  let gone := (s.sto.atomics.map (·.id)) ++ s.sto.waits.map (·.id)
  { updSto (fun t => { t with atomics := [], waits := [], parking := true }) s with
    pcie := { s.pcie with cmds := s.pcie.cmds.filter fun c => !(gone.contains c.id && c.stage == .waiting) } }

/-- PARK_REQUEST, while the power-fail sequence or a chip reset that seals first runs. -/
def execParkRequest (done : List CmdId) (s : State) : Res :=
  if s.pwr.pfRun || s.rst.chip.isSome then .next (parkRequest done s) else .next s

/-- STORE_PARKED (R269): parking has ended. -/
def execStoreParked (s : State) : Res :=
  if s.sto.parking && s.sto.atomics.isEmpty then .next (updSto (fun t => { t with parked := true }) s) else .next s

/-- CTRL.CNT_CLR (Table STO-19). -/
def stoCntClr (s : State) : State := updSto (fun t => { t with corr := 0, uncorr := 0, uncorrAddr := none }) s

/-- PART_INFO (Table STO-19). -/
def partInfo (t : Sto) : Word32 :=
  match t.layout[t.partSel.toNat]? with
  | none => 0
  | some p => fld 29 3 p.typ ||| flag 28 p.lock ||| fld 14 14 p.count ||| fld 0 14 p.first

/-! ## Reads by the module itself -/

/-- Read bytes of a configuration item: the bytes, or none where a word cannot be read or the store is parked or fenced. -/
def readItem (a n : Nat) (s : State) : Option (List Byte) × State :=
  if s.sto.parked || s.sto.parking || !s.sto.mapOk || pageFenced s pgSto then (none, s)
  else
    let r := readWords [] ((n + 15) / 16) a s
    (if r.1.bad.isSome then none else some (r.1.bytes.take n), r.2)

/-- Write bytes of a configuration item. -/
def writeItem (a : Nat) (l : List Byte) (s : State) : State := updSto (writeSpan 9 a l) s

/-- A write of the module itself to a configuration item may be made: no atomic write holds a lock on its ingots (R264). -/
def itemFree (a n : Nat) (s : State) : Bool :=
  let held := waitingLocks s.sto (atomicPlaces - s.sto.atomics.length) [] s.sto.waits
  (ingotsOf a n).all fun k => !(ingotLocked s.sto k || held.contains k)

/-- The bytes that stand at logical addresses, without a read of the array. -/
def peekLog (a n : Nat) (s : State) : List Byte := (List.range n).map fun i => memGet s.sto.mem (physAddr s.sto (a + i))

/-- The firmware notes the CRC of a copy it has verified (R386), over the whole words of its image: `k` is 0 or 1 for a table copy, 2 or 3 for a partition table copy. -/
def noteVerified (k a len : Nat) (s : State) : State :=
  let n := (len + 15) / 16 * 16
  { s with crcRef := smSet s.crcRef k (n, crc32c (peekLog a n s)) }

/-- A signed image of at most `maxLen` bytes: its header is read for MAGIC and LENGTH (at offset `lenOff`), then the whole image. `none`: the store could not be read; `some []`: MAGIC or LENGTH wrong. -/
def readImage (a : Nat) (magic : List Byte) (lenOff maxLen : Nat) (s : State) : Option (List Byte) × State :=
  let h := readItem a 64 s
  match h.1 with
  | none => (none, h.2)
  | some l =>
    let n := leAt l lenOff 4
    if l.take 4 ≠ magic ∨ n > maxLen ∨ n < 64 + 7856 then (some [], h.2) else readItem a n h.2

end Sys2Proof.Machine
end

