-- ==== Sys2Proof/Machine/Hallmark.lean ====
section
/-! DEFINITION. Hallmark: the engine, the owner slots, certificates, patches, measurements, identity and attestation (R431 to R452). -/

namespace Sys2Proof.Machine

/-- Change the engine. -/
def updHmk (f : Hmk → Hmk) (s : State) : State := { s with hmk := f s.hmk }

/-- HMK_SELF is raised (Table FCR-2). -/
def hmkSelf (s : State) : State := report0 0x05C pgHmk (evt pgHmk 1 s)

/-- A refusal (R442): REASON, OBJ, COPY and SLOT of REJECT_INFO. -/
def hmkReject (reason obj copy slot : Nat) (s : State) : State :=
  report0 0x05D pgHmk (evt pgHmk 0 (updHmk (fun h => { h with reject := some (fld 10 2 slot ||| fld 8 2 copy ||| fld 4 4 obj ||| fld 0 4 reason), rejects := satAdd 32 h.rejects 1 }) s))

/-- A run of the known-answer test ends (R434). -/
def katRun (pass : Bool) (s : State) : State :=
  let s := updHmk (fun h => { h with katOk := pass && !h.katBad, katBad := h.katBad || !pass, katRun := false }) s
  if pass then s else hmkSelf s

/-- How the check of a signed object ends. -/
inductive VerOut where
  | ok | format | key | signature | cert | engine | store
  deriving DecidableEq, Repr

/-- One verification by the engine (R431, R433, R434): whether it holds, or ENGINE. -/
def verifySig (obj copy slot : Nat) (pk msg sig : List Byte) (s : State) : VerOut × State :=
  let r := readRetry pgHmk 0 .good s
  if r.1.check = .uncorrectable then (.engine, hmkReject 5 obj copy slot (hmkSelf r.2))
  else if !r.2.hmk.katOk then (.engine, hmkReject 5 obj copy slot r.2)
  else
    let s := updHmk (fun h => { h with verifies := satAdd 32 h.verifies 1 }) r.2
    if Config.slhVerify pk msg sig then (.ok, s) else (.signature, hmkReject 2 obj copy slot s)

/-- The public key of a usable slot (R437). -/
def slotKey (s : State) (slot : Nat) : Option (List Byte) :=
  let k := vGet s.hmk.slots slot {}
  if k.st = .active then k.key else none

/-- The key and signature checks of an image whose last 7,856 bytes are the signature by an owner slot (R437, R442). -/
def verifyOwner (obj copy slot : Nat) (img : List Byte) (s : State) : VerOut × State :=
  match slotKey s slot with
  | none => (.key, hmkReject 1 obj copy slot s)
  | some pk => verifySig obj copy slot pk (img.take (img.length - 7856)) (img.drop (img.length - 7856)) s

/-! ## Start-up work -/

/-- The state of an owner slot from its Touchmark rows (Table HMK-4). -/
def slotState (s : State) (k : Nat) : SlotSt :=
  let a := (shadowOf s (192 + 2 * k)).st
  let b := (shadowOf s (193 + 2 * k)).st
  if (shadowOf s (200 + k)).st ≠ .blank then .revoked
  else if a = .blank ∧ b = .blank then .empty
  else if a = .blank ∨ b = .blank ∨ a = .invalid ∨ b = .invalid then .invalid
  else .active

/-- The SHA-256 that the Touchmark holds in two rows. -/
def rowsHash (s : State) (n : Nat) : List Byte := rowBytes (shadowOf s n).value ++ rowBytes (shadowOf s (n + 1)).value

/-- KEY[s] of an owner-key record, and whether it is the slot's key (R438). -/
def recordKey (s : State) (k : Nat) (rec : Option (List Byte)) : Option (List Byte) × Bool :=
  match rec with
  | none => (none, false)
  | some l =>
    if l.take 4 = ascii "GWOK" ∧ leAt l 4 2 = 1 then
      let key := slice l (32 + 32 * k) 32
      if key = zeros 32 then (none, false) else if sha256 key = rowsHash s (192 + 2 * k) then (some key, true) else (some key, false)
    else (none, false)

/-- Take the key of one slot from the records (R438); a key that is not the slot's is refused. -/
def takeSlot (r0 r1 : Option (List Byte)) (k : Nat) (s : State) : State :=
  let st := slotState s k
  if st = .active then
    let a := recordKey s k r0
    let b := recordKey s k r1
    let key := if a.2 then a.1 else if b.2 then b.1 else none
    let s := updHmk (fun h => { h with slots := vSet h.slots k { st := st, key := key },
                                       keyRepair := if a.2 && !b.2 && !h.keyRepair.contains 1 then h.keyRepair ++ [1] else if b.2 && !a.2 && !h.keyRepair.contains 0 then h.keyRepair ++ [0] else h.keyRepair }) s
    let s := if a.1.isSome && !a.2 then hmkReject 1 6 0 k s else s
    if b.1.isSome && !b.2 then hmkReject 1 6 1 k s else s
  else updHmk (fun h => { h with slots := vSet h.slots k { st := st, key := none } }) s

/-- Read the owner-key records and judge the slots (R437, R438). -/
def takeKeys (s : State) : State :=
  let r0 := readItem (cfgAddr 12) 160 s
  let r1 := readItem (cfgAddr 13) 160 r0.2
  (List.range 4).foldl (fun t k => takeSlot r0.1 r1.1 k t) r1.2

/-- The root in force (R436), taken in P1. -/
def takeRoot (s : State) : State :=
  match rowValue (shadowOf s 32), rowValue (shadowOf s 33) with
  | some a, some b =>
    (match (List.range 4).find? fun g => sha256 (Config.rootKey g) == rowBytes a ++ rowBytes b with
     | some g => updHmk (fun h => { h with rootOk := true, rootGen := BitVec.ofNat 2 g, rootKey := Config.rootKey g }) s
     | none => hmkSelf s)
  | _, _ => hmkSelf s

/-- The identity key (R447), derived in P4. -/
def takeIdentity (s : State) : State :=
  match rowValue (shadowOf s 48), rowValue (shadowOf s 49) with
  | some a, some b =>
    let seed := rowBytes a ++ rowBytes b
    let half := fun (t : String) => (sha256 (ascii t ++ seed)).take 16
    let sk := half "GWID-SKS"
    let prf := half "GWID-SKP"
    let pks := half "GWID-PKS"
    let pk := pks ++ Config.slhKeygenRoot sk prf pks
    if sha256 pk = rowsHash s 17 then updHmk (fun h => { h with idOk := true, idPk := pk, idSk := sk ++ prf ++ pks }) s else hmkSelf s
  | _, _ => hmkSelf s

/-- A certificate of a role (R440). -/
def checkCert (role copy slot : Nat) (c : List Byte) (s : State) : VerOut × State :=
  if !(c.take 4 == ascii "GWCR" && leAt c 4 2 == 1 && leAt c 6 1 == role) then (.cert, hmkReject 3 5 copy slot s)
  else if !s.hmk.rootOk then (.cert, hmkReject 4 5 copy slot s)
  else
    let r := readRetry pgHmk 0 .good s
    if r.1.check = .uncorrectable then (.engine, hmkReject 5 5 copy slot (hmkSelf r.2))
    else if !r.2.hmk.katOk then (.engine, hmkReject 5 5 copy slot r.2)
    else
      let s := updHmk (fun h => { h with verifies := satAdd 32 h.verifies 1 }) r.2
      if Config.slhVerify s.hmk.rootKey (c.take 64) (c.drop 64) then (.ok, s) else (.cert, hmkReject 3 5 copy slot s)

/-- The format of a firmware patch (Table HMK-6). -/
def patchFormat (l : List Byte) : Bool :=
  let n := leAt l 16 4
  leAt l 4 2 == 1 && leAt l 6 1 ≤ 3 && leAt l 7 1 == 0 && 1 ≤ leAt l 8 4 && n % 16 == 0 && n ≤ 1024880 && leAt l 20 4 == n + 23696 && slice l 24 40 == zeros 40

/-- Check a patch copy (R441): its outcome and its image. -/
def checkPatch (copy : Nat) (s : State) : VerOut × List Byte × State :=
  let r := readImage (cfgAddr (16 + 16 * copy)) (ascii "GWFP") 20 1048576 s
  match r.1 with
  | none => (.store, [], r.2)
  | some l =>
    if l.isEmpty || !patchFormat l || r32 (leAt l 12 4) != Config.romId then (.format, [], r.2)
    else
      let slot := leAt l 6 1
      let n := leAt l 16 4
      match slotKey r.2 slot with
      | none => (.key, [], hmkReject 1 5 copy slot r.2)
      | some pk =>
        let cert := slice l (64 + n) 7920
        let c := checkCert 1 copy slot cert r.2
        if c.1 ≠ .ok then (c.1, [], c.2)
        else
          let v := verifySig 5 copy slot (slice cert 32 32) (l.take (n + 64)) (slice l (n + 7984) 7856) c.2
          if v.1 ≠ .ok then (v.1, [], v.2)
          else
            let o := verifySig 5 copy slot pk (l.take (l.length - 7856)) (l.drop (l.length - 7856)) v.2
            (o.1, l, o.2)

/-- Set a measurement (R444). -/
def setMeas (i : Nat) (h : List Byte) (s : State) : State := updHmk (fun k => { k with meas := vSet k.meas i h }) s

/-- A copy is to be rewritten from the one in force: it failed for a reason other than ENGINE (R434). -/
def repairable (v : VerOut) : Bool := v != .engine

/-- The patch in force is selected (R441). -/
def takePatch (s : State) : State :=
  let a := checkPatch 0 s
  let b := checkPatch 1 a.2.2
  let s := b.2.2
  let force := fun (copy : Nat) (l : List Byte) (rep : Option Nat) =>
    setMeas 1 (sha256 (l.take (l.length - 7856))) (updHmk (fun h => { h with patch := true, patchCopy := copy == 1, patchGen := r32 (leAt l 8 4), patchRepair := rep }) s)
  if a.1 = .ok ∧ b.1 = .ok then
    (if leAt b.2.1 8 4 > leAt a.2.1 8 4 then force 1 b.2.1 (some 0) else force 0 a.2.1 (if leAt b.2.1 8 4 < leAt a.2.1 8 4 then some 1 else none))
  else if a.1 = .ok then force 0 a.2.1 (if repairable b.1 then some 1 else none)
  else if b.1 = .ok then force 1 b.2.1 (if repairable a.1 then some 0 else none)
  else s

/-! ## The queue of verifications (R433) -/

/-- Insert a request behind those of its rank and above. -/
def insertReq (r : VerReq) : List VerReq → List VerReq
  | [] => [r]
  | x :: t => if r.rank < x.rank then r :: x :: t else x :: insertReq r t

/-- VERIFY_REQUEST (R433): its words are read as BACKGROUND traffic (Table ARC-3); the request runs if no verification does, and otherwise waits in rank order; a signature pauses. -/
def execVerifyRequest (rank obj copy slot : Nat) (pk msg sig : List Byte) (s : State) : Res :=
  let r : VerReq := { rank := rank, obj := obj, copy := copy, slot := slot, pk := pk, msg := msg, sig := sig }
  match s.hmk.cur with
  | none => .next (updHmk (fun h => { h with cur := some r }) (issue .hashing pgHmk pgSto ((msg.length + 15) / 16) s))
  | some _ => .next (updHmk (fun h => { h with queue := insertReq r h.queue }) (issue .hashing pgHmk pgSto ((msg.length + 15) / 16) s))

/-! ## Attestation (R449 to R451) -/

/-- KEY_STATE of one slot. -/
def slotCode (k : KeySlot) : Nat :=
  (match k.st with | .empty => 0 | .active => 1 | .revoked => 2 | .invalid => 3) + if k.key.isSome then 0x80 else 0

/-- FLAGS of a report (Table HMK-12). -/
def attFlags (s : State) : Word32 :=
  flag 0 s.ilkl.trip ||| flag 1 s.ast.runBlock ||| flag 2 (s.tch.flags.getLsbD 2) ||| flag 3 (s.tch.flags.getLsbD 3) ||| flag 4 s.tch.incomplete |||
  flag 5 (!s.hmk.patch) ||| flag 6 s.sto.ptDefault ||| flag 7 s.tch.calDefault ||| flag 8 s.jrn.provisional ||| flag 9 s.boot.trial |||
  flag 10 (s.tch.shadow.any fun e => e.2.ovr.isSome)

/-- Bytes 0 to 351 of a report (Table HMK-12). -/
def attBody (nonce : List Byte) (s : State) : List Byte :=
  let dev := rowBytes (shadowOf s 16).value
  let bootOn := match s.boot.st with | .loading => true | .serving => true | .released => true | .selecting => false | .noImage => false
  ascii "GWAR" ++ leBytes 2 1 ++ slice dev 8 1 ++ leBytes 1 (modeCode s.sys.mode) ++ leBytes 4 17440 ++ leBytes 4 (attFlags s).toNat ++
  slice dev 0 8 ++ leBytes 4 s.sys.starts.toNat ++ leBytes 4 (s.hmk.attests.toNat + 1) ++ padTo 32 nonce ++ leBytes 4 s.sys.epoch.toNat ++ zeros 4 ++
  leBytes 8 (if s.sys.epoch = 0 then 0 else s.sys.epochTime) ++ padTo 32 s.hmk.idPk ++ (s.hmk.meas.toList.map (padTo 32)).flatten ++
  (s.hmk.slots.toList.map fun k => BitVec.ofNat 8 (slotCode k)) ++ leBytes 1 (if bootOn then (if s.boot.slot then 1 else 0) else 0xFF) ++ zeros 3 ++
  leBytes 4 s.boot.record.minSvn.toNat ++ leBytes 4 (match s.boot.manifest with | some m => m.svn.toNat | none => 0) ++
  leBytes 8 s.jrn.sealedSeq ++ leBytes 4 s.jrn.headChain.toNat ++ leBytes 4 s.jrn.anchorNo.toNat ++ zeros 16

/-- The engine, where no verification runs, goes on with the oldest ATTEST in flight: it resumes a signature that has paused (R433), or begins the command and captures its fields in one cycle (R449). -/
def attBegin (s : State) : State :=
  match s.hmk.cur, s.hmk.atts with
  | some _, _ => s
  | none, [] => s
  | none, a :: rest =>
    if a.body.isSome then updHmk (fun h => { h with atts := { a with paused := false } :: rest }) s
    else match cmdOf s a.id with
      | none => s
      | some c => updHmk (fun h => { h with atts := { a with body := some (attBody c.desc.oparg s) } :: rest }) s

/-- A step of a signature runs (R433). -/
def stepRuns (h : Hmk) : Bool :=
  match h.atts with
  | [] => false
  | a :: _ => a.body.isSome && !a.paused

/-- VERIFY_DONE (R433): the verification that runs ends, `us` µs after its request, and the next one begins, or the signature that waits for the engine goes on. While a step of a signature runs, no verification does. -/
def execVerifyDone (us : Nat) (s : State) : Res :=
  match s.hmk.cur with
  | none => .next s
  | some r =>
    if stepRuns s.hmk then .next s
    else
      let v := verifySig r.obj r.copy r.slot r.pk r.msg r.sig s
      .next (attBegin (updHmk (fun h => { h with cur := h.queue.head?, queue := h.queue.tail, verifyMaxUs := max h.verifyMaxUs (min us 65535) }) v.2))

/-- Sealing has begun: no report is written any more (Table HMK-13). -/
def sealingBegun (s : State) : Bool := s.jrn.st == .sealing || s.jrn.st == .sealed

/-- Why an ATTEST is refused at once (Table HMK-13). -/
def attRefusal (s : State) (len : Nat) : Option Nat :=
  if s.sys.phase ≠ 15 then some 0x64
  else if sealingBegun s then some 0x65
  else if len < 17440 then some 0x60
  else if !s.hmk.idOk then some 0x62
  else if !s.hmk.katOk then some 0x63
  else if s.hmk.atts.length ≥ 4 then some 0x61
  else none

/-- ATTEST (R449): the command waits for the engine, which captures its fields when it begins it. -/
def execAttest (id : CmdId) (s : State) : Res :=
  match fetchedCmd s id 0x20 with
  | none => .next s
  | some c =>
    match attRefusal s c.desc.length.toNat with
    | some code => .next (finishCode id code s)
    | none => .next (attBegin (setStage id .waiting (updHmk (fun h => { h with atts := h.atts ++ [{ id := id }] }) s)))

/-- The oldest ATTEST ends. -/
def attEnd (id : CmdId) (c : Cpl) (s : State) : State :=
  evt pgHmk 2 (finishCmd id c (updHmk (fun h => { h with atts := h.atts.tail }) s))

/-- SIGNING_STEP (R433, R450): one step of the signature ends, and signing pauses there if a verification has been requested; with the last step the engine, once it is free, checks its own signature and the report is written, and the next ATTEST begins. -/
def execSigningStep (last selfOk dma : Bool) (s : State) : Res :=
  match s.hmk.atts with
  | [] => .next s
  | a :: rest =>
    match a.body with
    | none => .next (attBegin s)
    | some b =>
      if a.paused then .next s
      else if !last || s.hmk.cur.isSome then .next (updHmk (fun h => { h with atts := { a with steps := a.steps + 1, paused := h.cur.isSome } :: rest }) s)
      else
        let r := readRetry pgHmk 0 .good s
        if r.1.check = .uncorrectable ∨ !selfOk then .next (attBegin (attEnd a.id { result := 0x63 } (hmkSelf r.2)))
        else
          let s := updHmk (fun h => { h with attests := h.attests + 1 }) r.2
          if dma then .next (attBegin (attEnd a.id { result := 0, count := 17440, data := b ++ Config.slhSign s.hmk.idSk b } s))
          else .next (attBegin (attEnd a.id { result := 0x0B } (evt pgPcie 1 s)))

/-! ## Repairs after P7 -/

/-- An owner-key record with the keys found (R438). -/
def keyRecord (s : State) : List Byte :=
  ascii "GWOK" ++ leBytes 2 1 ++ zeros 26 ++ (s.hmk.slots.toList.map fun k => padTo 32 (k.key.getD [])).flatten

/-- KEYREC_REPAIR (R438): after P7 the first copy that lacks a key is rewritten. -/
def execKeyrecRepair (s : State) : Res :=
  match s.hmk.keyRepair with
  | [] => .next s
  | copy :: rest =>
    if s.sys.phase = 15 && !s.sto.parked && !s.sto.parking && itemFree (cfgAddr (12 + copy)) 160 s then
      .next (evt pgHmk 3 (updHmk (fun h => { h with keyRepair := rest }) (writeItem (cfgAddr (12 + copy)) (keyRecord s) s)))
    else .next s

/-- PATCH_REPAIR (R441): after P7 the copy that is invalid or older is rewritten from the copy in force. -/
def execPatchRepair (s : State) : Res :=
  match s.hmk.patchRepair with
  | none => .next s
  | some copy =>
    if s.sys.phase = 15 && !s.sto.parked && !s.sto.parking && itemFree (cfgAddr (16 + 16 * copy)) 1048576 s then
      let r := readImage (cfgAddr (16 + 16 * (1 - copy))) (ascii "GWFP") 20 1048576 s
      match r.1 with
      | none => .next r.2
      | some l => .next (evt pgHmk 4 (updHmk (fun h => { h with patchRepair := none }) (updSto (writeSpan 17 (cfgAddr (16 + 16 * copy)) l) r.2)))
    else .next s

/-! ## Registers -/

/-- A write of MEAS_SEL captures the selected measurement (R452). -/
def measSel (v : Word32) (s : State) : State :=
  let i := bits v 0 3
  updHmk (fun h => { h with measSel := BitVec.ofNat 3 i, measData := if i < 6 then vGet h.meas i (zeros 32) else zeros 32 }) s

/-- CTRL.CNT_CLR (Table HMK-14). -/
def hmkCntClr (s : State) : State := updHmk (fun h => { h with verifies := 0, rejects := 0, verifyMaxUs := 0 }) s

/-- STATUS.OP (Table HMK-14). -/
def hmkOp (h : Hmk) : Nat :=
  let running := match h.atts with | [] => false | a :: _ => a.body.isSome
  if h.katRun then 6 else if stepRuns h then 3 else if h.cur.isSome then (if running then 4 else 2) else 0

end Sys2Proof.Machine
end

