-- ==== Sys2Proof/Machine/Blocks.lean ====
section
/-! DEFINITION. The function blocks (Table FB-1), each in true form: what one block makes of its inputs in one scan (R111 to R155). -/

namespace Sys2Proof.Machine

/-! ## What a block sees -/

/-- What every block of a scan sees: the signals in true form, the sample pair, the time-stamped pins, the scan time and the first-scan rules. -/
structure Ctx where
  cur : BitVec 4096
  prev : BitVec 4096
  wcur : List Int
  wprev : List Int
  a : SampleVec
  b : SampleVec
  /-- Only channel A samples (R117, third rule) -/
  split : Bool
  ts : BitVec 112
  /-- Scan time S (R116) -/
  s : Nat
  first : Bool
  /-- RRI and EDM blocks start anew (R95, R123, R499) -/
  restart : Bool

/-- EDGE_OVF in either channel's sample vector (R120). -/
def Ctx.ovf (c : Ctx) : Bool := c.a.edgeOvf || c.b.edgeOvf

/-- Differences of times held in time slots are taken modulo 2^30 (R115, R119). -/
def since (t t0 : Nat) : Nat := (t % 2 ^ 30 + 2 ^ 30 - t0 % 2 ^ 30) % 2 ^ 30

/-- Milliseconds in units of 50 ns (R114). -/
def ms (n : Nat) : Nat := n * 20000

/-- A difference at or above this bound is that of a time that lies after S (R119: every window and preset is at most 30 s). -/
abbrev futureAge : Nat := 2 ^ 30 - 2 ^ 26

/-- How long before S a time lies; 0 where it lies after S. -/
def ageOf (c : Ctx) (t0 : Nat) : Nat := if since c.s t0 < futureAge then since c.s t0 else 0

/-- S ≥ t0 + w. -/
def reached (c : Ctx) (t0 w : Nat) : Bool := decide (w ≤ ageOf c t0)

/-- Expiry of a window of length w opened at t0 (R120). -/
def expired (c : Ctx) (t0 w : Nat) : Bool := reached c t0 (w + 200) && !c.ovf

/-- The age a time slot's value is held at, beyond every window and preset. -/
abbrev heldAge : Nat := 900000000

/-- The time that lies `heldAge` before S. -/
def longAgo (c : Ctx) : Nat := (c.s % 2 ^ 30 + 2 ^ 30 - heldAge) % 2 ^ 30

/-- A time as a slot keeps it (R115): modulo 2^30, its age held so that the differences of R119 stay exact however long it stands. -/
def slotTime (c : Ctx) (t : Nat) : Nat := if heldAge ≤ ageOf c t then longAgo c else t % 2 ^ 30

/-- Which samples of an input count: those of the channels that own the pin (R68, R117); a signal counts as one sample that is always valid. -/
structure Line where
  hasA : Bool
  hasB : Bool
  levelA : Bool
  validA : Bool
  levelB : Bool
  validB : Bool
  /-- The input is a time-stamped pin (R118) -/
  ts : Bool
  pin : Nat

/-- A boolean signal by the PREV rule of R65. -/
def sigBit (c : Ctx) (r : Ref) : Bool := (if r.prev then c.prev else c.cur).getLsbD r.index

/-- The samples of an input in this scan. -/
def lineOf (c : Ctx) (r : Ref) : Line :=
  match r.kind with
  | 2 => { hasA := c.a.own.getLsbD r.index, hasB := !c.split && c.b.own.getLsbD r.index,
           levelA := c.a.st.getLsbD r.index, validA := c.a.valid.getLsbD r.index,
           levelB := c.b.st.getLsbD r.index, validB := c.b.valid.getLsbD r.index,
           ts := c.ts.getLsbD r.index, pin := r.index }
  | 0 => { hasA := true, hasB := false, levelA := sigBit c r, validA := true, levelB := false, validB := false,
           ts := false, pin := 0 }
  | _ => { hasA := true, hasB := false, levelA := false, validA := true, levelB := false, validB := false,
           ts := false, pin := 0 }

/-- The samples an input shows in this scan, whether or not their edge entries have arrived; an invalid sample has no level. -/
def Line.now (l : Line) : PinMem :=
  ⟨l.hasA && l.validA && l.levelA, l.hasA && l.validA, l.hasB && l.validB && l.levelB, l.hasB && l.validB⟩

/-- Every sample of the input is valid (R69, R117). -/
def allValid (l : Line) (m : PinMem) : Bool := (l.hasA || l.hasB) && (!l.hasA || m.validA) && (!l.hasB || m.validB)

/-- The input shows level v on every sample that counts. -/
def showsAll (l : Line) (m : PinMem) (v : Bool) : Bool :=
  allValid l m && (!l.hasA || m.levelA == v) && (!l.hasB || m.levelB == v)

/-- The input is in demand, its demand level being d (R117, R124): it is not, only where every sample is valid and shows the other level. -/
def inDemand (l : Line) (m : PinMem) (d : Bool) : Bool := !showsAll l m (!d)

/-- The level of an input that has no demand level: none while a sample is invalid; TRUE only where every sample shows 1. -/
def levelOf (l : Line) (m : PinMem) : Option Bool := if allValid l m then some (showsAll l m true) else none

/-- A boolean input of a logic block, a timer, or an enable (R114, R117): the demand state of a pin is FALSE after NEG. -/
def boolIn (c : Ctx) (r : Ref) : Bool :=
  match r.kind with
  | 0 => sigBit c r != r.neg
  | 2 => let l := lineOf c r; showsAll l l.now (!r.neg)
  | _ => r.neg

/-- A word input (R114, R155). -/
def wordIn (c : Ctx) (r : Ref) : Int :=
  if r.kind = 1 then (if r.prev then c.wprev else c.wcur)[r.index]?.getD 0 else 0

/-! ## Events of a scan, in order of event time (R118, R121) -/

/-- One change of one sample of one input. -/
structure Ev where
  /-- Event time as an offset from S − 2^47, so that times just before and after S compare rightly -/
  key : Nat
  input : Nat
  chan : Chan
  level : Bool
  valid : Bool

/-- An event time as a sorting key around S (R119: differences modulo 2^48). -/
def keyOf (c : Ctx) (t : Nat) : Nat := (t + 2 ^ 48 + 2 ^ 47 - c.s % 2 ^ 48) % 2 ^ 48

/-- The event time of a key. -/
def timeOf (c : Ctx) (k : Nat) : Nat := (k + c.s + 2 ^ 48 - 2 ^ 47) % 2 ^ 48

/-- Insertion into a list of events in ascending order of event time; equal times keep their order. -/
def insEv (e : Ev) : List Ev → List Ev
  | [] => [e]
  | x :: t => if e.key < x.key then e :: x :: t else x :: insEv e t

/-- The changes of one sample of an input (R118): edge entries of a time-stamped pin carry their TIME; every other change has the event time S. -/
def sampleEvs (c : Ctx) (i : Nat) (l : Line) (ch : Chan) (oldLevel oldValid newLevel newValid : Bool) (edges : List Edge) : List Ev :=
  let atS := keyOf c c.s
  if !newValid then
    if oldValid then [⟨atS, i, ch, false, false⟩] else []
  else if !oldValid then [⟨atS, i, ch, newLevel, true⟩]
  else if l.ts then
    (edges.filter fun e => e.pin == l.pin).map fun e => ⟨keyOf c e.time, i, ch, e.level, true⟩
  else if newLevel != oldLevel then [⟨atS, i, ch, newLevel, true⟩] else []

/-- The changes of an input in this scan. -/
def lineEvs (c : Ctx) (i : Nat) (l : Line) (m : PinMem) : List Ev :=
  (if l.hasA then sampleEvs c i l .a m.levelA m.validA l.levelA l.validA c.a.edges else []) ++
  (if l.hasB then sampleEvs c i l .b m.levelB m.validB l.levelB l.validB c.b.edges else [])

/-- Apply one change. -/
def applyEv (ms : List PinMem) (e : Ev) : List PinMem :=
  match ms[e.input]? with
  | none => ms
  | some m =>
    ms.set e.input (match e.chan with
      | .a => { m with levelA := e.level, validA := e.valid }
      | .b => { m with levelB := e.level, validB := e.valid })

/-- Group the changes of equal event time (R121): each group with the judged inputs after it. -/
def groupEvs (c : Ctx) : List PinMem → List Ev → List (Nat × List PinMem)
  | _, [] => []
  | ms, e :: t =>
    let ms' := applyEv ms e
    match t with
    | [] => [(timeOf c e.key, ms')]
    | x :: _ => if x.key = e.key then groupEvs c ms' t else (timeOf c e.key, ms') :: groupEvs c ms' t

/-- The judged inputs after each event time of the scan, in ascending order. -/
def stepsOf (c : Ctx) (lines : List Line) (ms : List PinMem) : List (Nat × List PinMem) :=
  let evs := ((lines.zip ms).zipIdx.map fun x => lineEvs c x.2 x.1.1 x.1.2).flatten
  groupEvs c ms (evs.foldl (fun acc e => insEv e acc) [])

/-- The judged inputs at the end of a scan. -/
def lastOf (ms : List PinMem) (steps : List (Nat × List PinMem)) : List PinMem := (steps.getLast?.map Prod.snd).getD ms

/-- Input i of a list of lines and judged inputs. -/
def at2 (lines : List Line) (ms : List PinMem) (i : Nat) : Line × PinMem :=
  (lines.getD i ⟨false, false, false, false, false, false, false, 0⟩, ms.getD i {})

/-! ## Dual-contact pairs (R124 to R126) -/

/-- The state of a pair from the demand of its contacts (R124). -/
def pairState (d1 d2 : Bool) : PairState :=
  if d1 && d2 then .demand else if d1 || d2 then .disagree else .healthy

/-- Rules 1 to 3 of Table FB-4: the discrepancy window of length w at a change to state n at time t. -/
def pairWindow (p : Pair) (w t : Nat) (n : PairState) : Pair :=
  if p.st ≠ .disagree ∧ n = .disagree then { p with st := n, win := some t }
  else if p.st = .disagree ∧ n ≠ .disagree then
    match p.win with
    | some t0 => if since t t0 < w then { p with st := n, win := none } else { p with st := n, win := none, flt := true }
    | none => { p with st := n }
  else { p with st := n }

/-- Rules 5 and 6, where `arm` allows ARMED to be set (R140). -/
def pairDemand (p : Pair) (valid arm : Bool) : Pair :=
  if p.st = .demand then { p with armed := p.armed || arm, flt := p.flt && !valid } else p

/-- PAIR_OK, and rule 7. -/
def pairClose (p : Pair) : Pair :=
  let ok := p.st = .healthy ∧ p.armed = true ∧ p.flt = false
  if ok then { p with ok := true } else if p.ok then { p with ok := false, armed := false } else p

/-- One event of a pair. -/
def pairEvent (w t : Nat) (p : Pair) (n : PairState) (valid arm : Bool) : Pair :=
  pairClose (pairDemand (pairWindow p w t n) valid arm)

/-- The end of a scan: rule 4, which no deferred judgement is overtaken by, and rules 5 to 7 for the state the pair is in. DESIGN CHOICE (log 136): rule 5 is applied again for a pair that ends the scan in DEMAND, so a pair that left HEALTHY for DEMAND at one event time, where rule 7 cleared ARMED, ends the scan with ARMED set. -/
def pairScan (c : Ctx) (w : Nat) (p : Pair) (valid arm early : Bool) : Pair :=
  let p := match p.st, p.win with
    | .disagree, some t0 => if expired c t0 w && !early then { p with win := none, flt := true } else p
    | _, _ => p
  pairClose (pairDemand p valid arm)

/-- The first scan of a pair (R126). -/
def pairFirst (c : Ctx) (n : PairState) : Pair :=
  pairClose { st := n, armed := n ≠ .disagree, flt := false, win := if n = .disagree then some c.s else none }

/-- What the levels shown do to a pair while a change has no edge entry yet (R118): they act at once, rules 5 to 7 among them, and PAIR_OK, which the judgement to come could make TRUE, is held at FALSE. -/
def pairEarly (early : Bool) (p : Pair) (visible : PairState) (valid arm : Bool) : Pair :=
  if !early then { p with early := false }
  else
    let p := if p.ok && visible ≠ .healthy then { p with armed := false } else p
    let p := if visible = .demand then { p with armed := p.armed || arm, flt := p.flt && !valid } else p
    { p with ok := false, early := true }

/-- A pair over inputs i and i + 1 through one scan; `d2` is the demand level of the second contact, and `arm` says from the judged inputs whether ARMED may be set, `hold` whether it must be clear. -/
def runPair (c : Ctx) (w : Nat) (d2 : Bool) (lines : List Line) (p : Pair) (steps : List (Nat × List PinMem))
    (fin : List PinMem) (arm : List PinMem → Bool) (hold : List PinMem → Bool) : Pair :=
  let stOf := fun ms =>
    let x := at2 lines ms 0; let y := at2 lines ms 1
    (pairState (inDemand x.1 x.2 false) (inDemand y.1 y.2 d2), allValid x.1 x.2 && allValid y.1 y.2)
  let hold1 := fun (ms : List PinMem) (p : Pair) => if hold ms then pairClose { p with armed := false } else p
  let visible := lines.map Line.now
  if c.first then hold1 visible (pairFirst c (stOf visible).1)
  else
    let early := decide (fin.take 2 ≠ visible.take 2) || (p.early && steps.isEmpty)
    let p := steps.foldl (fun p g => hold1 g.2 (pairEvent w g.1 p (stOf g.2).1 (stOf g.2).2 (arm g.2))) p
    let p := hold1 fin (pairScan c w p (stOf fin).2 (arm fin) early)
    hold1 visible (pairEarly early p (stOf visible).1 (stOf visible).2 (arm visible))

/-- PAIR_OK as the block's outputs use it: FALSE while the levels shown are not both healthy (R118). -/
def pairOk (p : Pair) (lines : List Line) (d2 : Bool) : Bool :=
  let v := lines.map Line.now
  let x := at2 lines v 0; let y := at2 lines v 1
  p.ok && !inDemand x.1 x.2 false && !inDemand y.1 y.2 d2

/-! ## The blocks -/

/-- A value a block writes: a boolean or a word. -/
inductive Val where
  | b (v : Bool)
  | w (v : Int)

/-- Reference i of a block; NONE where it has none. -/
def refAt (k : Blk) (i : Nat) : Ref := k.refs.getD i ⟨0, false, 3, false⟩

/-- Parameter i of a block. -/
def parAt (k : Blk) (i : Nat) : Nat := k.params.getD i 0

/-- Bits [lo + w − 1 : lo] of VAR. -/
def varBits (k : Blk) (lo w : Nat) : Nat := k.var / 2 ^ lo % 2 ^ w

/-- The judged inputs a scan starts from: none in the first scan. -/
def startPins (c : Ctx) (lines : List Line) (m : BlkMem) : List PinMem :=
  if c.first || m.pins.length ≠ lines.length then lines.map Line.now else m.pins

/-- The event steps of a scan and the judged inputs at its end. -/
def scanSteps (c : Ctx) (lines : List Line) (m : BlkMem) : List (Nat × List PinMem) × List PinMem :=
  let p0 := startPins c lines m
  let steps := if c.first then [] else stepsOf c lines p0
  (steps, lastOf p0 steps)

/-- AND, OR, XOR, NOT (R152). -/
def runLogic (c : Ctx) (k : Blk) : List (Ref × Val) :=
  let n := match k.typ with
    | 1 => varBits k 0 3 + 1
    | 2 => varBits k 0 3 + 1
    | 3 => 2
    | _ => 1
  let ins := (List.range n).map fun i => boolIn c (refAt k i)
  let q := match k.typ with
    | 1 => ins.all id
    | 2 => ins.any id
    | 3 => ins.getD 0 false != ins.getD 1 false
    | _ => !ins.getD 0 false
  [(refAt k n, .b q)]

/-- RS (R153): f1 is the latch. -/
def runRs (c : Ctx) (k : Blk) (m : BlkMem) : BlkMem × List (Ref × Val) :=
  let s := boolIn c (refAt k 0); let r := boolIn c (refAt k 1)
  let held := if c.first then false else m.f1
  let q := if s && r then varBits k 0 1 == 1 else if s then true else if r then false else held
  ({ m with f1 := q }, [(refAt k 2, .b q)])

/-- EDGE (R154): f1 is IN of the previous scan. -/
def runEdge (c : Ctx) (k : Blk) (m : BlkMem) : BlkMem × List (Ref × Val) :=
  let i := boolIn c (refAt k 0)
  let rise := i && !m.f1; let fall := !i && m.f1
  let q := if c.first then false else match varBits k 0 2 with
    | 1 => rise
    | 2 => fall
    | _ => rise || fall
  ({ m with f1 := i }, [(refAt k 1, .b q)])

/-- WORD_CMP (R155). -/
def runCmp (c : Ctx) (k : Blk) : List (Ref × Val) :=
  let a := wordIn c (refAt k 0)
  let b : Int := if varBits k 3 1 = 1 then (BitVec.ofNat 16 (parAt k 0)).toInt else wordIn c (refAt k 1)
  let q := match varBits k 0 3 with
    | 0 => decide (a = b)
    | 1 => decide (a ≠ b)
    | 2 => decide (a < b)
    | 3 => decide (a ≤ b)
    | 4 => decide (b < a)
    | _ => decide (b ≤ a)
  [(refAt k 2, .b q)]

/-- PT in 50 ns units (R149). -/
def ptOf (k : Blk) : Nat := parAt k 0 * (if varBits k 0 1 = 1 then 20000 else 2000)

/-- TON (R150): f1 IN has been TRUE since t1. -/
def runTon (c : Ctx) (k : Blk) (m : BlkMem) : BlkMem × List (Ref × Val) :=
  let i := boolIn c (refAt k 0)
  let t := if c.first || !m.f1 then c.s else m.t1
  ({ m with f1 := i, t1 := t }, [(refAt k 1, .b (i && reached c t (ptOf k)))])

/-- TOF (R150): f1 is IN of the previous scan, and IN fell at t1. -/
def runTof (c : Ctx) (k : Blk) (m : BlkMem) : BlkMem × List (Ref × Val) :=
  let i := boolIn c (refAt k 0)
  let t := if i then c.s else if c.first then longAgo c else if m.f1 then c.s else m.t1
  ({ m with f1 := i, t1 := t }, [(refAt k 1, .b (i || !reached c t (ptOf k)))])

/-- ESTOP (R127, R128): p1 the pair; f5 Q of the previous scan; f1 QD; f2 its delay runs since t1. -/
def runEstop (c : Ctx) (k : Blk) (m : BlkMem) : BlkMem × List (Ref × Val) :=
  let lines := [lineOf c (refAt k 0), lineOf c (refAt k 1)]
  let d2 := varBits k 0 1 == 1
  let st := scanSteps c lines m
  let p := runPair c (ms (parAt k 0)) d2 lines m.p1 st.1 st.2 (fun _ => true) (fun _ => false)
  let q := pairOk p lines d2
  let m0 : BlkMem := if c.first then {} else m
  let run := m0.f2 || (m0.p1.ok && !q)
  let t := if m0.f2 then m0.t1 else c.s
  let ends := run && reached c t (ms (parAt k 1))
  let qd := if varBits k 1 1 = 0 then q else if ends then false else if !run && q then true else m0.f1
  ({ m0 with pins := st.2, p1 := p, f1 := qd, f2 := run && !ends, t1 := t },
   [(refAt k 2, .b q), (refAt k 3, .b qd), (refAt k 4, .b p.flt)])

/-- LCURT muting state through the events of a scan: M1 and M2 as judged active, their activation times, whether that of M2 is the earlier one, the blocked flag, and when the start condition was completed. -/
structure Mute where
  m1 : Bool
  m2 : Bool
  ta : Nat
  tb : Nat
  bFirst : Bool
  blocked : Bool
  start : Option Nat

/-- One event of the muting sensors M1 and M2 (R131). -/
def muteEvent (tsync t : Nat) (pairOkNow men : Bool) (n1 n2 : Bool) (x : Mute) : Mute :=
  let r1 := n1 && !x.m1; let r2 := n2 && !x.m2
  let ta := if r1 then t else x.ta
  let tb := if r2 then t else x.tb
  let bFirst := if r1 && r2 then false else if r1 then n2 else if r2 then !n1 else if n1 && n2 then x.bFirst else n2
  let y := { x with m1 := n1, m2 := n2, ta := ta, tb := tb, bFirst := bFirst }
  if n1 && n2 && (r1 || r2) then
    let first := if r1 && r2 then t else if r1 then tb else ta
    if since t first < tsync then
      if pairOkNow && men && !x.blocked then { y with start := some t } else y
    else { y with blocked := true }
  else y

/-- LCURT (R129 to R132): p1 the pair; f1 MUTED since t1; f2 blocked; f5 M2 is the sensor activated first; t2 the earlier activation of those that last, t3 the later. -/
def runLcurt (c : Ctx) (k : Blk) (m : BlkMem) : BlkMem × List (Ref × Val) :=
  let lines := [0, 1, 3, 4, 5, 6].map fun i => lineOf c (refAt k i)
  let mode := varBits k 0 2
  let men := boolIn c (refAt k 2)
  let w := ms (parAt k 0); let tsync := ms (parAt k 1); let tmute := ms (parAt k 2)
  let act := fun (v : List PinMem) (i : Nat) => let x := at2 lines v i; showsAll x.1 x.2 true
  let st := scanSteps c lines m
  let pairSt := fun (v : List PinMem) =>
    let x := at2 lines v 0; let y := at2 lines v 1
    (pairState (inDemand x.1 x.2 false) (inDemand y.1 y.2 false), allValid x.1 x.2 && allValid y.1 y.2)
  let p := runPair c w false lines m.p1 st.1 st.2 (fun _ => true) (fun _ => false)
  let v := lines.map Line.now
  let anyActive := (List.range 4).any fun i => act v (i + 2)
  let m0 : BlkMem := if c.first then { f2 := true, t2 := c.s, t3 := c.s } else m
  let p0 := startPins c lines m
  -- the events of the scan, with PAIR_OK as judged at each event time
  let x := st.1.foldl (fun (x : Pair × Mute) g =>
      let q := pairEvent w g.1 x.1 (pairSt g.2).1 (pairSt g.2).2 true
      (q, muteEvent tsync g.1 q.ok men (act g.2 2) (act g.2 3) x.2))
    (m.p1, { m1 := act p0 2, m2 := act p0 3, ta := if m0.f5 then m0.t3 else m0.t2, tb := if m0.f5 then m0.t2 else m0.t3,
             bFirst := m0.f5, blocked := m0.f2, start := none })
  let started := mode ≠ 0 ∧ x.2.start.isSome ∧ m0.f1 = false ∧ c.first = false
  let t := if started then x.2.start.getD c.s else m0.t1
  let on := m0.f1 || started
  let active := ((List.range 4).filter fun i => act v (i + 2)).length
  let timeout := reached c t tmute
  let sensorsGone := if mode = 2 then decide (active < 2) else !(act v 2 && act v 3)
  let muted := on && men && !sensorsGone && !timeout
  let blocked := (x.2.blocked || (on && (!men || timeout))) && anyActive
  let ossdValid := (pairSt v).2
  let q := !p.flt && ossdValid && (pairOk p lines false || (muted && p.armed))
  let b := x.2.bFirst
  ({ m0 with pins := st.2, p1 := p, f1 := muted, f2 := blocked, f5 := b, t1 := t,
             t2 := if !x.2.m1 && !x.2.m2 then c.s else if b then x.2.tb else x.2.ta, t3 := slotTime c (if b then x.2.ta else x.2.tb) },
   [(refAt k 7, .b q), (refAt k 8, .b p.flt), (refAt k 9, .b muted)])

/-- GUARD (R133 to R135): p1 the pair; f1 the lock request; f2 the lock part of FLT; f3 the lock window is open since t1. DESIGN CHOICE (log 137): the window runs on where the request clears before LOCKED confirms. -/
def runGuard (c : Ctx) (k : Blk) (m : BlkMem) : BlkMem × List (Ref × Val) :=
  let lines := [0, 1, 2].map fun i => lineOf c (refAt k i)
  let d2 := varBits k 0 1 == 1
  let st := scanSteps c lines m
  let p := runPair c (ms (parAt k 0)) d2 lines m.p1 st.1 st.2 (fun _ => true) (fun _ => false)
  let ok := pairOk p lines d2
  let m0 : BlkMem := if c.first then {} else m
  if varBits k 1 1 = 0 then
    ({ m0 with pins := st.2, p1 := p }, [(refAt k 5, .b ok), (refAt k 6, .b p.flt)])
  else
    let ureq := boolIn c (refAt k 3); let still := boolIn c (refAt k 4)
    let w := ms (parAt k 1)
    let lockedOf := fun (v : List PinMem) => let x := at2 lines v 2; showsAll x.1 x.2 true
    let v := lines.map Line.now
    let locked := lockedOf v
    -- LOCKED becoming 1 inside an open window closes it
    let closes := (st.1.foldl (fun (x : Bool × Bool) g =>
      (lockedOf g.2, x.2 || (!x.1 && lockedOf g.2 && decide (since g.1 m0.t1 < w)))) (lockedOf (startPins c lines m), false)).2
    let open1 := m0.f3 && !closes
    let req := if c.first then false else if ureq && still then false else if ok && !ureq then true else m0.f1
    let rises := req && !m0.f1
    let t := if rises then c.s else m0.t1
    let isOpen := rises || open1
    let exp := isOpen && expired c t w
    let lf := (m0.f2 || (exp && !locked)) && !(locked && req)
    let q := ok && req && locked
    ({ m0 with pins := st.2, p1 := p, f1 := req, f2 := lf, f3 := isOpen && !exp, t1 := t },
     [(refAt k 5, .b q), (refAt k 6, .b (p.flt || lf)), (refAt k 7, .b req), (refAt k 8, .b (!req))])

/-- The state of a two-hand button from its contacts (Table FB-11): RELEASED stands as DEMAND, ACTUATED as HEALTHY, BETWEEN as DISAGREE. -/
def buttonState (nc no : Option Bool) : PairState :=
  match nc, no with
  | some true, some false => .demand
  | some false, some true => .healthy
  | _, _ => .disagree

/-- The contact level of a two-hand button: none where its samples are invalid or differ (R117, R137). -/
def contact (l : Line) (m : PinMem) : Option Bool :=
  if showsAll l m true then some true else if showsAll l m false then some false else none

/-- TWOH through one event time: the buttons, ARMED (f1), Q (f2), and the synchronism window (f4, t1) of R138. -/
def twohEvent (w tsync t : Nat) (n1 n2 : PairState) (m : BlkMem) : BlkMem :=
  let a1 := n1 == .healthy && m.p1.st != .healthy
  let a2 := n2 == .healthy && m.p2.st != .healthy
  let p1 := pairWindow m.p1 w t n1
  let p2 := pairWindow m.p2 w t n2
  let flt := p1.flt || p2.flt
  let m := { m with p1 := p1, p2 := p2 }
  -- the attempt ends when a button that was actuated in it is actuated no longer
  let lost := m.f4 && ((m.p1.act && n1 != .healthy) || (m.p2.act && n2 != .healthy))
  let m := if lost then { m with f1 := false, f2 := false, f4 := false, p1 := { m.p1 with act := false }, p2 := { m.p2 with act := false } } else m
  let m := if n1 == .demand && n2 == .demand then { m with f1 := true, f2 := false, f4 := false } else m
  if m.f1 && !m.f4 && (a1 || a2) then
    let m := { m with f4 := true, t1 := t, p1 := { m.p1 with act := a1 }, p2 := { m.p2 with act := a2 } }
    if a1 && a2 && !flt then { m with f2 := true } else m
  else if m.f4 && (a1 || a2) then
    let m := { m with p1 := { m.p1 with act := a1 || m.p1.act }, p2 := { m.p2 with act := a2 || m.p2.act } }
    if m.f1 && n1 == .healthy && n2 == .healthy then
      if since t m.t1 < tsync then (if flt then m else { m with f2 := true }) else { m with f1 := false }
    else m
  else m

/-- TWOH (R136 to R138). -/
def runTwoh (c : Ctx) (k : Blk) (m : BlkMem) : BlkMem × List (Ref × Val) :=
  let lines := [0, 1, 2, 3].map fun i => lineOf c (refAt k i)
  let w := ms (parAt k 0); let tsync := ms (parAt k 1)
  let btn := fun (v : List PinMem) (i : Nat) =>
    let x := at2 lines v (2 * i); let y := at2 lines v (2 * i + 1)
    buttonState (contact x.1 x.2) (contact y.1 y.2)
  let v := lines.map Line.now
  let st := scanSteps c lines m
  let m1 : BlkMem :=
    if c.first then
      let op := fun s => if s = PairState.disagree then some c.s else none
      { p1 := { st := btn v 0, win := op (btn v 0) }, p2 := { st := btn v 1, win := op (btn v 1) } }
    else
      let m := st.1.foldl (fun m g => twohEvent w tsync g.1 (btn g.2 0) (btn g.2 1) m) m
      -- expiry of the discrepancy windows
      let ex := fun (p : Pair) => match p.st, p.win with
        | .disagree, some t0 => if expired c t0 w then { p with win := none, flt := true } else p
        | _, _ => p
      let m := { m with p1 := ex m.p1, p2 := ex m.p2 }
      -- the levels shown in this scan, whether or not their entries have arrived
      let gone := m.f4 && ((m.p1.act && btn v 0 != .healthy) || (m.p2.act && btn v 1 != .healthy))
      let m := if gone then { m with f1 := false, f2 := false, f4 := false, p1 := { m.p1 with act := false }, p2 := { m.p2 with act := false } } else m
      let m := if m.f4 && !m.f2 && expired c m.t1 tsync then { m with f1 := false } else m
      if btn v 0 == .demand && btn v 1 == .demand then
        { m with f1 := true, f2 := false, f4 := false, p1 := { m.p1 with flt := false, act := false }, p2 := { m.p2 with flt := false, act := false } }
      else m
  let q := m1.f2 && btn v 0 == .healthy && btn v 1 == .healthy
  ({ m1 with pins := st.2 }, [(refAt k 4, .b q), (refAt k 5, .b (m1.p1.flt || m1.p2.flt))])

/-- ENAB (R139, R140). -/
def runEnab (c : Ctx) (k : Blk) (m : BlkMem) : BlkMem × List (Ref × Val) :=
  let lines := [0, 1, 2].map fun i => lineOf c (refAt k i)
  let has3 := varBits k 0 1 == 1
  let p3free := fun (v : List PinMem) => let x := at2 lines v 2; !has3 || showsAll x.1 x.2 false
  let st := scanSteps c lines m
  let p := runPair c (ms (parAt k 0)) false lines m.p1 st.1 st.2 p3free (fun v => !p3free v)
  let q := pairOk p lines false && boolIn c (refAt k 3)
  let m0 : BlkMem := if c.first then {} else m
  ({ m0 with pins := st.2, p1 := p }, [(refAt k 4, .b q), (refAt k 5, .b p.flt)])

/-- One event of RRI's push-button (R142): f2 a press has run since t1; f3 blocked; f5 a valid reset was seen in this scan; f4 the level before the event. -/
def rriEvent (tmin tmax t : Nat) (req : Bool) (old new : Option Bool) (m : BlkMem) : BlkMem :=
  match old, new with
  | some false, some true => if m.f3 || !req then m else { m with f2 := true, t1 := t }
  | some true, some false =>
    if m.f3 then { m with f3 := false, f2 := false }
    else if m.f2 then
      let len := since t m.t1
      { m with f2 := false, f5 := m.f5 || (req && decide (tmin ≤ len) && decide (len < tmax)) }
    else m
  | _, none => { m with f2 := false }
  | none, some false => { m with f3 := false }
  | _, _ => m

/-- RRI (R141 to R143): f1 Q; f2 press since t1; f3 blocked. A press that REQ voids before its entry has arrived leaves the block blocked until its release, which never resets (R118, R142). -/
def runRri (c : Ctx) (k : Blk) (m : BlkMem) : BlkMem × List (Ref × Val) :=
  let lines := [lineOf c (refAt k 0)]
  let req := boolIn c (refAt k 1)
  let tmin := ms (parAt k 0); let tmax := ms (parAt k 1)
  let c1 := { c with first := c.first || c.restart }
  let st := scanSteps c1 lines m
  let lv := fun (v : List PinMem) => let x := at2 lines v 0; levelOf x.1 x.2
  let v := lines.map Line.now
  let m1 : BlkMem :=
    if c1.first then { f3 := lv v == some true }
    else
      let r := st.1.foldl (fun (x : Option Bool × BlkMem) g => (lv g.2, rriEvent tmin tmax g.1 req x.1 (lv g.2) x.2))
        (lv (startPins c1 lines m), { m with f5 := false })
      let m := r.2
      let m := if m.f2 && expired c m.t1 tmax then { m with f2 := false, f3 := true } else m
      let m := if m.f2 && (!req || lv v == none) then { m with f2 := false } else m
      let m := if !req && lv v == some true && lv st.2 != some true then { m with f3 := true } else m
      let q := req && (m.f1 || m.f5)
      { m with f1 := q }
  ({ m1 with pins := st.2 }, [(refAt k 2, .b m1.f1), (refAt k 3, .b (req && !m1.f1))])

/-- One event of EDM's feedback (R145): f1 FLT; f2 CMD; f3 window open since t1. -/
def edmEvent (w t : Nat) (old new : Option Bool) (m : BlkMem) : BlkMem :=
  let expected := !m.f2
  match new with
  | none => m
  | some x =>
    if m.f3 then (if x == expected && decide (since t m.t1 < w) then { m with f3 := false } else m)
    else if x != expected && old != new then { m with f1 := true }
    else m

/-- EDM (R144 to R146): f1 FLT; f2 CMD of the previous scan; f3 the switching window is open since t1; f4 ACK of the previous scan. -/
def runEdm (c : Ctx) (k : Blk) (m : BlkMem) : BlkMem × List (Ref × Val) :=
  let lines := [lineOf c (refAt k 1)]
  let w := ms (parAt k 0)
  let ack := boolIn c (refAt k 2)
  let c1 := { c with first := c.first || c.restart }
  let cmd := !c1.first && boolIn c (refAt k 0)
  let lv := fun (v : List PinMem) => let x := at2 lines v 0; levelOf x.1 x.2
  let st := scanSteps c1 lines m
  let v := lines.map Line.now
  let m1 : BlkMem :=
    if c1.first then
      { f2 := false, f3 := lv v != some true, f4 := ack, t1 := c.s }
    else
      let before := st.1.filter fun g => decide (keyOf c g.1 < keyOf c c.s)
      let atS := st.1.filter fun g => keyOf c g.1 == keyOf c c.s
      let after := st.1.filter fun g => decide (keyOf c c.s < keyOf c g.1)
      let run := fun (x : Option Bool × BlkMem) (g : Nat × List PinMem) => (lv g.2, edmEvent w g.1 x.1 (lv g.2) x.2)
      let x := before.foldl run (lv (startPins c1 lines m), m)
      -- a change of CMD, together with the changes of FB of the same time (R121), opens a window at S, which closes at once where FB is then as expected
      let x := if cmd != x.2.f2 then
          let fb := match atS.getLast? with | some g => lv g.2 | none => x.1
          (fb, { x.2 with f2 := cmd, t1 := c.s, f3 := fb != some (!cmd) })
        else atS.foldl run x
      let x := after.foldl run x
      let m := x.2
      let m := if m.f3 && expired c m.t1 w then { m with f1 := true, f3 := false } else m
      let clear := ack && !m.f4 && !cmd && lv v == some true && x.1 == some true
      { m with f1 := m.f1 && !clear, f4 := ack }
  let fb := lv v; let judged := lv st.2
  let ok := !m1.f1 && fb.isSome && judged.isSome && (cmd || (fb == some true && judged == some true))
  ({ m1 with pins := st.2 }, [(refAt k 3, .b ok), (refAt k 4, .b m1.f1)])

/-- How many of the first n position contacts are closed with a valid sample, the lowest of them, and whether every sample is valid (R148). -/
def positions (n : Nat) (lines : List Line) (v : List PinMem) : Nat × Nat × Bool :=
  let closed := (List.range n).filter fun i => let x := at2 lines v i; showsAll x.1 x.2 true
  (closed.length, closed.headD 0, (List.range n).all fun i => let x := at2 lines v i; allValid x.1 x.2)

/-- One event of MODESEL: f1 FLT; f3 the transition window is open since t1; f4 exactly one position was closed. -/
def modeselEvent (w t : Nat) (x : Nat × Nat × Bool) (m : BlkMem) : BlkMem :=
  let one := x.1 = 1 ∧ x.2.2 = true
  let m := if 2 ≤ x.1 then { m with f1 := true } else m
  let m := if m.f4 ∧ ¬ one then { m with f3 := true, t1 := t } else m
  let m := if one ∧ m.f3 ∧ since t m.t1 < w then { m with f3 := false } else m
  { m with f4 := decide one }

/-- MODESEL (R147, R148). -/
def runModesel (c : Ctx) (k : Blk) (m : BlkMem) : BlkMem × List (Ref × Val) :=
  let lines := [0, 1, 2, 3].map fun i => lineOf c (refAt k i)
  let n := varBits k 0 2 + 1
  let w := ms (parAt k 0)
  let st := scanSteps c lines m
  let v := lines.map Line.now
  let x := positions n lines v
  let one := x.1 = 1 ∧ x.2.2 = true
  let m1 : BlkMem :=
    if c.first then
      { f1 := decide (2 ≤ x.1), f3 := decide (¬ one) && decide (x.1 < 2), f4 := decide one, t1 := c.s }
    else
      let y := positions n lines (startPins c lines m)
      let m := st.1.foldl (fun m g => modeselEvent w g.1 (positions n lines g.2) m) { m with f4 := decide (y.1 = 1 ∧ y.2.2 = true) }
      let m := if 2 ≤ x.1 then { m with f1 := true } else m
      if m.f3 && expired c m.t1 w then { m with f1 := true, f3 := false } else m
  -- an early level holds the outputs at "no mode selected" (R118)
  let settled := decide (st.2 = v)
  let sel := one ∧ m1.f1 = false ∧ settled = true
  let m2 := if one ∧ settled = true then { m1 with f1 := false } else m1
  ({ m2 with pins := st.2 },
   ((List.range 4).map fun i => (refAt k (4 + i), Val.b (decide sel && x.2.1 == i))) ++
   [(refAt k 8, .w (if sel then Int.ofNat x.2.1 else -1)), (refAt k 9, .b m2.f1)])

/-- One block in one scan: its new internal state and what it writes to its outputs. -/
def runBlk (c : Ctx) (k : Blk) (m : BlkMem) : BlkMem × List (Ref × Val) :=
  match k.typ with
  | 0x05 => runRs c k m
  | 0x06 => runEdge c k m
  | 0x07 => (m, runCmp c k)
  | 0x08 => runTon c k m
  | 0x09 => runTof c k m
  | 0x10 => runEstop c k m
  | 0x11 => runLcurt c k m
  | 0x12 => runGuard c k m
  | 0x13 => runTwoh c k m
  | 0x14 => runEnab c k m
  | 0x15 => runRri c k m
  | 0x16 => runEdm c k m
  | 0x17 => runModesel c k m
  | _ => (m, runLogic c k)

/-! ## State signals (R115)

The rule calls the meaning of a state signal internal to its block. DESIGN CHOICE (log 138): which flag stands in which state boolean and which time in which slot, that a slot with no time to hold shows S, and that the judged samples of an input stand beside the state signals. -/

/-- How many state booleans and time slots a block type has (Table FB-1). -/
def stateCounts (typ : Nat) : Nat × Nat :=
  match typ with
  | 0x05 => (1, 0)
  | 0x06 => (1, 0)
  | 0x08 => (1, 1)
  | 0x09 => (1, 1)
  | 0x10 => (4, 2)
  | 0x11 => (6, 3)
  | 0x12 => (5, 2)
  | 0x13 => (7, 3)
  | 0x14 => (4, 1)
  | 0x15 => (3, 1)
  | 0x16 => (4, 1)
  | 0x17 => (2, 1)
  | _ => (0, 0)

/-- The flags a block keeps in its state booleans. -/
def stateFlags (typ : Nat) (m : BlkMem) : List Bool :=
  match typ with
  | 0x10 => [m.p1.armed, m.p1.flt, m.f1, m.f2]
  | 0x11 => [m.p1.armed, m.p1.flt, m.f1, m.f2, m.f5, m.p1.ok]
  | 0x12 => [m.p1.armed, m.p1.flt, m.f1, m.f2, m.f3]
  | 0x13 => [m.p1.flt, m.p2.flt, m.f1, m.f2, m.f4, m.p1.act, m.p2.act]
  | 0x14 => [m.p1.armed, m.p1.flt, m.p1.ok, m.p1.win.isSome]
  | 0x15 => [m.f1, m.f2, m.f3]
  | 0x16 => [m.f1, m.f2, m.f3, m.f4]
  | 0x17 => [m.f1, m.f3]
  | _ => [m.f1]

/-- The times a block keeps in its time slots; S where a slot has none. -/
def stateTimes (c : Ctx) (typ : Nat) (m : BlkMem) : List Nat :=
  let w := fun (p : Pair) => p.win.getD c.s
  let t := fun (on : Bool) => if on then m.t1 else c.s
  match typ with
  | 0x08 => [t m.f1]
  | 0x09 => [t (!m.f1)]
  | 0x10 => [w m.p1, t m.f2]
  | 0x11 => [w m.p1, t m.f1, m.t2]
  | 0x12 => [w m.p1, t m.f3]
  | 0x13 => [w m.p1, w m.p2, t m.f4]
  | 0x14 => [w m.p1]
  | 0x15 => [t m.f2]
  | 0x16 => [t m.f3]
  | 0x17 => [t m.f3]
  | _ => []

/-- The state signals of a block and their values: state booleans from SB, and from WB two words a slot, bits [29:15] and [14:0] of its time. -/
def stateWrites (c : Ctx) (k : Blk) (m : BlkMem) : List (Ref × Val) :=
  let n := stateCounts k.typ
  ((stateFlags k.typ m).take n.1).zipIdx.map (fun x => (⟨k.sb + x.2, false, 0, false⟩, Val.b x.1)) ++
  ((((stateTimes c k.typ m).map (slotTime c)).take n.2).zipIdx.map fun x =>
    [(⟨k.wb + 2 * x.2, false, 1, false⟩, Val.w (Int.ofNat (x.1 / 2 ^ 15 % 2 ^ 15))),
     (⟨k.wb + 2 * x.2 + 1, false, 1, false⟩, Val.w (Int.ofNat (x.1 % 2 ^ 15)))]).flatten

/-- A pair with the flags and the window its state signals hold; its state is that of the samples judged. -/
def loadPair (armed flt : Bool) (slot : Nat) (p : Pair) : Pair :=
  { p with armed := armed, flt := flt, ok := p.st == .healthy && armed && !flt && !p.early,
           win := if p.st = .disagree ∧ flt = false then some slot else none }

/-- The state of a block as its state signals hold it at the start of a scan. -/
def loadState (c : Ctx) (k : Blk) (m : BlkMem) : BlkMem :=
  let b := fun (i : Nat) => c.cur.getLsbD (k.sb + i)
  let w := fun (i : Nat) => (lGet c.wcur (k.wb + i) 0 % 2 ^ 15).toNat
  let t := fun (i : Nat) => w (2 * i) * 2 ^ 15 + w (2 * i + 1)
  match k.typ with
  | 0x05 => { m with f1 := b 0 }
  | 0x06 => { m with f1 := b 0 }
  | 0x08 => { m with f1 := b 0, t1 := t 0 }
  | 0x09 => { m with f1 := b 0, t1 := t 0 }
  | 0x10 => { m with p1 := loadPair (b 0) (b 1) (t 0) m.p1, f1 := b 2, f2 := b 3, t1 := t 1 }
  | 0x11 => { m with p1 := { loadPair (b 0) (b 1) (t 0) m.p1 with ok := b 5 }, f1 := b 2, f2 := b 3, f5 := b 4, t1 := t 1, t2 := t 2 }
  | 0x12 => { m with p1 := loadPair (b 0) (b 1) (t 0) m.p1, f1 := b 2, f2 := b 3, f3 := b 4, t1 := t 1 }
  | 0x13 =>
    { m with p1 := { loadPair false (b 0) (t 0) m.p1 with act := b 5 }, p2 := { loadPair false (b 1) (t 1) m.p2 with act := b 6 },
             f1 := b 2, f2 := b 3, f4 := b 4, t1 := t 2 }
  | 0x14 => { m with p1 := { loadPair (b 0) (b 1) (t 0) m.p1 with ok := b 2, win := if b 3 then some (t 0) else none } }
  | 0x15 => { m with f1 := b 0, f2 := b 1, f3 := b 2, t1 := t 0 }
  | 0x16 => { m with f1 := b 0, f2 := b 1, f3 := b 2, f4 := b 3, t1 := t 0 }
  | 0x17 => { m with f1 := b 0, f3 := b 1, t1 := t 0 }
  | _ => m

/-- Cycle cost of a block (Table FB-1). -/
def blkCost (k : Blk) : Nat :=
  match k.typ with
  | 0x01 => 26 + 2 * (varBits k 0 3 - 1)
  | 0x02 => 26 + 2 * (varBits k 0 3 - 1)
  | 0x03 => 26
  | 0x04 => 26
  | 0x05 => 30
  | 0x06 => 28
  | 0x07 => 34
  | 0x08 => 48
  | 0x09 => 48
  | 0x10 => 96
  | 0x11 => match varBits k 0 2 with
    | 0 => 112
    | 1 => 160
    | _ => 196
  | 0x12 => if varBits k 1 1 = 1 then 140 else 96
  | 0x13 => 128
  | 0x14 => 104
  | 0x15 => 64
  | 0x16 => 72
  | 0x17 => 80
  | _ => 0

end Sys2Proof.Machine
end

