-- ==== Sys2Proof/Machine/Mode.lean ====
section
/-! DEFINITION. The modes: requests, their conditions and the cycle in which they take effect (R493 to R499). -/

namespace Sys2Proof.Machine

/-- DHD.STATUS.LOCKSTEP (R163, R170, R183). -/
def lockstepReport (s : State) : Bool :=
  if s.dhd.split then !s.dhd.stopped && !s.dhd.halted && !s.dhd.frozen else s.dhd.lockstep && !s.dhd.frozen && !s.dhd.cmpFail

/-- A feed is ACTIVE. -/
def feedActive (s : State) : Bool := s.pwr.feedA == .active || s.pwr.feedB == .active

/-- The SYNC that follows P7 (Table ILK-15) may begin. -/
def syncDue (s : State) : Bool := s.ilkl.syncAfterP7 && s.sys.phase == 15

/-- A running loader command ends with a result (R103); a SYNC that has waited for it begins. -/
def loaderEnd (code : Nat) (s : State) : State :=
  evt pgIlkl (if code = 0 then 0 else 1)
    { s with ilkl := { s.ilkl with run := if syncDue s then some { op := 3 } else none, syncAfterP7 := s.ilkl.syncAfterP7 && !syncDue s, result := code } }

/-- Checks 2 to 9 of Table RST-3: the code of the first that fails. -/
def runConditions (s : State) : Option Nat :=
  if !tableIn s then some 0x04
  else if s.ast.runBlock then some 0x05
  else if !lockstepReport s || s.dhd.cmpFail || s.tab.cmpFail || logicFenced s then some 0x06
  else if fatalPend s then some 0x08
  else if s.ilkl.trip then some 0x09
  else if s.jrn.st != .running then some 0x0A
  else if !feedActive s then some 0x0B
  else if s.jrn.k < 262144 then some 0x07
  else none

/-- R496: the code of the first check of Table RST-3 that fails. -/
def runCheck (s : State) : Option Nat := if s.sys.mode != .safe then some 0x03 else runConditions s

/-- The code a mode request is refused with, none where it is accepted (R495, R496, Table RST-2, Table RST-7). -/
def modeRefusal (m : Nat) (s : State) : Option Nat :=
  if s.pwr.pfRun then some 0x0C
  else if s.sys.phase != 15 then some 0x0F
  else if m = 0 ∨ m > 3 then some 0x0D
  else if s.sys.modePend.isSome then some 0x02
  else if m = 2 then runCheck s
  else if m = 1 then (if s.sys.mode == .run || s.sys.mode == .service then none else some 0x03)
  else (if s.sys.mode == .safe || s.sys.mode == .incomplete then none else some 0x03)

/-- A write of SYS.MODE_REQ that the key sequence admits (R495). -/
def modeReqWrite (v : Word32) (s : State) : State :=
  let m := bits v 0 4
  let s := { s with sys := { s.sys with modeReq := BitVec.ofNat 4 m } }
  match modeRefusal m s with
  | some c => evt pgSys 3 { s with sys := { s.sys with modeResult := BitVec.ofNat 8 c } }
  | none => { s with sys := { s.sys with modeResult := 1, modePend := some (if m = 1 then .safe else if m = 2 then .run else .service) } }

/-- Scans run while a table is installed in a mode that scans (R82). -/
def scansRun (s : State) : Bool := modeScans s.sys.mode && tableIn s

/-- An evaluator leaves SCANNING (Table ILK-16). -/
def ilkHalt (k : Ilk) : Ilk := if k.st = .scanning then { k with st := .halted, phase := 7, mem := [] } else k

/-- Causes detected between scans whose scan does not run belong to the last committed epoch (R92): its number replaces the one they were latched with, and their TRIP record is raised now. -/
def settleCauses (s : State) : State :=
  if s.ilkl.scanning || s.ilkl.causes.isEmpty then s
  else
    let e := s.sys.epoch
    let was := nextEpoch e
    let fix := fun (x : Word32) => if x = was then e else x
    let l := s.ilkl.causes
    let s := { s with ilkl := { s.ilkl with causes := [], prevCauses := causeMask l, tripEpoch := fix s.ilkl.tripEpoch },
                      ilkA := { s.ilkA with tripEpoch := fix s.ilkA.tripEpoch }, ilkB := { s.ilkB with tripEpoch := fix s.ilkB.tripEpoch } }
    interlockRecord (now s) e 0x01 (tripPayload l s.ilkA.digest) s

/-- Scanning halts: a CLEAR_TRIP or TEST_TRIP that waits for a scan ends with MODE, for the new mode does not allow it (log 24). -/
def scanHalt (s : State) : State :=
  let s := settleCauses s
  let w := s.ilkl.clearPend || s.ilkl.testPend
  let s := { s with ilkA := ilkHalt s.ilkA, ilkB := ilkHalt s.ilkB, ilkl := { s.ilkl with clearPend := false, clearBroken := false, testPend := false } }
  if w then loaderEnd 0x0B s else s

/-- The mode changes as asked: MODE_CHG and MODE_DONE (R495). -/
def modeDone (m : Mode) (s : State) : State :=
  evt pgSys 2 (evt pgSys 0 (setMode m { s with sys := { s.sys with modePend := none, modeResult := 0 } }))

/-- The module enters INCOMPLETE: the source INCOMPLETE is raised (Table FCR-2). -/
def enterIncomplete (s : State) : State := report0 0x05A pgTch s

/-- A pending request takes effect (R495): a RUN request is judged again; a SAFE request in SERVICE repeats the manifest check (Table RST-2); RUN starts the RRI and EDM blocks anew (R499). -/
def takeRequest (s : State) : State :=
  match s.sys.modePend with
  | none => s
  | some .run =>
    (match runCheck s with
     | some c => evt pgSys 3 { s with sys := { s.sys with modePend := none, modeResult := BitVec.ofNat 8 c } }
     | none => modeDone .run { s with ilkl := { s.ilkl with restart := true } })
  | some .service => scanHalt (modeDone .service s)
  | some .safe =>
    if s.sys.mode = .service then
      let r := manifestCheck s
      if r.2.tch.flags.getLsbD 1 && !r.1 then enterIncomplete (modeDone .incomplete r.2) else modeDone .safe r.2
    else modeDone .safe s
  | some m => modeDone m s

/-- What takes effect at a scan start, or at once while no scan runs: the exit from INCOMPLETE first, then a request (R495, R82). -/
def takeModes (s : State) : State := takeRequest (if s.sys.exitPend then incompleteExitNow s else s)

/-- MODE_TAKE_EFFECT (R495): while no scan runs. While scans run, the next scan start does it. -/
def execModeTakeEffect (s : State) : Res := if scansRun s then .next s else .next (takeModes s)

end Sys2Proof.Machine
end

