-- ==== Sys2Proof/Machine/Claims.lean ====
section
/-! DEFINITION. The claims of the Timetable: ownership of pins, compare channels, timers and capture slices, the loader's claim check (R239 to R244, R539) and the host's claims. -/

namespace Sys2Proof.Machine

/-! ## Pin configurations (Tables FT-9 and FT-16) -/

/-- MODE of a PINCFG: 0 disabled, 1 input, 2 output, 3 test source. -/
def cfgMode (v : Word32) : Nat := bits v 0 3
/-- FILT of a PINCFG, in 100 µs units. -/
def cfgFilt (v : Word32) : Nat := bits v 8 8
/-- TERM of a PINCFG: 0 none, 1 A, 2 B, 3 single-wired. -/
def cfgTerm (v : Word32) : Nat := bits v 26 2
/-- TS of a PINCFG. -/
def cfgTs (v : Word32) : Bool := bitOf v 25
/-- PEXEMPT of a PINCFG. -/
def cfgPexempt (v : Word32) : Bool := bitOf v 24
/-- INDUCTIVE of a PINCFG. -/
def cfgInductive (v : Word32) : Bool := bitOf v 23
/-- EN of an OUTCFG. -/
def outEn (v : Word32) : Bool := bitOf v 0
/-- INDUCTIVE of an OUTCFG. -/
def outInductive (v : Word32) : Bool := bitOf v 1
/-- PEXEMPT of an OUTCFG. -/
def outPexempt (v : Word32) : Bool := bitOf v 2
/-- LIGHT_OK of an OUTCFG. -/
def outLightOk (v : Word32) : Bool := bitOf v 3
/-- TS of an OUTCFG. -/
def outTs (v : Word32) : Bool := bitOf v 4

/-- A PINCFG value that R201 allows. -/
def pincfgOk (v : Word32) : Bool :=
  let m := cfgMode v
  decide (m < 4) && !(m == 1 && bits v 4 2 == 0) && (m == 1 || (bits v 4 2 == 0 && cfgFilt v == 0 && !cfgTs v)) &&
    (m == 2 || !cfgInductive v) && (cfgInductive v || !cfgPexempt v)

/-- An OUTCFG value that R218 allows. -/
def outcfgOk (v : Word32) : Bool := (outInductive v || !outPexempt v) && (outEn v || v == 0)

/-- Configuration slots of a tile: pins 0 to 15, or outputs 0 to 7 (R198). -/
def cfgSlots (p : Nat) : Nat := if p < 6 then 16 else 8

/-- A configuration register of a tile takes a value. After a change the CRCs are compared again from the end of the second full round that begins after it, and the pin is invalid until then (R198). -/
def setLinkCfg (p n : Nat) (v : Word32) (s : State) : State :=
  { s with links := vUpd s.links p (fun l =>
      if vGet l.cfg n 0 = v then l
      else { l with cfg := vSet l.cfg n v, cfgWait := (cfgSlots p - l.slot) % cfgSlots p + 2 * cfgSlots p, cfgChanged := setBit l.cfgChanged n true, cfgSet := true }) }

/-- The tile position of a pin index (R67). -/
def pinTile (p : Nat) : Nat := if p < 96 then p / 16 else 6 + (p - 96) / 8

/-- The pin index of pin `n` of a tile position. -/
def tilePin (t n : Nat) : Nat := if t < 6 then 16 * t + n else 96 + 8 * (t - 6) + n

/-- The fitted variant has the pin. -/
def pinPresent (v : Variant) (p : Nat) : Bool := decide (p < 112) && tilePresent v (pinTile p)

/-- Entry `p` of a pin map. -/
def pinCfg (pins : List Word32) (p : Nat) : Word32 := lGet pins p 0

/-! ## Ownership (R239, R241) -/

/-- What a claim of a kind and an index claims: a CAPTURE claim takes its pin's tile (Table TBL-4). -/
def claimKey (kind index : Nat) : Nat := if kind = 4 then kind * 256 + pinTile index else kind * 256 + index

/-- The CLAIMS entry that holds a resource. -/
def claimEntry (l : List Claim) (kind index : Nat) : Option Nat := l.findIdx? fun c => c.kind == kind && claimKey c.kind c.index == claimKey kind index

/-- The owner of a resource. -/
def ownerOf (s : State) (kind index : Nat) : Owner :=
  if kind = 2 ∧ index = 0 then .system
  else if s.tbl.hostOwned.contains (claimKey kind index) then .host
  else if (claimEntry (s.tbl.claims.getD []) kind index).isSome then .table
  else .free

/-- OWNER codes of Table TBL-7. -/
def ownerCode : Owner → Nat
  | .free => 0 | .table => 1 | .host => 2 | .system => 3

/-- HOST_ACCESS of a table-owned compare channel or timer (R241). -/
def hostAccess (s : State) (kind index : Nat) : Bool :=
  match claimEntry (s.tbl.claims.getD []) kind index with
  | some e => match (s.tbl.claims.getD [])[e]? with
    | some c => (kind == 2 || kind == 3) && c.use % 2 == 1
    | none => false
  | none => false

/-- The host may write a compare channel or timer (R242). -/
def hostMayWrite (s : State) (kind index : Nat) : Bool :=
  match ownerOf s kind index with
  | .host => true
  | .table => hostAccess s kind index
  | .free => false
  | .system => false

/-- The fitted variant has the resource (Table TBL-4). -/
def resourceExists (v : Variant) (kind index : Nat) : Bool :=
  match kind with
  | 1 => pinPresent v index
  | 2 => decide (index < 32)
  | 3 => decide (index < 8)
  | 4 => decide (index < 96) && pinPresent v index
  | 5 => pinPresent v index
  | _ => false

/-! ## The loader's claim check (R539) -/

/-- A failure of a claim operation: its code, the entry recorded, and the resource. -/
structure ClaimFail where
  code : Nat
  entry : Nat
  kind : Nat
  index : Nat
  deriving DecidableEq, Repr

/-- The TPERIOD values of Table TBL-1. -/
def periodOk (n : Nat) : Bool := [1, 2, 4, 5, 8, 10, 20, 25, 40, 50, 100, 125, 200, 250, 500].contains n

/-- A PIN claim whose USE matches the pin's configuration (R241). -/
def useMatches (pins : List Word32) (c : Claim) : Bool :=
  let v := pinCfg pins c.index
  if c.index < 96 then decide (1 ≤ c.use) && decide (c.use ≤ 3) && c.use == cfgMode v else c.use == 4 && outEn v

/-- The rules of R231 for a fed input. -/
def fedOk (pins : List Word32) (l : List Claim) (c : Claim) : Bool :=
  let k := (l.filter fun x => x.kind == 1 && x.use == 1 && x.source == c.source).length
  match l.find? fun x => x.kind == 5 && x.use == 2 && x.index == c.source with
  | some g =>
    c.kind == 1 && c.use == 1 && decide (c.source < 96) && decide (c.index < 96) && pinTile c.source == pinTile c.index &&
      cfgMode (pinCfg pins c.source) == 3 && decide (36 + k ≤ g.width) && decide (g.width + 20 < cfgFilt (pinCfg pins c.index) * 20)
  | none => false

/-- The parameters of a TEST entry (Table TBL-1), the pins it applies to, and R238. -/
def testOk (pins : List Word32) (c : Claim) : Bool :=
  let v := pinCfg pins c.index
  decide (1 ≤ c.use) && decide (c.use ≤ 6) && periodOk c.tperiod && decide (c.foff < c.tperiod) && decide (c.soff ≤ 199) &&
    decide (40 ≤ c.width) && decide (c.width ≤ 196) &&
    (if c.use = 1 then decide (c.index < 96) && cfgMode v == 2 && !cfgInductive v
     else if c.use = 2 then decide (c.index < 96) && cfgMode v == 3
     else decide (96 ≤ c.index) && outEn v && !outPexempt v)

/-- The rules of an entry that TEST_RULE reports (R539, pass 1, last point; fields Table TBL-5 fixes are judged with it, log 12). -/
def entryOk (pins : List Word32) (l : List Claim) (c : Claim) : Bool :=
  c.reservedZero && (c.source == 0xFF || fedOk pins l c) &&
    (match c.kind with
     | 5 => testOk pins c
     | 1 => c.tperiod == 0 && c.foff == 0 && c.soff == 0 && c.width == 0
     | 4 => c.tperiod == 0 && c.foff == 0 && c.soff == 0 && c.width == 0 && c.use == 0
     | _ => c.tperiod == 0 && c.foff == 0 && c.soff == 0 && c.width == 0 && decide (c.use ≤ 1))

/-- The code of pass 1 for one entry, with the keys of the entries before it. -/
def entryFail (s : State) (pins : List Word32) (l : List Claim) (seen : List Nat) (c : Claim) : Option Nat :=
  if c.kind = 0 ∨ c.kind > 5 then some 0x0E
  else if c.kind = 2 ∧ c.index = 0 then some 0x03
  else if !resourceExists s.variant c.kind c.index then some 0x04
  else if c.kind != 5 && seen.contains (claimKey c.kind c.index) then some 0x02
  else if s.tbl.hostOwned.contains (claimKey c.kind c.index) then some 0x01
  else if c.kind == 1 && !useMatches pins c then some 0x05
  else if !entryOk pins l c then some 0x08
  else none

/-- Pass 1 (R539). -/
def pass1 (s : State) (pins : List Word32) (l : List Claim) : Nat → List Nat → List Claim → Option ClaimFail
  | _, _, [] => none
  | i, seen, c :: t =>
    match entryFail s pins l seen c with
    | some code => some { code := code, entry := i, kind := c.kind % 8, index := c.index % 128 }
    | none => pass1 s pins l (i + 1) (claimKey c.kind c.index :: seen) t

/-- A pin that needs a PIN claim: MODE not 0, or EN (R241). -/
def pinConfigured (pins : List Word32) (p : Nat) : Bool :=
  if p < 96 then cfgMode (pinCfg pins p) != 0 else outEn (pinCfg pins p)

/-- Pass 2: a configured pin without a PIN claim. -/
def pass2 (pins : List Word32) (l : List Claim) : Option ClaimFail :=
  ((List.range 112).find? fun p => pinConfigured pins p && !(l.any fun c => c.kind == 1 && c.index == p)).map
    fun p => { code := 0x06, entry := 0xFFFE, kind := 1, index := p }

/-- An EDM block covers an output driven from a signal (R238, R146). -/
def edmCovers (pins : List Word32) (blocks : List Blk) (drive : Option Nat) : Bool :=
  match drive with
  | none => false
  | some g => blocks.any fun k =>
    k.typ == 0x16 && (refAt k 0).kind == 0 && (refAt k 0).index == g && (refAt k 1).kind == 2 && decide ((refAt k 1).index < 96) &&
      cfgMode (pinCfg pins (refAt k 1).index) == 1

/-- A TEST claim of an output with a USE. -/
def hasTest (l : List Claim) (p use : Nat) : Bool := l.any fun c => c.kind == 5 && c.index == p && c.use == use

/-- Pass 3 for one output: the code and, for COVERAGE, the TEST resource. -/
def outputFail (t : Table) (p : Nat) : Option ClaimFail :=
  let v := pinCfg t.pins p
  let sot := decide (96 ≤ p) && outEn v
  let pex := if p < 96 then cfgPexempt v else outEn v && outPexempt v
  if sot && outInductive v && !outPexempt v then some { code := 0x08, entry := 0xFFFE, kind := 1, index := p }
  else if pex then
    (if edmCovers t.pins t.blocks ((t.out.drive[p]?).getD none) then none
     else some { code := 0x09, entry := (t.claims.findIdx? fun c => c.kind == 1 && c.index == p).getD 0xFFFE, kind := 1, index := p })
  else if sot && !(hasTest t.claims p 3 && hasTest t.claims p 4 && (!outLightOk v || (hasTest t.claims p 5 && hasTest t.claims p 6))) then
    some { code := 0x0A, entry := 0xFFFE, kind := 5, index := p }
  else none

/-- Pass 3. -/
def pass3 (t : Table) : Option ClaimFail := (List.range 112).findSome? fun p => outputFail t p

/-- How many of a block's references are inputs (its outputs follow them). -/
def inputCount (k : Blk) : Nat :=
  match k.typ with
  | 0x01 => varBits k 0 3 + 1
  | 0x02 => varBits k 0 3 + 1
  | 0x03 => 2 | 0x04 => 1 | 0x05 => 2 | 0x06 => 1 | 0x07 => 2 | 0x08 => 1 | 0x09 => 1
  | 0x10 => 2 | 0x11 => 7 | 0x12 => 5 | 0x13 => 4 | 0x14 => 4 | 0x15 => 2 | 0x16 => 3 | 0x17 => 4
  | _ => 0

/-- The input references of a block, in order. -/
def inputRefs (k : Blk) : List Ref := (List.range (inputCount k)).map (refAt k)

/-- The connected output references of a block, in order. -/
def outputRefs (k : Blk) : List Ref := (k.refs.drop (inputCount k)).filter fun r => r.kind != 3

/-- Pass 4: a reference to the read-back pin of a safety output that carries DARK tests. -/
def pass4 (t : Table) : Option ClaimFail :=
  t.blocks.findSome? fun k => (inputRefs k).findSome? fun r =>
    if r.kind = 2 ∧ 96 ≤ r.index ∧ (hasTest t.claims r.index 3 || hasTest t.claims r.index 4) then
      some { code := 0x08, entry := 0xFFFE, kind := 1, index := r.index }
    else none

/-- Two occurrences of the test cycle overlap in occupancy (R224): starts `a` and `b` in periods of the cycle, widths with the 20 periods after. -/
def occOverlap (a wa b wb : Nat) : Bool := decide ((b + 200000 - a) % 200000 < wa) || decide ((a + 200000 - b) % 200000 < wb)

/-- Two TEST entries overlap somewhere in the cycle. -/
def testsOverlap (x y : Claim) : Bool :=
  (List.range (1000 / max x.tperiod 1)).any fun m =>
    let a := (x.foff + m * x.tperiod) * 200 + x.soff
    (List.range (1000 / max y.tperiod 1)).any fun n =>
      occOverlap a (x.width + 20) ((y.foff + n * y.tperiod) * 200 + y.soff) (y.width + 20)

/-- Two TEST entries break R225. -/
def schedClash (x y : Claim) : Bool :=
  (x.index == y.index && x.use == y.use) || ((pinTile x.index == pinTile y.index || (x.use == 2 && y.use == 2)) && testsOverlap x y)

/-- Pass 5: pairs of TEST entries by the later entry's number, then the earlier's. -/
def pass5 (l : List (Claim × Nat)) : List (Claim × Nat) → Option ClaimFail
  | [] => none
  | y :: t =>
    if l.any fun x => schedClash x.1 y.1 then some { code := 0x07, entry := y.2, kind := 5, index := y.1.index }
    else pass5 (l ++ [y]) t

/-- Check 9 of Table ILK-13a: the first failure (R539). -/
def claimCheck (t : Table) (s : State) : Option ClaimFail :=
  (pass1 s t.pins t.claims 0 [] t.claims).orElse fun _ => (pass2 t.pins t.claims).orElse fun _ => (pass3 t).orElse fun _ => (pass4 t).orElse fun _ =>
    pass5 [] (t.claims.zipIdx.filter fun c => c.1.kind == 5)

/-- A failed claim operation is recorded (R244). -/
def claimFailed (f : ClaimFail) (s : State) : State :=
  evt pgTbl 5 { s with tbl := { s.tbl with conflict := some (f.entry, f.code, f.kind, f.index, ownerCode (ownerOf s f.kind f.index)) } }

/-! ## Host claims (R243, R244) -/

/-- A loader command runs that makes the claim check: VERIFY, INSTALL or RELOAD (Table ILK-13). -/
def claimCheckRun (s : State) : Bool := match s.ilkl.run with | some r => r.op == 1 || r.op == 2 || r.op == 7 | none => false

/-- The claim check of the loader command that runs is under way in this cycle (R244). DESIGN CHOICE (log 71): the spec does not say in which of the command's cycles, so it is a free bit. -/
def checkRunsNow (s : State) : Bool := claimCheckRun s && (Config.freeValue s.free).getLsbD 0

/-- The code of an HCLAIM: its operation, kind and index; `busy` says that the loader's claim check runs in this cycle. -/
def hclaimCode (op kind index : Nat) (busy : Bool) (s : State) : Nat :=
  if busy && claimCheckRun s then 0x0D
  else if !(s.sys.mode == .safe || s.sys.mode == .service || s.sys.mode == .split) then 0x0B
  else if op = 0 ∨ op = 3 ∨ kind = 0 ∨ kind > 5 then 0x0E
  else if kind = 1 ∨ kind = 5 then 0x03
  else if op = 1 ∧ kind = 2 ∧ index = 0 then 0x03
  else if !resourceExists s.variant kind index then 0x04
  else if op = 1 then (if ownerOf s kind index = .free then 0 else 0x01)
  else if ownerOf s kind index = .host then 0 else 0x0C

/-- A write of TBL.HCLAIM that the key sequence admits (R243, R244). -/
def hclaimWrite (v : Word32) (busy : Bool) (s : State) : State :=
  let op := bits v 30 2
  let kind := bits v 8 3
  let index := bits v 0 7
  let code := hclaimCode op kind index busy s
  let s := { s with tbl := { s.tbl with hclaim := v, hclaimDone := true, hclaimResult := code } }
  let s := evt pgTbl 6 s
  if code ≠ 0 then claimFailed { code := code, entry := 0xFFFF, kind := kind, index := index } s
  else
    let k := claimKey kind index
    let owned := if op = 1 then s.tbl.hostOwned ++ [k] else s.tbl.hostOwned.filter fun x => x != k
    let capt := if kind ≠ 4 then s.tbl.hostCapt else if op = 1 then smSet s.tbl.hostCapt (pinTile index) index else smErase s.tbl.hostCapt (pinTile index)
    { s with tbl := { s.tbl with hostOwned := owned, hostCapt := capt } }

end Sys2Proof.Machine
end

