-- ==== Sys2Proof/Machine/TableImage.lean ====
section
/-! DEFINITION. The interlocking table image: how its bytes are read (R86, R100, R112, R113, R240, R285, R537) and the checks of Table ILK-13a that judge the table alone. -/

namespace Sys2Proof.Machine

/-! ## Block descriptors (R112 to R115) -/

/-- What a reference of a block must be (R114 and the block tables of chapter 3): an input of a logic block, which may be negated; another boolean input; a word input; a pin; a reference that must be NONE; a boolean output; a word output. -/
inductive SlotKind where
  | logicIn | boolIn | wordIn | pinIn | mustNone | boolOut | wordOut
  deriving DecidableEq, Repr

/-- `n` references of a kind. -/
def slots (n : Nat) (k : SlotKind) : List SlotKind := List.replicate n k

/-- The references of a block of a type and VAR, in order; none for an unknown type. -/
def refSpec (typ var : Nat) : Option (List SlotKind) :=
  match typ with
  | 0x01 => some (slots (var % 8 + 1) .logicIn ++ [.boolOut])
  | 0x02 => some (slots (var % 8 + 1) .logicIn ++ [.boolOut])
  | 0x03 => some [.logicIn, .logicIn, .boolOut]
  | 0x04 => some [.logicIn, .boolOut]
  | 0x05 => some [.logicIn, .logicIn, .boolOut]
  | 0x06 => some [.logicIn, .boolOut]
  | 0x07 => some [.wordIn, if var / 8 % 2 = 1 then .mustNone else .wordIn, .boolOut]
  | 0x08 => some [.logicIn, .boolOut]
  | 0x09 => some [.logicIn, .boolOut]
  | 0x10 => some (slots 2 .pinIn ++ slots 3 .boolOut)
  | 0x11 =>
    let used := if var = 0 then 0 else if var = 1 then 2 else 4
    some (slots 2 .pinIn ++ [.boolIn] ++ slots used .pinIn ++ slots (4 - used) .mustNone ++ slots 3 .boolOut)
  | 0x12 =>
    if var / 2 % 2 = 1 then some (slots 3 .pinIn ++ slots 2 .boolIn ++ slots 4 .boolOut)
    else some (slots 2 .pinIn ++ slots 3 .mustNone ++ slots 2 .boolOut ++ slots 2 .mustNone)
  | 0x13 => some (slots 4 .pinIn ++ slots 2 .boolOut)
  | 0x14 => some (slots 2 .pinIn ++ [if var % 2 = 1 then .pinIn else .mustNone, .boolIn] ++ slots 2 .boolOut)
  | 0x15 => some [.pinIn, .boolIn, .boolOut, .boolOut]
  | 0x16 => some [.boolIn, .pinIn, .boolIn, .boolOut, .boolOut]
  | 0x17 => some (slots (var % 4 + 1) .pinIn ++ slots (3 - var % 4) .mustNone ++ slots 4 .boolOut ++ [.wordOut, .boolOut])
  | _ => none

/-- The ranges of the parameters of a block, in order. -/
def paramSpec (typ var : Nat) : List (Nat × Nat) :=
  match typ with
  | 0x07 => [(0, 65535)]
  | 0x08 => [(0, if var % 2 = 1 then 30000 else 65535)]
  | 0x09 => [(0, if var % 2 = 1 then 30000 else 65535)]
  | 0x10 => [(1, 30000), (0, 30000)]
  | 0x11 => [(1, 500), (10, 4000), (100, 30000)]
  | 0x12 => [(1, 30000), (10, 10000)]
  | 0x13 => [(1, 500), (50, 500)]
  | 0x14 => [(1, 30000)]
  | 0x15 => [(20, 1000), (100, 30000)]
  | 0x16 => [(10, 1000)]
  | 0x17 => [(50, 2000)]
  | _ => []

/-- A VAR code that Table FB-1 allows. -/
def varOk (typ var : Nat) : Bool :=
  match typ with
  | 0x01 => decide (1 ≤ var) && decide (var ≤ 7)
  | 0x02 => decide (1 ≤ var) && decide (var ≤ 7)
  | 0x05 => decide (var ≤ 1)
  | 0x06 => decide (1 ≤ var) && decide (var ≤ 3)
  | 0x07 => decide (var ≤ 15) && decide (var % 8 ≤ 5)
  | 0x08 => decide (var ≤ 1)
  | 0x09 => decide (var ≤ 1)
  | 0x10 => decide (var ≤ 3)
  | 0x11 => decide (var ≤ 2)
  | 0x12 => decide (var ≤ 3)
  | 0x14 => decide (var ≤ 1)
  | 0x17 => decide (1 ≤ var) && decide (var ≤ 3)
  | _ => var == 0

/-- Descriptor words of a block (Table FB-1). -/
def descWords (typ var : Nat) : Nat :=
  match typ with
  | 0x01 => if var ≤ 3 then 1 else 2
  | 0x02 => if var ≤ 3 then 1 else 2
  | _ => if typ ≥ 0x10 then 2 else 1

/-- The reference a 16-bit field spells (Table FB-3). -/
def refOfField (n : Nat) : Ref := { index := n % 4096, prev := n / 4096 % 2 == 1, kind := n / 8192 % 4, neg := n / 32768 % 2 == 1 }

/-- A reference in a place of its block (R114): NONE has INDEX 0 (Table FB-3); an output has neither PREV nor NEG, and NEG is allowed only on the inputs of logic blocks. -/
def refOk (k : SlotKind) (r : Ref) : Bool :=
  if r.kind = 3 then
    r.index == 0 &&
      (match k with
       | .logicIn => true
       | .boolIn => !r.neg | .wordIn => !r.neg | .pinIn => !r.neg | .mustNone => !r.neg
       | .boolOut => !r.prev && !r.neg | .wordOut => !r.prev && !r.neg)
  else match k with
    | .logicIn => r.kind == 0 || (r.kind == 2 && decide (r.index < 112))
    | .boolIn => !r.neg && (r.kind == 0 || (r.kind == 2 && decide (r.index < 112)))
    | .wordIn => !r.neg && r.kind == 1 && decide (r.index < 256)
    | .pinIn => !r.neg && r.kind == 2 && decide (r.index < 112)
    | .mustNone => false
    | .boolOut => r.kind == 0 && !r.prev && !r.neg
    | .wordOut => r.kind == 1 && !r.prev && !r.neg && decide (r.index < 256)

/-- The parameters lie within their ranges; TMAX exceeds TMIN (Table FB-14); KB is not −32,768 (R155). -/
def paramsOk (typ : Nat) (spec : List (Nat × Nat)) (ps : List Nat) : Bool :=
  (spec.zip ps).all (fun x => decide (x.1.1 ≤ x.2) && decide (x.2 ≤ x.1.2)) &&
    (typ != 0x15 || decide (lGet ps 0 0 < lGet ps 1 0)) && (typ != 0x07 || lGet ps 0 0 != 0x8000)

/-- SB and WB: 0 where the block has none, otherwise its allocation lies among the signals (R112, R115). -/
def stateOk (typ sb wb : Nat) : Bool :=
  let n := stateCounts typ
  (if n.1 = 0 then sb == 0 else decide (sb + n.1 ≤ 4096)) && (if n.2 = 0 then wb == 0 else decide (wb + 2 * n.2 ≤ 256))

/-- The descriptor at the head of a byte list: the block and what follows it; none where R112 to R114 are broken. -/
def parseBlk (l : List Byte) : Option (Blk × List Byte) :=
  let h := leAt l 0 6
  let typ := h % 256
  let len := h / 2 ^ 8 % 4
  let var := h / 2 ^ 10 % 64
  let sb := h / 2 ^ 16 % 4096
  let wb := h / 2 ^ 28 % 256
  match refSpec typ var with
  | none => none
  | some spec =>
    let ps := paramSpec typ var
    let words := len + 1
    let n := leAt l 6 (16 * words - 6)
    let refs := (List.range spec.length).map fun i => refOfField (n / 2 ^ (16 * i) % 65536)
    let params := (List.range ps.length).map fun i => n / 2 ^ (16 * (spec.length + i)) % 65536
    if words = descWords typ var ∧ 16 * words ≤ l.length ∧ varOk typ var ∧ h / 2 ^ 36 = 0 ∧ n / 2 ^ (16 * (spec.length + ps.length)) = 0 ∧
        (spec.zip refs).all (fun x => refOk x.1 x.2) ∧ paramsOk typ ps params ∧ stateOk typ sb wb then
      some ({ typ := typ, var := var, sb := sb, wb := wb, words := words, refs := refs, params := params }, l.drop (16 * words))
    else none

/-- `n` descriptors that fill the BLOCKS section. -/
def parseBlks : Nat → List Byte → Option (List Blk)
  | 0, l => if l.isEmpty then some [] else none
  | n + 1, l =>
    match parseBlk l with
    | none => none
    | some x => (parseBlks n x.2).map (x.1 :: ·)

/-! ## Signals written, read and significant -/

/-- A set of signals: booleans and words. -/
structure SigSet where
  b : BitVec 4096 := 0
  w : BitVec 256 := 0
  deriving DecidableEq, Repr

/-- The signal of a reference is in a set. -/
def sigHas (x : SigSet) (r : Ref) : Bool := if r.kind = 0 then x.b.getLsbD r.index else if r.kind = 1 then x.w.getLsbD r.index else false

/-- Add the signal of a reference. -/
def sigAdd (x : SigSet) (r : Ref) : SigSet :=
  if r.kind = 0 then { x with b := setBit x.b r.index true } else if r.kind = 1 then { x with w := setBit x.w r.index true } else x

/-- Boolean signal `i`. -/
def boolRef (i : Nat) : Ref := ⟨i, false, 0, false⟩
/-- Word signal `i`. -/
def wordRef (i : Nat) : Ref := ⟨i, false, 1, false⟩

/-- The state signals of a block (R115). -/
def stateRefs (k : Blk) : List Ref :=
  let n := stateCounts k.typ
  ((List.range n.1).map fun i => boolRef (k.sb + i)) ++ ((List.range (2 * n.2)).map fun i => wordRef (k.wb + i))

/-- What a block writes: its connected outputs and its state signals. -/
def writesOf (k : Blk) : List Ref := outputRefs k ++ stateRefs k

/-- Add signals that nothing in the set has written yet; none where one has (R114). -/
def addWrites (x : SigSet) : List Ref → Option SigSet
  | [] => some x
  | r :: t => if sigHas x r then none else addWrites (sigAdd x r) t

/-- The signals blocks write, none where one is written twice; `x` holds the constants, which no block writes (R64, R537). -/
def blockWrites (x : SigSet) : List Blk → Option SigSet
  | [] => some x
  | k :: t => match addWrites x (writesOf k) with
    | none => none
    | some y => blockWrites y t

/-- Signals 0 and 1 (R64). -/
def fixedSigs : SigSet := { b := 3 }

/-- The reference of a constant entry. -/
def constRef (c : Const) : Ref := if c.kind = 0 then boolRef c.index else wordRef c.index

/-- The CONSTANTS section holds what R537 allows. -/
def constOk (c : Const) : Bool :=
  (c.kind == 0 && decide (2 ≤ c.index) && decide (c.index < 4096) && decide (c.value.toNat ≤ 1)) || (c.kind == 1 && decide (c.index < 256) && c.value != 0x8000)

/-- Every current-scan read follows the block that writes its signal, in one order (R65): `done` has the signals written so far, `all` those any block writes. -/
def orderOk (all : SigSet) : SigSet → List Blk → Bool
  | _, [] => true
  | done, k :: t =>
    (inputRefs k).all (fun r => r.kind == 2 || r.kind == 3 || r.prev || sigHas done r || !sigHas all r) && orderOk all ((writesOf k).foldl sigAdd done) t

/-- Every block index stands exactly once in the alternative order (R65). -/
def isPerm (n : Nat) (l : List Nat) : Bool := l.length == n && l.all (· < n) && ((l.foldl (fun (m : BitVec 1024) i => setBit m i true) 0) == BitVec.ofNat 1024 (2 ^ n - 1))

/-- The reference of a journal-map entry. -/
def jmapRef (e : JEntry) : Ref := if e.kind = 0 then boolRef e.index else wordRef e.index

/-- The significant signals of R87 and R64: those blocks write or read, those the output map drives outputs from, those the journal map records, and signals 0 and 1. -/
def significant (t : Table) : SigSet :=
  let x := t.blocks.foldl (fun x k => (inputRefs k ++ writesOf k).foldl sigAdd x) fixedSigs
  let x := t.out.drive.foldl (fun x o => match o with | some i => sigAdd x (boolRef i) | none => x) x
  t.jmap.foldl (fun x e => sigAdd x (jmapRef e)) x

/-- The bits of a word signal for every word signal of a set, as words 32 to 63 of the mask. -/
def wordMask (w : BitVec 256) : BitVec 4096 :=
  (List.range 256).foldl (fun m i => if w.getLsbD i then m ||| ((0xFFFF : BitVec 4096) <<< (16 * i)) else m) 0

/-- The significance mask of R87: words 0 to 63 from the signals, bits [106:0] of word 64 always, bits [127:107] never. -/
def maskOf (x : SigSet) : BitVec 8320 :=
  x.b.setWidth 8320 ||| ((wordMask x.w).setWidth 8320 <<< 4096) ||| (BitVec.ofNat 8320 (2 ^ 107 - 1) <<< 8192)

/-! ## Sections -/

/-- A directory entry (Table ILK-13). -/
structure Section where
  id : Nat
  off : Nat
  len : Nat
  crc : Word32
  deriving DecidableEq, Repr

/-- The directory of an image. -/
def directory (l : List Byte) : List Section :=
  (List.range (leAt l 6 2)).map fun i => let o := 64 + 16 * i; { id := leAt l o 4, off := leAt l (o + 4) 4, len := leAt l (o + 8) 4, crc := wordAt l (o + 12) }

/-- The bytes of a section; empty where the image has none. -/
def sectionOf (l : List Byte) (d : List Section) (id : Nat) : List Byte :=
  match d.find? fun x => x.id == id with
  | some x => slice l x.off x.len
  | none => []

/-- Check 1 of Table ILK-13a on an image whose MAGIC and LENGTH hold. -/
def headerOk (l : List Byte) : Bool :=
  let n := leAt l 28 4
  let d := directory l
  leAt l 4 2 == 1 && decide (1 ≤ leAt l 6 2) && decide (leAt l 6 2 ≤ 16) && decide (25 ≤ leAt l 12 2) && decide (leAt l 12 2 ≤ 2000) &&
    decide (leAt l 16 1 ≤ 1) && decide (leAt l 17 1 ≤ 3) && decide (leAt l 22 1 ≤ 16) && leAt l 23 1 == 0 && leAt l 48 16 == 0 &&
    decide (64 + 16 * leAt l 6 2 + 7856 ≤ n) &&
    d.all (fun x => decide (1 ≤ x.id) && decide (x.id ≤ 8) && x.off % 16 == 0 && decide (x.off + x.len + 7856 ≤ n)) &&
    (List.range 8).all (fun i => let k := (d.filter fun x => x.id == i + 1).length; if i < 6 then k == 1 else decide (k ≤ 1))

/-- A list of `k`-byte entries that fills a section. -/
def entries {α : Type} (k : Nat) (f : List Byte → α) (l : List Byte) : List α := (List.range (l.length / k)).map fun i => f (slice l (k * i) k)

/-- A claim entry (Table TBL-5). -/
def parseClaim (l : List Byte) : Claim :=
  { kind := leAt l 0 1, index := leAt l 1 1, use := leAt l 2 1, source := leAt l 3 1, tperiod := leAt l 4 2, foff := leAt l 6 2, soff := leAt l 8 1,
    width := leAt l 9 1, reservedZero := leAt l 10 6 == 0 }

/-- A journal map entry (Table JRN-3). -/
def parseJmap (l : List Byte) : JEntry := { group := leAt l 0 1, kind := leAt l 1 1, index := leAt l 2 2, trigger := leAt l 4 1, cls := leAt l 5 1 }

/-- A journal map entry within the ranges of Table JRN-3. -/
def jmapEntryOk (l : List Byte) : Bool :=
  let e := parseJmap l
  decide (e.group ≤ 13) && ((e.kind == 0 && decide (e.index < 4096) && decide (e.trigger ≤ 3)) ||
    (e.kind == 1 && decide (e.index < 256) && (e.trigger == 0 || e.trigger == 3))) && decide (0x10 ≤ e.cls) && decide (e.cls ≤ 0x7F) && leAt l 6 2 == 0

/-- The entries of one group of a journal map. -/
def groupOf (m : List JEntry) (g : Nat) : List JEntry := m.filter fun e => e.group == g

/-- Payload bytes of a group (R286). -/
def groupLen (m : List JEntry) : Nat := ((m.filter fun e => e.kind == 0).length + 7) / 8 + 2 * (m.filter fun e => e.kind == 1).length

/-- The journal map as R285 allows it: payloads of at most 64 bytes, one CLASS in a group, no state signal. -/
def jmapOk (m : List JEntry) (blocks : List Blk) : Bool :=
  let st := blocks.foldl (fun x k => (stateRefs k).foldl sigAdd x) {}
  (List.range 14).all (fun g => let l := groupOf m g; decide (groupLen l ≤ 64) && l.all fun e => l.head?.all fun f => f.cls == e.cls) && m.all fun e => !sigHas st (jmapRef e)

/-- A constant entry (Table ILK-7a) and its reserved bytes. -/
def parseConst (l : List Byte) : Const := { kind := leAt l 0 1, index := leAt l 2 2, value := BitVec.ofNat 16 (leAt l 4 2) }

/-- A pin map entry R200 and R201 allow. -/
def pinEntryOk (i : Nat) (v : Word32) : Bool := if i < 96 then pincfgOk v && (v &&& 0xF07F00C8) == 0 else outcfgOk v && (v &&& 0xFFFFFFE0) == 0

/-- Bytes cut or filled to whole 128-bit words. -/
def padWord (l : List Byte) : List Byte := l ++ zeros ((16 - l.length % 16) % 16)

/-- Check 4 of Table ILK-13a: the section CRCs and the formats of every section; the table it spells. -/
def parseTable (l : List Byte) : Option Table :=
  let d := directory l
  let sec := sectionOf l d
  let pins := entries 4 (fun b => wordAt b 0) (sec 1)
  let claims := entries 16 parseClaim (sec 6)
  let jmap := entries 8 parseJmap (sec 7)
  let consts := entries 8 parseConst (sec 8)
  match parseBlks (leAt l 14 2) (sec 2) with
  | none => none
  | some blocks =>
    if d.all (fun x => crc32c (slice l x.off x.len) == x.crc) ∧ (sec 1).length = 448 ∧ (pins.zipIdx.all fun x => pinEntryOk x.2 x.1) ∧
        (sec 4).length = 1040 ∧ (sec 6).length % 16 = 0 ∧ (sec 7).length % 8 = 0 ∧ (sec 8).length % 8 = 0 ∧
        (entries 8 jmapEntryOk (sec 7)).all id ∧ jmapOk jmap blocks ∧ consts.all constOk ∧
        (entries 8 (fun b => leAt b 1 1 + leAt b 6 2 == 0) (sec 8)).all id ∧
        ((addWrites fixedSigs (consts.map constRef)).bind fun x => blockWrites x blocks).isSome then
      some { gen := leAt l 8 4, scanUs := leAt l 12 2, minVariant := leAt l 16 1, keySlot := leAt l 17 1, boolUsed := leAt l 18 2, wordUsed := leAt l 20 2,
             jmapRecords := leAt l 22 1, cost := leAt l 24 4, hash := sha256 (l.take (l.length - 7856)), pins := pins, blocks := blocks,
             orderB := entries 2 (fun b => leAt b 0 2) (sec 3), mask := BitVec.ofNat 8320 (leNat (sec 4)), out := Config.outMap (sec 5),
             claims := claims, jmap := jmap, consts := consts,
             image := padWord (sec 2) ++ padWord (sec 3) ++ sec 4 ++ padWord (sec 8) ++ padWord (sec 7) }
    else none

/-- Check 5: MIN_VARIANT is not above the fitted variant, and nothing is absent from the variant it names (R5, R200). -/
def variantOk (v : Variant) (t : Table) : Bool :=
  let need : Variant := if t.minVariant = 0 then .gw488 else .gw968
  (need == .gw488 || v == .gw968) && (t.pins.zipIdx.all fun x => x.1 == 0 || pinPresent need x.2) &&
    (t.blocks.all fun k => (inputRefs k).all fun r => r.kind != 2 || pinPresent need r.index) &&
    (t.out.drive.zipIdx.all fun x => x.1.isNone || pinPresent need x.2) && (t.out.rearm.zipIdx.all fun x => x.1.isNone || tilePresent need x.2)

/-- Check 6 (R86). -/
def capacityOk (blocks : Nat) (t : Table) : Bool :=
  decide (1 ≤ blocks) && decide (blocks ≤ 1024) && decide (2 ≤ t.boolUsed) && decide (t.boolUsed ≤ 4096) && decide (t.wordUsed ≤ 256) && decide (t.image.length ≤ 65536)

/-- C of R84. -/
def tableCost (t : Table) : Nat := 600 + (t.blocks.map blkCost).sum

/-- Check 7 (R84, R85). -/
def costOk (t : Table) : Bool := tableCost t == t.cost && decide (tableCost t + 4600 ≤ 400 * t.scanUs)

/-- Check 8: both orders satisfy R65, and the mask is that of R87. -/
def ordersOk (t : Table) : Bool :=
  let all := t.blocks.foldl (fun x k => (writesOf k).foldl sigAdd x) {}
  orderOk all {} t.blocks && isPerm t.blocks.length t.orderB && orderOk all {} (t.orderB.filterMap fun i => t.blocks[i]?) && t.mask == maskOf (significant t)

end Sys2Proof.Machine
end

