-- ==== Sys2Proof/Machine/Loader.lean ====
section
/-! DEFINITION. The table loader: the checks of a copy (R102, Table ILK-13a), installation (R104, R106, R107), the loader commands (R103, R95) and the trip latch's clearing. -/

namespace Sys2Proof.Machine

/-- Change the loader. -/
def updIlkl (f : Ilkl → Ilkl) (s : State) : State := { s with ilkl := f s.ilkl }

/-- The configuration ingots of a table copy (R101). -/
def copyAddr (c : Nat) : Nat := cfgAddr (4 * c)

/-! ## Checks -/

/-- Reads through a page's port while an injection is armed (R385): false where a read fails after its retries. `corr` and `unc` are the sources reported. The fuel bounds the reads an injection can still change. -/
def injectedReads : Nat → Nat → Nat → Nat → State → Bool × State
  | 0, _, _, _, s => (true, s)
  | fuel + 1, corr, unc, page, s =>
    if (hdr s page).injCount = 0 then (true, s)
    else
      let r := readRetry page 0 .good s
      let s := reportRead corr unc page 0 r.1 r.2
      if r.1.check = .uncorrectable then (false, s) else injectedReads fuel corr unc page s

/-- The outcome of checks 1 to 9 of a copy: the result code, the image, and the table where all pass. `repairable` is false after an ENGINE failure (R434). -/
structure CopyCheck where
  code : Nat
  image : List Byte := []
  table : Option Table := none
  repairable : Bool := true
  deriving DecidableEq, Repr

/-- Checks 4 to 9 of Table ILK-13a. -/
def checkTable (l : List Byte) (s : State) : CopyCheck × State :=
  match parseTable l with
  | none => ({ code := 0x01, image := l }, s)
  | some t =>
    if !variantOk s.variant t then ({ code := 0x04, image := l }, s)
    else if !capacityOk (leAt l 14 2) t then ({ code := 0x05, image := l }, s)
    else if !costOk t then ({ code := 0x06, image := l }, s)
    else if !ordersOk t then ({ code := 0x07, image := l }, s)
    else match claimCheck t s with
      | some f => ({ code := 0x08, image := l }, claimFailed f s)
      | none => ({ code := 0, image := l, table := some t }, s)

/-- Checks 1 to 9 of Table ILK-13a on a copy, in order, stopping at the first that fails (R102). -/
def runChecks (copy : Nat) (s : State) : CopyCheck × State :=
  let p := injectedReads 16 0x080 0x081 pgIlkl s
  if !p.1 then ({ code := 0x0F }, p.2) else
  let r := readImage (copyAddr copy) (ascii "GWIT") 28 262144 p.2
  match r.1 with
  | none => ({ code := 0x0F }, r.2)
  | some l =>
    if !headerOk l then ({ code := 0x01, image := l }, r.2) else
    let v := verifyOwner 3 copy (leAt l 17 1) l r.2
    match v.1 with
    | .ok => checkTable l v.2
    | .key => ({ code := 0x02, image := l }, v.2)
    | .engine => ({ code := 0x03, image := l, repairable := false }, v.2)
    | .format => ({ code := 0x01, image := l }, v.2)
    | .signature => ({ code := 0x03, image := l }, v.2)
    | .cert => ({ code := 0x03, image := l }, v.2)
    | .store => ({ code := 0x0F, image := l }, v.2)

/-- A run of checks 1 to 9, with COPYn_OK of the copy (R104). -/
def checkCopy (copy : Nat) (s : State) : CopyCheck × State :=
  let r := runChecks copy s
  let s := if r.1.code = 0 then noteVerified copy (copyAddr copy) r.1.image.length r.2 else r.2
  (r.1, updIlkl (fun l => { l with copyOk := vSet l.copyOk copy (r.1.code == 0) }) s)

/-! ## Installation (R104, R106, R107, R200, R223) -/

/-- The table is being written into an evaluator. -/
def ilkLoading (k : Ilk) : Ilk := { k with st := .loading }

/-- An evaluator holds a table, read back. -/
def ilkInstalled (t : Table) (k : Ilk) : Ilk := { k with st := .halted, table := some t, tblCrc := crc32c t.image, mem := [], first := true, scrub := 0, phase := 7 }

/-- An evaluator without a table. -/
def ilkNoTable (k : Ilk) : Ilk := { k with st := .noTable, table := none, mem := [] }

/-- The pin configurations of a table reach the link controllers (R200). -/
def writePinMap (t : Table) (s : State) : State :=
  t.pins.zipIdx.foldl (fun s x => let p := pinTile x.2
    if tilePresent s.variant p then setLinkCfg p (if x.2 < 96 then x.2 % 16 else x.2 % 8) x.1 s else s) s

/-- Both evaluators hold a table that was read back: it is in force, its copy is active, compare channel 0 is set, its claims are taken and the test cycle restarts (R104, R355, R241, R223, R444). -/
def installTable (t : Table) (copy : Nat) (s : State) : State :=
  let s := { s with ilkA := ilkInstalled t s.ilkA, ilkB := ilkInstalled t s.ilkB, ilkl := { s.ilkl with active := some copy, activeGen := t.gen },
                    tbl := { s.tbl with claims := some t.claims, restart := true, slots := [], overdue := [] } }
  setMeas 4 t.hash (chan0Set t.scanUs (writePinMap t s))

/-- Both evaluators are without a table: its claims are released and compare channel 0 stops (R241, R355). -/
def removeTable (s : State) : State :=
  setMeas 4 (zeros 32) (chan0Off { s with ilkA := ilkNoTable s.ilkA, ilkB := ilkNoTable s.ilkB, tbl := { s.tbl with claims := none, slots := [], overdue := [] } })

/-- The previous table stands in the evaluators again, with its claims (R104): the one they held, or the active copy where they held none. -/
def restoreTable (s : State) : State :=
  match s.ilkA.table with
  | some t =>
    let back := fun (k : Ilk) => { k with st := if k.table.isSome then .halted else .noTable }
    { s with ilkA := back s.ilkA, ilkB := back s.ilkB, tbl := { s.tbl with claims := some t.claims } }
  | none =>
    match s.ilkl.active with
    | none => removeTable s
    | some c =>
      let r := readImage (copyAddr c) (ascii "GWIT") 28 262144 s
      match r.1.bind parseTable with
      | none => removeTable r.2
      | some t => installTable t c r.2

/-- Copies the active copy to the other slot unless that slot holds the identical image (R103): the code, and whether the slot was written. The reads pass the loader's port (Table ILK-36). -/
def syncCopies (s : State) : (Nat × Bool) × State :=
  match s.ilkl.active with
  | none => ((0x0E, false), s)
  | some c =>
    let p := injectedReads 16 0x080 0x081 pgIlkl s
    if !p.1 then ((0x0F, false), p.2) else
    let a := readImage (copyAddr c) (ascii "GWIT") 28 262144 p.2
    match a.1 with
    | none => ((0x0F, false), a.2)
    | some [] => ((0x0F, false), a.2)
    | some l =>
      let b := readItem (copyAddr (1 - c)) l.length a.2
      if b.1 = some l then ((0, false), b.2) else ((0, true), writeItem (copyAddr (1 - c)) l b.2)

/-- A loss of power stops an INSTALL or SYNC that is writing the other slot (R105): how many words of it have been written by then is a free value (log 2). -/
def tearCopy (s : State) : State :=
  match s.ilkl.run with
  | none => s
  | some r =>
    match if r.torn || !s.sto.mapOk then none else if r.op = 2 && r.table.isSome then some r.copy else if r.op = 3 then s.ilkl.active else none with
    | none => s
    | some c =>
      let len := min 262144 (leAt (peekLog (copyAddr c + 28) 4 s) 0 4)
      let k := 16 * ((Config.freeValue s.free).toNat % (len / 16 + 1))
      updSto (writeSpan 9 (copyAddr (1 - c)) (peekLog (copyAddr c) k s)) { updIlkl (fun l => { l with run := some { r with torn := true } }) s with free := s.free + 1 }

/-- The SYNC that follows P7 begins (Table ILK-15), unless a command runs (R103): it then begins when that ends. -/
def startSync (s : State) : State :=
  if syncDue s && s.ilkl.run.isNone then updIlkl (fun l => { l with syncAfterP7 := false, run := some { op := 3 } }) s else s

/-- The copy that Table ILK-15 installs. -/
def chooseCopy (r0 r1 : CopyCheck) : Option (Nat × Table) :=
  match r0.table, r1.table with
  | some a, some b => if b.gen > a.gen then some (1, b) else some (0, a)
  | some a, none => some (0, a)
  | none, some b => some (1, b)
  | none, none => none

/-- The chosen copy is installed, and a SYNC asked for where the copies differ. DESIGN CHOICE (log 128): where the evaluators do not read it back as written, RESULT is READBACK, no table stays, and the other copy is not tried; R106 names no result for it. -/
def installChosen (readBack : Bool) (r0 r1 : CopyCheck) (pick : Option (Nat × Table)) (s : State) : State :=
  match pick with
  | none => updIlkl (fun l => { l with result := 0x0E }) s
  | some (c, t) =>
    let same := r0.table.isSome && r1.table.isSome && r0.image == r1.image
    if readBack then updIlkl (fun l => { l with result := 0, syncAfterP7 := !same && r0.repairable && r1.repairable }) (installTable t c s)
    else updIlkl (fun l => { l with result := 0x0A }) (removeTable s)

/-- Selection and installation at start-up (R106, Table ILK-15). `readBack` says whether the read-back matches. -/
def startupInstall (readBack : Bool) (s : State) : State :=
  let r0 := checkCopy 0 s
  let r1 := checkCopy 1 r0.2
  installChosen readBack r0.1 r1.1 (chooseCopy r0.1 r1.1) r1.2

/-- The installation after a reset of the evaluators (Table ILK-16): the active copy again, as at start-up. DESIGN CHOICE (log 128): where that copy no longer passes its checks, Table ILK-15 chooses; without an active copy no table is installed. -/
def reinstallActive (readBack : Bool) (s : State) : State :=
  match s.ilkl.active with
  | none => updIlkl (fun l => { l with result := 0x0E }) s
  | some c =>
    let r0 := checkCopy 0 s
    let r1 := checkCopy 1 r0.2
    let own := if c = 0 then r0.1.table else r1.1.table
    installChosen readBack r0.1 r1.1 ((own.map fun t => (c, t)).orElse fun _ => chooseCopy r0.1 r1.1) r1.2

/-! ## Clearing the trip latch (R95, R110) -/

/-- The latch clears: the cause, epoch, time and set are cleared, and TAB.FAIL_INFO with them (Table DHD-9); TRIP_CLEARED is raised. -/
def clearLatch (s : State) : State :=
  let s := { s with tab := { s.tab with failInfo := none, failEpoch := 0 } }
  evt pgIlkl 3 (updIlkl (fun l => { l with trip := false, cause := 0, causePhase := 0, causeChan := 0, tripEpoch := 0, tripTime := 0, tripSet := 0 }) s)

/-- The payload of a CLEAR record (Table JRN-4). -/
def clearPayload (count : Nat) (epoch : Word32) : List Byte := leBytes 4 count ++ leBytes 4 epoch.toNat

/-- CLEAR_TRIP while no scan runs: judged at once (R95). -/
def clearTripNow (s : State) : State :=
  if !fatalPend s && !s.dhd.cmpFail && !s.tab.cmpFail && !logicFenced s && lockstepReport s then
    let s' := clearLatch s
    loaderEnd 0 (interlockRecord (now s') (lastEpoch s') 0x02 (clearPayload s.ilkl.tripCount s.ilkl.tripEpoch) s')
  else loaderEnd 0x0D s

/-! ## Loader commands (R103) -/

/-- A mode a loader command is allowed in (Table ILK-14). -/
def loaderModeOk (op : Nat) (m : Mode) : Bool :=
  match op with
  | 1 => true | 3 => true
  | 2 => m == .service | 6 => m == .service | 7 => m == .service
  | _ => modeScans m

/-- The checks of VERIFY, INSTALL and RELOAD are made and the command goes on running: the table it will install, where it may. The Timetable takes that table's claims with check 9 (R241). -/
def loaderChecks (op copy : Nat) (s : State) : State :=
  let r := checkCopy copy s
  let code := if r.1.code ≠ 0 then r.1.code
    else match r.1.table with
      | some t => if op = 2 ∧ r.2.ilkl.active.isSome ∧ t.gen ≤ r.2.ilkl.activeGen then 0x09 else 0
      | none => 0
  let s := updIlkl (fun l => { l with run := some { op := op, copy := copy, result := code, table := if code = 0 ∧ op ≠ 1 then r.1.table else none } }) r.2
  match if code = 0 ∧ op ≠ 1 then r.1.table else none with
  | none => s
  | some t => { s with ilkA := ilkLoading s.ilkA, ilkB := ilkLoading s.ilkB, tbl := { s.tbl with claims := some t.claims, slots := [], overdue := [] } }

/-- The latest committed epoch detected a trip cause (R95): one of a scan that has committed may still be detected in its Output and Tail. -/
def latestTripped (s : State) : Bool := if s.ilkl.scanning && s.ilkl.committed then !s.ilkl.causes.isEmpty else s.ilkl.lastTripped

/-- A write of ILKL.CMD that the key sequence admits (R103). -/
def loaderCmd (v : Word32) (s : State) : State :=
  let op := bits v 0 4
  let copy := if bitOf v 8 then 1 else 0
  let s := updIlkl (fun l => { l with cmdOp := BitVec.ofNat 4 op, cmdCopy := bitOf v 8 }) s
  if s.ilkl.run.isSome then evt pgIlkl 1 (updIlkl (fun l => { l with result := 0x0C }) s)
  else if op = 0 ∨ op > 7 then loaderEnd 0x10 s
  else if !loaderModeOk op s.sys.mode then loaderEnd 0x0B s
  else match op with
    | 1 => loaderChecks 1 copy s
    | 2 => loaderChecks 2 copy s
    | 3 => updIlkl (fun l => { l with run := some { op := 3 } }) s
    | 4 =>
      if !s.ilkl.trip then loaderEnd 0 s
      else if !scansRun s then clearTripNow s
      else if !(latestTripped s) && !logicFenced s && lockstepReport s then
        updIlkl (fun l => { l with run := some { op := 4 }, clearPend := true, clearBroken := false }) s
      else loaderEnd 0x0D s
    | 5 =>
      if scansRun s then updIlkl (fun l => { l with run := some { op := 5 }, testPend := true }) s
      else loaderEnd 0 (trip0 0x14 0 pgIlkl s)
    | 6 => updIlkl (fun l => { l with run := some { op := 6 } }) s
    | _ => match s.ilkl.active with
      | none => loaderEnd 0x0E s
      | some c => loaderChecks 7 c s

/-- An INSTALL or RELOAD whose evaluators have been read back ends (R104): `readBack` says whether both CRCs match, `previous` whether the previous table could be installed again where they do not. -/
def installEnd (r : LoaderRun) (readBack previous : Bool) (s : State) : State :=
  match r.table with
  | none => loaderEnd r.result s
  | some t =>
    if readBack then
      let s := installTable t r.copy s
      if r.op = 2 then (let y := syncCopies s; loaderEnd y.1.1 y.2) else loaderEnd 0 s
    else loaderEnd 0x0A (if previous then restoreTable s else removeTable s)

/-- The slot a command will copy to is not locked by an atomic write of the host (R264). -/
def copyFree (r : LoaderRun) (s : State) : Bool :=
  match if r.op = 2 && r.table.isSome then some r.copy else if r.op = 3 then s.ilkl.active else none with
  | none => true
  | some c => itemFree (copyAddr (1 - c)) 262144 s

/-- LOADER_CMD_COMPLETE (R103): the running command ends, not while a host's atomic write holds the slot it copies to (R264). CLEAR_TRIP and TEST_TRIP end with the scan they act in, not here. -/
def execLoaderCmdComplete (readBack previous : Bool) (s : State) : Res :=
  match s.ilkl.run with
  | none => .next s
  | some r =>
    if !copyFree r s then .next s else
    match r.op with
    | 1 => .next (loaderEnd r.result s)
    | 2 => .next (installEnd r readBack previous s)
    | 7 => .next (installEnd r readBack previous s)
    | 3 =>
      let y := syncCopies s
      .next (loaderEnd y.1.1 (evtIf y.1.2 pgIlkl 4 y.2))
    | 6 => .next (loaderEnd 0 (removeTable s))
    | _ => .next s

end Sys2Proof.Machine
end

