-- ==== Sys2Proof/Machine/Vectors.lean ====
section
/-! DEFINITION. Sample vectors, result vectors and inbound frames as bytes and words: channel encodings (R62, Table ILK-1), Tables ILK-2 to ILK-4, and Tables FT-3, FT-4 and FT-6. -/

namespace Sys2Proof.Machine

/-! ## Channel encodings -/

/-- Boolean signals of a channel in true form, or back: channel B holds them complemented. -/
def encBools (c : Chan) (v : BitVec 4096) : BitVec 4096 := match c with | .a => v | .b => ~~~v

/-- A word signal of a channel in true form, or back: channel B holds the negation. -/
def encWord (c : Chan) (v : BitVec 16) : BitVec 16 := match c with | .a => v | .b => -v

/-- Word signals as words 32 to 63 of a result vector. -/
def packWords (w : Vector (BitVec 16) 256) : BitVec 4096 :=
  BitVec.ofNat 4096 (w.toList.foldr (fun x n => x.toNat + 65536 * n) 0)

/-- Words 32 to 63 of a result vector as word signals. -/
def unpackWords (v : BitVec 4096) : Vector (BitVec 16) 256 := Vector.ofFn fun i => (v >>> (16 * i.val)).setWidth 16

/-- Negate each word signal of words 32 to 63 (R88). -/
def negWords (v : BitVec 4096) : BitVec 4096 := packWords ((unpackWords v).map fun x => -x)

/-- A result vector from its three parts (Table ILK-4). -/
def joinResult (b w : BitVec 4096) (w64 : BitVec 128) : BitVec 8320 :=
  b.setWidth 8320 ||| (w.setWidth 8320 <<< 4096) ||| (w64.setWidth 8320 <<< 8192)

/-- A channel's result vector as held (R71). -/
def resultVec (k : Ilk) : BitVec 8320 := joinResult k.bools (packWords k.words) k.word64

/-- A result vector of a channel in true form (R88). -/
def trueResult (c : Chan) (v : BitVec 8320) : BitVec 8320 :=
  match c with
  | .a => v
  | .b => joinResult (~~~(v.setWidth 4096)) (negWords ((v >>> 4096).setWidth 4096)) ((v >>> 8192).setWidth 128)

/-! ## Sample vectors -/

/-- An edge entry (Table ILK-3) in true form. -/
def edgeWord (e : Edge) : BitVec 64 := BitVec.ofNat 64 (e.time % 2 ^ 48 + 2 ^ 48 * (e.pin % 128) + if e.level then 2 ^ 55 else 0)

/-- The 20 words of a sample vector in true form (Table ILK-2). -/
def sampleWords (v : SampleVec) : List (BitVec 128) :=
  let ch : Nat := match v.chan with | .a => 0 | .b => 1
  BitVec.ofNat 128 (v.epoch.toNat + 2 ^ 32 * ch + 2 ^ 33 * v.edges.length + (if v.edgeOvf then 2 ^ 39 else 0) + 2 ^ 40 * v.stale.toNat)
    :: v.st.setWidth 128 :: v.valid.setWidth 128 :: v.own.setWidth 128
    :: (List.range 16).map fun k =>
        let e : Nat → BitVec 128 := fun i => match v.edges[i]? with | some x => (edgeWord x).setWidth 128 | none => 0
        e (2 * k) ||| (e (2 * k + 1) <<< 64)

/-- The words of a sample vector as a channel holds them (Table ILK-1): channel B holds STATE, VALID and OWN complemented, and LEVEL of each edge. -/
def heldSample (c : Chan) (v : SampleVec) : List (BitVec 128) :=
  match c with
  | .a => sampleWords v
  | .b =>
    (List.range 20).map fun i =>
      let w := lGet (sampleWords v) i 0
      if i = 0 then w else if i < 4 then ~~~w
      else
        let flip := fun (j : Nat) => if j < v.edges.length then 2 ^ (55 + 64 * (j % 2)) else 0
        w ^^^ BitVec.ofNat 128 (flip (2 * (i - 4)) + flip (2 * (i - 4) + 1))

/-- Words as bytes, each from byte 0. -/
def wordsBytes (l : List (BitVec 128)) : List Byte := (l.map fun w => leBytes 16 w.toNat).flatten

/-- The input digest: CRC-32C over the sample pair in true form, channel A's vector first (Table ILK-4). -/
def inputDigest (a b : SampleVec) : Word32 := crc32c (wordsBytes (sampleWords a) ++ wordsBytes (sampleWords b))

/-- A sample vector from its words as a channel sent them (Table ILK-2, Table ILK-1). -/
def parseSample (l : List (BitVec 128)) : SampleVec :=
  let w := fun (i : Nat) => lGet l i 0
  let h := (w 0).toNat
  let b := (w 0).getLsbD 32
  let inv := fun (v : BitVec 112) => if b then ~~~v else v
  let edge := fun (i : Nat) =>
    let x := (w (4 + i / 2) >>> (64 * (i % 2))).toNat
    ({ time := x % 2 ^ 48, pin := x / 2 ^ 48 % 128, level := (x / 2 ^ 55 % 2 == 1) != b } : Edge)
  { epoch := BitVec.ofNat 32 h, chan := if b then .b else .a, edgeOvf := h / 2 ^ 39 % 2 == 1, stale := BitVec.ofNat 8 (h / 2 ^ 40),
    st := inv ((w 1).setWidth 112), valid := inv ((w 2).setWidth 112), own := inv ((w 3).setWidth 112),
    edges := (List.range (min 32 (h / 2 ^ 33 % 64))).map edge }

/-! ## Inbound frames (Tables FT-3, FT-4, FT-6) -/

/-- Band codes of LPLUS and SLPLUS (Table FT-18). -/
def bandCode : Band → Nat
  | .normal => 0 | .low => 1 | .belowTrip => 2 | .missing => 3

/-- Supply state codes (Table FT-18). -/
def supplyCode : Supply → Nat
  | .qualifying => 0 | .ready => 1 | .armed => 2

/-- AGE of an edge entry (Table FT-4). -/
def edgeAge (capt : Nat) (e : TileEdge) : Nat := (capt % 2 ^ 48 + 2 ^ 48 - e.time % 2 ^ 48) % 2 ^ 21

/-- An edge entry of an inbound frame. -/
def frameEdge (capt : Nat) (e : TileEdge) : Nat :=
  edgeAge capt e + 2 ^ 21 * (e.pin % 16) + (match e.path with | .a => 0 | .b => 2 ^ 25) + if e.level then 2 ^ 26 else 0

/-- LPLUS or SLPLUS. -/
def voltWord (f : InFrame) : Nat := f.volt.toNat + 4096 * bandCode f.band + 16384 * supplyCode f.supply

/-- A flag at a bit position. -/
def bitAt (n : Nat) (b : Bool) : Nat := if b then 2 ^ n else 0

/-- The 72 bytes of a field tile inbound frame. -/
def ftFrameBytes (f : InFrame) : List Byte :=
  let body := leBytes 1 0x31 ++ leBytes 1 f.alive.toNat ++ leBytes 6 f.capt ++ leBytes 2 f.stA.toNat ++ leBytes 2 f.stB.toNat ++ leBytes 2 f.valid.toNat ++
    leBytes 2 f.rb.toNat ++ leBytes 2 f.applied.toNat ++ leBytes 2 f.ovl.toNat ++ leBytes 2 (voltWord f) ++
    leBytes 1 (bitAt 0 f.fresh + bitAt 1 f.wdogHold + bitAt 2 f.tempOff + bitAt 3 f.tileOvl + bitAt 4 f.backlog + bitAt 5 f.pulseLong + bitAt 6 f.rearmEarly) ++
    leBytes 1 f.echo.toNat ++ leBytes 1 f.edges.length ++ leBytes 1 f.snapEcho.toNat ++ leBytes 1 f.temp.toNat ++ zeros 1 ++
    leBytes 4 f.cfgCrc.toNat ++ leBytes 2 f.lost.toNat ++ zeros 2 ++ padTo 32 ((f.edges.map fun e => leBytes 4 (frameEdge f.capt e)).flatten)
  body ++ leBytes 4 (crc32c body).toNat

/-- The 36 bytes of a safety output tile inbound frame of a side. -/
def sotFrameBytes (side : Chan) (f : InFrame) : List Byte :=
  let body := leBytes 1 (match side with | .a => 0x3A | .b => 0x3B) ++ leBytes 1 f.alive.toNat ++ leBytes 6 f.capt ++ leBytes 1 f.stB.toNat ++ leBytes 1 f.stA.toNat ++
    leBytes 1 f.applied.toNat ++ leBytes 1 f.supp.toNat ++ leBytes 2 (voltWord f) ++
    leBytes 1 (bitAt 0 f.fresh + bitAt 1 f.wdogHold + bitAt 2 f.tempOff + bitAt 3 f.backlog + bitAt 4 f.pulseLong + bitAt 5 f.rearmEarly) ++
    leBytes 1 f.echo.toNat ++ leBytes 1 f.edges.length ++ leBytes 1 f.snapEcho.toNat ++ leBytes 1 f.temp.toNat ++ leBytes 1 f.lost.toNat ++
    leBytes 4 f.cfgCrc.toNat ++ padTo 8 ((f.edges.map fun e => leBytes 4 (frameEdge f.capt e)).flatten)
  body ++ leBytes 4 (crc32c body).toNat

/-! ## Outbound frames (Tables FT-2, FT-5) and the check of a frame (R188, R191) -/

/-- A frame closed by its CRC (R188). -/
def withCrc (body : List Byte) : List Byte := body ++ leBytes 4 (crc32c body).toNat

/-- The 32 bytes of a field tile outbound frame. -/
def ftOutBytes (f : OutFrame) : List Byte :=
  withCrc (leBytes 1 0x13 ++ leBytes 1 f.alive.toNat ++ leBytes 2 f.cmd.toNat ++ leBytes 2 f.dark.toNat ++ leBytes 2 f.light.toNat ++
    leBytes 1 (bitAt 0 f.rearm + bitAt 1 f.ackFresh) ++ leBytes 1 (f.cfgIdx % 16) ++ leBytes 4 f.cfgWord.toNat ++ leBytes 6 f.snapTime ++ leBytes 1 f.snapSeq.toNat ++
    leBytes 1 (f.rbPin % 16 + 16 * (f.rbUse % 4)) ++ leBytes 2 f.epoch.toNat ++ zeros 4)

/-- The 20 bytes of a safety output tile outbound frame of a stream. -/
def sotOutBytes (c : Chan) (f : OutFrame) : List Byte :=
  let cmd := f.cmd.toNat % 256
  withCrc (leBytes 1 (match c with | .a => 0x1A | .b => 0x1B) ++ leBytes 1 f.alive.toNat ++ leBytes 1 cmd ++ leBytes 1 (255 - cmd) ++ leBytes 1 f.dark.toNat ++
    leBytes 1 f.light.toNat ++ leBytes 1 (bitAt 0 f.rearm + bitAt 1 f.ackFresh) ++ leBytes 1 (f.cfgIdx % 8) ++ leBytes 1 f.cfgWord.toNat ++
    leBytes 1 f.snapSeq.toNat ++ leBytes 6 f.snapTime)

/-- The bytes of an outbound frame of stream `c` of a tile. -/
def outFrameBytes (p : Nat) (c : Chan) (f : OutFrame) : List Byte := if p < 6 then ftOutBytes f else sotOutBytes c f

/-- The last four bytes are the CRC of those before them. -/
def crcGood (l : List Byte) : Bool := decide (4 ≤ l.length) && l.drop (l.length - 4) == leBytes 4 (crc32c (l.take (l.length - 4))).toNat

/-- The checks of R191 on an outbound frame, ALIVE apart: length and TYPE, the CRC, every reserved bit 0, CMD_N the complement of CMD. -/
def outFrameOk (p : Nat) (c : Chan) (l : List Byte) : Bool :=
  if p < 6 then
    decide (l.length = 32) && leAt l 0 1 == 0x13 && crcGood l && decide (leAt l 8 1 < 4) && decide (leAt l 9 1 < 16) && decide (leAt l 21 1 < 64) && leAt l 24 4 == 0
  else
    decide (l.length = 20) && leAt l 0 1 == (match c with | .a => 0x1A | .b => 0x1B) && crcGood l && leAt l 2 1 + leAt l 3 1 == 255 &&
      decide (leAt l 6 1 < 4) && decide (leAt l 7 1 < 8)

/-- The outbound frame that bytes spell; `sentAt` is when its comma left. -/
def parseOut (p sentAt : Nat) (l : List Byte) : OutFrame :=
  let n := leAt l
  if p < 6 then
    { alive := BitVec.ofNat 8 (n 1 1), cmd := BitVec.ofNat 16 (n 2 2), dark := BitVec.ofNat 16 (n 4 2), light := BitVec.ofNat 16 (n 6 2),
      rearm := (n 8 1).testBit 0, ackFresh := (n 8 1).testBit 1, cfgIdx := n 9 1 % 16, cfgWord := BitVec.ofNat 32 (n 10 4), snapTime := n 14 6,
      snapSeq := BitVec.ofNat 8 (n 20 1), rbPin := n 21 1 % 16, rbUse := n 21 1 / 16 % 4, epoch := BitVec.ofNat 16 (n 22 2), sentAt := sentAt }
  else
    { alive := BitVec.ofNat 8 (n 1 1), cmd := BitVec.ofNat 16 (n 2 1), dark := BitVec.ofNat 16 (n 4 1), light := BitVec.ofNat 16 (n 5 1),
      rearm := (n 6 1).testBit 0, ackFresh := (n 6 1).testBit 1, cfgIdx := n 7 1 % 8, cfgWord := BitVec.ofNat 32 (n 8 1), snapTime := n 10 6,
      snapSeq := BitVec.ofNat 8 (n 9 1), rbPin := 0, rbUse := 0, epoch := 0, sentAt := sentAt }

/-- The edge entries of an inbound frame: `k` of them from an offset, the unused ones up to `cap` all 0. -/
def edgesOk (l : List Byte) (off k cap : Nat) : Bool :=
  decide (k ≤ cap) && (List.range cap).all fun i => let w := leAt l (off + 4 * i) 4; decide (w < 2 ^ 27) && (decide (i < k) || w == 0)

/-- The checks of R191 on an inbound frame, ALIVE apart. -/
def inFrameOk (p : Nat) (c : Chan) (l : List Byte) : Bool :=
  if p < 6 then
    decide (l.length = 72) && leAt l 0 1 == 0x31 && crcGood l && decide (leAt l 22 1 < 128) && leAt l 27 1 == 0 && leAt l 34 2 == 0 && edgesOk l 36 (leAt l 24 1) 8
  else
    decide (l.length = 36) && leAt l 0 1 == (match c with | .a => 0x3A | .b => 0x3B) && crcGood l && decide (leAt l 14 1 < 64) && edgesOk l 24 (leAt l 16 1) 2

/-- A band from its code. -/
def bandOf (n : Nat) : Band := match n % 4 with | 0 => .normal | 1 => .low | 2 => .belowTrip | _ => .missing

/-- A supply state from its code. -/
def supplyOf (n : Nat) : Supply := match n % 4 with | 1 => .ready | 2 => .armed | _ => .qualifying

/-- An edge entry that a word spells. -/
def parseEdge (capt w : Nat) : TileEdge :=
  { pin := w / 2 ^ 21 % 16, path := if w.testBit 25 then .b else .a, level := w.testBit 26, time := (capt + 2 ^ 48 - w % 2 ^ 21) % 2 ^ 48 }

/-- The inbound frame that bytes spell; `timed` and `rearm` are what the lane does not carry. -/
def parseIn (p : Nat) (c : Chan) (timed rearm : Bool) (l : List Byte) : InFrame :=
  let n := leAt l
  let edges := fun (off k : Nat) => (List.range k).map fun i => parseEdge (n 2 6) (n (off + 4 * i) 4)
  if p < 6 then
    let fl := n 22 1
    { alive := BitVec.ofNat 8 (n 1 1), capt := n 2 6, stA := BitVec.ofNat 16 (n 8 2), stB := BitVec.ofNat 16 (n 10 2), valid := BitVec.ofNat 16 (n 12 2),
      rb := BitVec.ofNat 16 (n 14 2), applied := BitVec.ofNat 16 (n 16 2), ovl := BitVec.ofNat 16 (n 18 2), volt := BitVec.ofNat 12 (n 20 2),
      band := bandOf (n 20 2 / 4096), supply := supplyOf (n 20 2 / 16384), needRearm := rearm, fresh := fl.testBit 0, wdogHold := fl.testBit 1,
      tempOff := fl.testBit 2, tileOvl := fl.testBit 3, backlog := fl.testBit 4, pulseLong := fl.testBit 5, rearmEarly := fl.testBit 6,
      echo := BitVec.ofNat 8 (n 23 1), snapEcho := BitVec.ofNat 8 (n 25 1), temp := BitVec.ofNat 8 (n 26 1), cfgCrc := BitVec.ofNat 32 (n 28 4),
      lost := BitVec.ofNat 16 (n 32 2), edges := edges 36 (min 8 (n 24 1)), timed := timed }
  else
    let fl := n 14 1
    { alive := BitVec.ofNat 8 (n 1 1), capt := n 2 6, stB := BitVec.ofNat 16 (n 8 1), stA := BitVec.ofNat 16 (n 9 1), applied := BitVec.ofNat 16 (n 10 1),
      supp := BitVec.ofNat 8 (n 11 1), volt := BitVec.ofNat 12 (n 12 2), band := bandOf (n 12 2 / 4096), supply := supplyOf (n 12 2 / 16384), needRearm := rearm,
      fresh := fl.testBit 0, wdogHold := fl.testBit 1, tempOff := fl.testBit 2, backlog := fl.testBit 3, pulseLong := fl.testBit 4, rearmEarly := fl.testBit 5,
      echo := BitVec.ofNat 8 (n 15 1), snapEcho := BitVec.ofNat 8 (n 17 1), temp := BitVec.ofNat 8 (n 18 1), lost := BitVec.ofNat 16 (n 19 1),
      cfgCrc := BitVec.ofNat 32 (n 20 4), edges := (edges 24 (min 2 (n 16 1))).map fun e => { e with path := c }, timed := timed }

end Sys2Proof.Machine
end

