-- ==== Sys2Proof/Machine/Header.lean ====
section
/-! DEFINITION. The Double-header (R156 to R174, R182 to R184) and the Tablet's frames (R175 to R180, R185). -/

namespace Sys2Proof.Machine

/-- Change the Double-header. -/
def updDhd (f : Dhd → Dhd) (s : State) : State := { s with dhd := f s.dhd }

/-- Change the Tablet. -/
def updTab (f : Tab → Tab) (s : State) : State := { s with tab := f s.tab }

/-! ## The comparator of the pair -/

/-- Compared bits of a group (Table DHD-2). -/
def groupWidth (g : Nat) : Nat :=
  if g = 2 ∨ g = 5 then 8 else if g = 6 ∨ g = 49 then 4
  else if 7 ≤ g ∧ g ≤ 10 then 8 else if g = 14 ∨ g = 17 then 8
  else if 24 ≤ g ∧ g ≤ 42 then 8 else if g = 45 ∨ g = 48 then 8
  else if 50 ≤ g ∧ g ≤ 53 then 8 else if g = 62 then 8 else 16

/-- The gate of a group (Table DHD-2). -/
def groupGate (k : PairGates) (g : Nat) : Bool :=
  if g = 0 ∨ g = 1 then k.ibus
  else if g = 3 ∨ g = 4 ∨ g = 6 then k.dbus
  else if 7 ≤ g ∧ g ≤ 10 then k.dbus && k.dbusWrite && k.dbusStrb.getLsbD (g - 7)
  else if g = 11 ∨ g = 12 then k.retire
  else if g = 15 ∨ g = 16 then k.wb
  else if g = 18 ∨ g = 19 then k.csr
  else if g = 20 ∨ g = 21 ∨ g = 23 then k.xb
  else if 24 ≤ g ∧ g ≤ 39 then k.xb && k.xbWrite && k.xbStrb.getLsbD (g - 24)
  else if g = 46 ∨ g = 47 ∨ g = 49 then k.tcm
  else if 50 ≤ g ∧ g ≤ 53 then k.tcm && k.tcmWrite && k.tcmStrb.getLsbD (g - 50)
  else true

/-- A group that is compared in every cycle: its gate is open with every gate bit 0. -/
def alwaysCompared (g : Nat) : Bool := groupGate {} g

/-- A group is compared in a cycle: under its gate, and while the cores are halted only if it is always compared (R160, R167). -/
def groupCompared (halted : Bool) (k : PairGates) (g : Nat) : Bool := if halted then alwaysCompared g else groupGate k g

/-- The compared bits of a value of a group. -/
def groupBits (g : Nat) (v : BitVec 16) : Nat := v.toNat % 2 ^ groupWidth g

/-- The groups of a cycle that are flagged: compared, and different in a compared bit (R161). `skip` is the group whose live value is not compared. -/
def flaggedGroups (halted : Bool) (skip : Option Nat) (k : PairCycle) : List (Nat × BitVec 16 × BitVec 16) :=
  (k.groups.filter fun e => skip != some e.1.val && groupCompared halted k.gates e.1.val && groupBits e.1.val e.2.1 != groupBits e.1.val e.2.2).map
    fun e => (e.1.val, e.2.1, e.2.2)

/-- The injected group of a periodic injection is flagged unless its difference is exactly the injected bit (R171). -/
def injectedGroup (d : Dhd) (v : BitVec 16 × BitVec 16) : List (Nat × BitVec 16 × BitVec 16) :=
  if Nat.xor (groupBits d.pinjGroup v.1) (groupBits d.pinjGroup v.2) = 2 ^ d.pinjBit then [] else [(d.pinjGroup, v.1, v.2)]

/-- The flagged group of the lowest number. -/
def lowestGroup (l : List (Nat × BitVec 16 × BitVec 16)) : Option (Nat × BitVec 16 × BitVec 16) :=
  l.foldl (fun b e => match b with | none => some e | some x => if e.1 < x.1 then some e else some x) none

/-- The pair runs its firmware. -/
def coresRun (s : State) : Bool := !s.dhd.frozen && !s.dhd.halted && !s.dhd.stopped

/-- The supervision routine refreshes the watchdog (R174). -/
def wdogRefresh (s : State) : State := if coresRun s then updDhd (fun d => { d with wdogAt := now s, wdogOut := false }) s else s

/-- Bytes of the TCM. -/
abbrev tcmBytes : Nat := 262144

/-- A core may write a TCM byte: in SPLIT core A has the lower and core B the upper 128 KiB; in lockstep core A's output alone is released (R158, R182). -/
def tcmOpen (split : Bool) (core : Chan) (a n : Nat) : Bool :=
  match core with
  | .a => decide (a + n ≤ if split then tcmBytes / 2 else tcmBytes)
  | .b => split && decide (tcmBytes / 2 ≤ a) && decide (a + n ≤ tcmBytes)

/-- An output of the pair takes effect (R158). Crossbar port 1, core B's, is enabled only in SPLIT (R182). -/
def releaseOut (s : State) (o : PairOut) : State :=
  match o with
  | .refresh => wdogRefresh s
  | .ack n => updDhd (fun d => { d with lines := setBit d.lines n.val false }) s
  | .tcmWrite c a l => if tcmOpen s.dhd.split c a l.length then updDhd (fun d => { d with tcm := memWrite d.tcm a l }) s else s
  | .request c pg n => if c == .a || s.dhd.split then issue .rendezvous pgDhd pg n s else s
  | .fatalTrap _ => updDhd (fun d => { d with stopped := true }) s

/-- Read data reaches the rendezvous register, checked and corrected before it (R51, R164): both cores get the same word, and an uncorrectable one leaves the register as it was. The TCM is cell 0 of the block and the ROM cell 1. -/
def rendezvousRead (r : PairRead) (s : State) : State :=
  match r with
  | .port d => updDhd (fun x => { x with readData := d }) s
  | .rom w k =>
    let o := readRetry pgDhd 1 k s
    if o.1.check = .uncorrectable then o.2 else updDhd (fun x => { x with readData := Config.romWord w }) o.2
  | .tcm w k =>
    let o := readRetry pgDhd 0 k s
    let s := reportRead 0x03F 0x040 pgDhd w o.1 o.2
    if o.1.check = .uncorrectable then s
    else updDhd (fun x => { x with readData := BitVec.ofNat 128 (leAt (memRead x.tcm (16 * w) 16) 0 16) }) s

/-- Start-up phase P3 runs: the freeze is disabled (R168). -/
def inP3 (s : State) : Bool := s.sys.phase == 3 && s.sys.mode == .starting

/-- A mismatch in group `g` (R162, R170, R171): it is recorded unless an earlier one stands, and the pair is frozen and LOCKSTEP trips. While CMP_FAIL is 1 the freeze is disabled; in P3 the difference fails the comparator's test instead (R170). -/
def pairMismatch (g : Nat) (a b : BitVec 16) (pinj : Bool) (s : State) : State :=
  let first := s.dhd.mism.isNone
  let s := evt pgDhd 0 (updDhd (fun d => { d with
    mism := if first then some (pinj, g, BitVec.ofNat 16 (groupBits g a), BitVec.ofNat 16 (groupBits g b)) else d.mism,
    mismTime := if first then now s else d.mismTime }) s)
  if inP3 s then updDhd (fun d => { d with cmpFail := true, injFail := setBit d.injFail g true }) s
  else trip0 0x11 0 pgDhd (updDhd (fun d => { d with frozen := !d.cmpFail, lockstep := d.lockstep && d.cmpFail }) s)

/-- LOCKSTEP_MISMATCH (R158 to R164, R167, R168, R170, R171): one cycle of the comparator. The outputs of the cycle are released if no compared group differs, and withheld otherwise. A frozen pair compares nothing; in SPLIT the comparator is disabled and outputs are released without comparison (R182). A halted or stopped core has no output. -/
def execLockstepMismatch (g : List (Fin 64 × BitVec 16 × BitVec 16)) (a : PairGates) (b : List PairOut × Option PairRead) (pinj : Option (BitVec 16 × BitVec 16)) (s : State) : Res :=
  if s.dhd.frozen then .next s
  else
    let run := coresRun s
    let s := match b.2 with | some r => if run then rendezvousRead r s else s | none => s
    let outs := if run then b.1 else []
    if s.dhd.split then .next (outs.foldl releaseOut s)
    else
      let inj := if run then pinj else none
      let bad := match inj with | some v => injectedGroup s.dhd v | none => []
      match lowestGroup (bad ++ flaggedGroups s.dhd.halted (inj.map fun _ => s.dhd.pinjGroup) { gates := a, outs := b.1, read := b.2, groups := g, inj := pinj }) with
      | none => .next (outs.foldl releaseOut s)
      | some x => .next (pairMismatch x.1 x.2.1 x.2.2 inj.isSome (evtIf (!bad.isEmpty) pgDhd 3 s))

/-- The lowest line that waits. -/
def firstLine (l : BitVec 32) : Option Nat := lowestBit l

/-- INTERRUPT_TAKEN (R166, R182): the rendezvous register has captured `lines`, and at the next instruction boundary the cores take the trap first, then the lowest line. In SPLIT the Host region's lines go to core B, every other line and the trap to core A. The firmware writes a console line for a trap (R378). -/
def execInterruptTaken (lines : BitVec 32) (s : State) : Res :=
  let s := updDhd (fun d => { d with lines := d.lines ||| lines }) s
  if s.dhd.frozen || s.dhd.halted then .next s
  else
    let mineA := if s.dhd.split then s.dhd.lines &&& ~~~Config.hostLines else s.dhd.lines
    let mineB := if s.dhd.split then s.dhd.lines &&& Config.hostLines else 0
    let takeB := fun (s : State) => match firstLine mineB with
      | some n => updDhd (fun d => { d with tookB := some (some n), lines := setBit d.lines n false }) s
      | none => s
    match s.fcr.traps with
    | _ :: rest =>
      let s := uartLine 64 { s with fcr := { s.fcr with traps := rest } }
      .next (takeB (updDhd (fun d => { d with tookA := some none, tookB := if d.split then d.tookB else some none }) s))
    | [] =>
      match firstLine mineA with
      | some n => .next (takeB (updDhd (fun d => { d with tookA := some (some n), tookB := if d.split then d.tookB else some (some n), lines := setBit d.lines n false }) s))
      | none => .next (takeB s)

/-- DEBUG_HALT (R167): honoured in SERVICE and SPLIT; otherwise refused and counted. -/
def execDebugHalt (s : State) : Res :=
  if s.sys.mode = .service ∨ s.sys.mode = .split then .next (updDhd (fun d => { d with halted := true }) s)
  else .next (report0 0x041 pgDhd (evt pgDhd 4 (updDhd (fun d => { d with haltRefused := satAdd 16 d.haltRefused 1 }) s)))

/-- DEBUG_RESUME (R167). -/
def execDebugResume (s : State) : Res := .next (updDhd (fun d => { d with halted := false }) s)

/-- The supervisor watchdog's time, 4 ms (R174). -/
abbrev wdogTime : Nat := 400000

/-- SUP_WDOG (R174): 4 ms have passed without a refresh. -/
def execSupWdog (s : State) : Res :=
  if !s.dhd.wdogOut && decide (s.dhd.wdogAt + wdogTime ≤ now s) then
    .next (report0 0x001 pgDhd (updDhd (fun d => { d with wdogOut := true }) s))
  else .next s

/-- The supervision routine reads its words of the TCM, on which an armed ERR_INJ acts (R174, R184). DESIGN CHOICE (log 129): 16 reads. -/
def superviseReads (s : State) : State := if coresRun s then (injectedReads 16 0x03F 0x040 pgDhd s).2 else s

/-- One periodic injection of R171 that finds exactly its difference: the position moves on. -/
def pinjNext (s : State) : State :=
  if s.dhd.split || !coresRun s then s
  else updDhd (fun d =>
    if d.pinjBit + 1 < groupWidth d.pinjGroup then { d with pinjBit := d.pinjBit + 1 }
    else if d.pinjGroup < 63 then { d with pinjBit := 0, pinjGroup := d.pinjGroup + 1 }
    else { d with pinjBit := 0, pinjGroup := 0, pinjRounds := satAdd 16 d.pinjRounds 1 }) s

/-- IDLE_PERIODIC_INJECTION (R171): every 100 µs while no scan runs. The firmware's idle supervision refreshes the watchdog with it (log 15). -/
def execIdlePeriodicInjection (s : State) : Res := if s.ilkl.scanning || scansRun s then .next s else .next (wdogRefresh (pinjNext (superviseReads s)))

/-- MISM_CLR (R184): ignored while the pair is frozen. -/
def mismClr (s : State) : State := if s.dhd.frozen then s else updDhd (fun d => { d with mism := none, mismTime := 0 }) s

/-- TICK_CLR (R184). -/
def tickClr (s : State) : State := updDhd (fun d => { d with tickMin := 0xFFFFF, tickMax := 0 }) s

/-- CNT_CLR of TAB (R185). -/
def tabCntClr (s : State) : State := updTab (fun t => { t with framesAB := 0, framesBA := 0 }) s

/-! ## Scan-tick supervision (R173) -/

/-- T_scan of the installed table, in µs. -/
def scanUs (s : State) : Nat := match curTable s with | some t => t.scanUs | none => 0

/-- C of the installed table. -/
def scanCost (s : State) : Nat := match curTable s with | some t => t.cost | none => 0

/-- Cause TICK. -/
def tickTrip (s : State) : State := trip0 0x0A 0 pgDhd (evt pgDhd 2 s)

/-- A scan-tick pulse `i` CLK_SYS cycles after the one before: the interval is reported, and TICK raised where it is not accepted; the first pulse since SCANNING was entered only opens the count. -/
def tickPulse (i : Nat) (s : State) : State :=
  if s.ilkl.ticks = 0 then updDhd (fun d => { d with tickOut := false }) s
  else
    let t := scanUs s
    let out := s.dhd.tickOut
    let n := min i 0xFFFFF
    let s := updDhd (fun d => { d with tickLast := n, tickMin := min d.tickMin n, tickMax := max d.tickMax n, tickOut := false }) s
    if i < 400 * (t - 1) ∨ (i > 400 * (t + 1) ∧ out = false) then tickTrip s else s

/-- TICK_TIMEOUT (R173): no pulse by 400 × (T_scan + 1) + 1 cycles. -/
def execTickTimeout (s : State) : Res :=
  if scanningRuns s && s.ilkl.ticks != 0 && !s.dhd.tickOut then .next (tickTrip (updDhd (fun d => { d with tickOut := true }) s)) else .next s

/-! ## Frames (R176 to R179) -/

/-- TYPE expected at a position (Table DHD-5). -/
def typeAt (p : Nat) : Nat := match p with | 1 => 2 | 4 => 3 | 5 => 4 | _ => 1

/-- LEN of a type (Table DHD-4). -/
def lenOf (typ : Nat) : Nat := match typ with | 2 => 20 | 3 => 65 | _ => 0

/-- The 94 compared bits of a header (R176): EPOCH, TYPE, PHASE, SEQ, LEN and TAG. -/
def barrierBits (h : BitVec 128) : List Bool :=
  ((List.range 128).filter fun i => decide (i ≤ 38) || (decide (40 ≤ i) && decide (i ≤ 62)) || decide (96 ≤ i)).map fun i => h.getLsbD i

/-- A field of a header. -/
def hBits (h : BitVec 128) (lo w : Nat) : Nat := h.toNat / 2 ^ lo % 2 ^ w

/-- CRC-32C of a frame's header and payload. -/
def frameCrc (f : TabFrame) : Word32 := crc32c (wordsBytes (f.header :: f.payload))

/-- TAG of a channel: bits [31:0] of the hash of the table it holds. -/
def tagOf (c : Chan) (s : State) : Nat := match (chanIlk s c).table with | some t => leAt t.hash 0 4 | none => 0

/-- The next position of a direction: A to B is that of channel A. -/
def posOf (s : State) : Chan → Nat
  | .a => s.tab.posA | .b => s.tab.posB

/-- The channel a direction delivers to. -/
def otherChan : Chan → Chan
  | .a => .b | .b => .a

/-- Source `n` of a channel: the B source follows the A source (Table FCR-2). -/
def chanSrc (c : Chan) (n : Nat) : Nat := match c with | .a => n | .b => n + 1

/-- Code of a channel in TRIP_CAUSE.CHAN. -/
def chanBit : Chan → Nat
  | .a => 1 | .b => 2

/-- A channel has detected a cause. -/
def causeOfChan (c : Chan) (x : Cause) : Bool := (match c with | .a => x.chan % 2 | .b => x.chan / 2 % 2) == 1

/-- A channel has detected a cause in this scan. -/
def chanTripped (c : Chan) (s : State) : Bool := s.ilkl.causes.any (causeOfChan c)

/-- The first failure since the trip latch was clear stays in FAIL_INFO; of two found in the same cycle the A-to-B failure is recorded (R178). -/
def keepsFail (src : Chan) (same : Bool) (e : Word32) (t : Tab) : Bool :=
  match t.failInfo with
  | none => false
  | some v => !(same && src == .a && bitOf v 8 && t.failEpoch == e)

/-- An exchange failure at position `p` is recorded and cause EXCHANGE is raised for `chans` (R178, Table DHD-9). DESIGN CHOICE (log 130): a failure that belongs to no direction (BARRIER, PINJ, INJ) shows DIR 0 and channel A's position. -/
def exchangeTrip (src : Chan) (reason word chans p : Nat) (same : Bool) (s : State) : State :=
  let info := flag 31 true ||| fld 16 8 word ||| fld 12 4 (typeAt p) ||| fld 9 3 p ||| flag 8 (src == .b) ||| fld 0 4 reason
  let e := tripEpochNow s
  let keep := keepsFail src same e s.tab
  trip0 0x03 chans pgTab (updTab (fun t => { t with failInfo := if keep then t.failInfo else some info, failEpoch := if keep then t.failEpoch else e }) s)

/-- The channels concerned take no further frame in this scan (R178). -/
def stopChans (chans : Nat) (s : State) : State :=
  updTab (fun t => { t with failedA := t.failedA || chans % 2 == 1, failedB := t.failedB || chans / 2 % 2 == 1 }) s

/-- A failure found in one direction is raised for the channel it delivers to. -/
def dirFail (src : Chan) (reason word : Nat) (same : Bool) (s : State) : State :=
  let chans := match src with | .a => 2 | .b => 1
  exchangeTrip src reason word chans (posOf s src) same (evt pgTab 0 (stopChans chans s))

/-- The checks the Tablet makes of a frame at the next position of its direction, in the order of R178: the reason and word of the first that fails. DESIGN CHOICE (log 130): WORD is 0xFF for a field of the header that R178 checks for its value and for the CRC, 0 or LEN + 1 where a bit of the header or trailer must be 0; VERDICT and CAUSE of a frame that is no VERDICT are such bits. -/
def tabletCheck (src : Chan) (f : TabFrame) (s : State) : Option (Nat × Nat) :=
  let p := posOf s src
  let typ := hBits f.header 32 4
  let len := hBits f.header 56 7
  if f.trailer.setWidth 32 ≠ frameCrc f then some (0x1, 0xFF)
  else if hBits f.header 40 16 ≠ p ∨ typ ≠ typeAt p then some (0x3, 0xFF)
  else if len ≠ lenOf typ ∨ f.payload.length ≠ len then some (0x4, 0xFF)
  else if f.header.getLsbD 39 ≠ (src == .b) then some (0x5, 0xFF)
  else if f.header.getLsbD 63 || hBits f.header 70 26 != 0 || (typ != 4 && hBits f.header 64 6 != 0) then some (0xB, 0)
  else if f.trailer >>> 32 ≠ 0 then some (0xB, len + 1)
  else none

/-- The checks the receiver makes of a delivered frame (R178). -/
def receiverCheck (src : Chan) (f : TabFrame) (s : State) : Option (Nat × Nat) :=
  let c := otherChan src
  match f.inbound.find? fun e => e.2 == .uncorrectable with
  | some e => some (0x8, e.1)
  | none =>
    if f.rxCorrupt then some (0x2, 0xFF)
    else if hBits f.header 40 16 ≠ (chanIlk s c).rxNext ∨ hBits f.header 32 4 ≠ typeAt (chanIlk s c).rxNext then some (0x3, 0xFF)
    else if hBits f.header 0 32 ≠ (nextEpoch s.sys.epoch).toNat then some (0x6, 0xFF)
    else if hBits f.header 96 32 ≠ tagOf c s then some (0x7, 0xFF)
    else none

/-- A corrected word of a channel's signal memory: MEM_CORR (Table ILK-8). -/
def memCorr (c : Chan) (w : Nat) (r : ReadOut) (s : State) : State :=
  reportRead (chanSrc c 0x03A) (chanSrc c 0x03A) (pgIlk c) w r (evt (pgIlk c) 3 s)

/-- The corrected words of the inbound area a receiver meets. -/
def inboundReads (c : Chan) (l : List (Nat × WordCheck)) (s : State) : State :=
  l.foldl (fun s e =>
    let r : ReadOut := { check := e.2, synd := wordSynd e.2 (rawSyndrome e.2 s.free), injected := false }
    match e.2 with
    | .good => s
    | .uncorrectable => s
    | .single _ => memCorr c e.1 r s
    | .adjacent _ => memCorr c e.1 r s) s

/-- A frame of the direction from `src` was accepted: it is counted, and the next position is expected. -/
def frameTaken (src : Chan) (s : State) : State :=
  match src with
  | .a => updTab (fun t => { t with posA := t.posA + 1, framesAB := satAdd 32 t.framesAB 1 }) s
  | .b => updTab (fun t => { t with posB := t.posB + 1, framesBA := satAdd 32 t.framesBA 1 }) s

/-- Payload words of a RESULT frame as a result vector. -/
def payloadVec (l : List (BitVec 128)) : BitVec 8320 := BitVec.ofNat 8320 (l.foldr (fun w n => w.toNat + 2 ^ 128 * n) 0)

/-- A result vector as the 65 payload words of a RESULT frame. -/
def vecPayload (v : BitVec 8320) : List (BitVec 128) := (List.range 65).map fun i => (v >>> (128 * i)).setWidth 128

/-- Words as a memory holds them, with their check bits (R50, R51). -/
def codeWords (page cell : Nat) (l : List (BitVec 128)) : List (BitVec 140) :=
  (List.range l.length).map fun i => wordEncode (lGet l i 0) (memoryHome page cell i)

/-- The words of a frame. -/
def frameWords (f : TabFrame) : List (BitVec 128) := f.header :: f.payload ++ [f.trailer]

/-- The words of a frame stand in its mailbox (R175). -/
def mailboxHolds (src : Chan) (f : TabFrame) (s : State) : State :=
  updTab (fun t => match src with
    | .a => { t with mbxAB := codeWords pgTab 0 (frameWords f), writeErr := false }
    | .b => { t with mbxBA := codeWords pgTab 1 (frameWords f), writeErr := false }) s

/-- The Tablet reads `n` words of a mailbox, from word `w` on, under R26 and R179: the word that stays uncorrectable, if one does. `l` is what the array gives for disturbed words. -/
def mailboxReads (src : Chan) (l : List (Nat × WordCheck)) : Nat → Nat → State → Option Nat × State
  | 0, _, s => (none, s)
  | n + 1, w, s =>
    let k := ((l.find? fun e => e.1 == w).map Prod.snd).getD .good
    let r := readRetry pgTab (match src with | .a => 0 | .b => 1) k s
    match r.1.check with
    | .uncorrectable => (some w, r.2)
    | .good => mailboxReads src l n (w + 1) r.2
    | .single _ => mailboxReads src l n (w + 1) (reportRead 0x042 0x042 pgTab w r.1 (evt pgTab 2 r.2))
    | .adjacent _ => mailboxReads src l n (w + 1) (reportRead 0x042 0x042 pgTab w r.1 (evt pgTab 2 r.2))

/-- The position of the next frame a receiver expects after position `p`: 1, 4 and 5 are delivered (Table DHD-5). -/
def nextDelivered (p : Nat) : Nat := if p < 4 then 4 else p + 1

/-- A frame stands in the inbound area of the channel it is delivered to (R175), and is counted. -/
def arrives (src : Chan) (f : TabFrame) (s : State) : State :=
  let c := otherChan src
  frameTaken src (issue .tabletFrame pgTab (pgIlk c) (f.payload.length + 2)
    (updIlk c (fun k => { k with inbound := codeWords (pgIlk c) 0 (frameWords f), rxNext := nextDelivered k.rxNext }) s))

/-- A delivered frame as the other channel uses it. -/
def deliver (src : Chan) (f : TabFrame) (s : State) : State :=
  match hBits f.header 32 4 with
  | 2 => updIlk (otherChan src) (fun k => { k with other := parseSample f.payload }) s
  | 3 => updIlk (otherChan src) (fun k => { k with otherResult := some (payloadVec f.payload) }) s
  | 4 => updIlk (otherChan src) (fun k => { k with otherVerdict := some (f.header.getLsbD 64) }) s
  | _ => s

/-- A barrier frame of position `p` waits for the other channel's, or is compared with it (R180). -/
def barrier (src : Chan) (p : Nat) (h : BitVec 128) (s : State) : State :=
  let s := match src with
    | .a => updTab (fun t => { t with waitA := some h }) s
    | .b => updTab (fun t => { t with waitB := some h }) s
  match s.tab.waitA, s.tab.waitB with
  | some a, some b =>
    let s := updTab (fun t => { t with waitA := none, waitB := none }) s
    if barrierBits a = barrierBits b then updTab (fun t => { t with phase := hBits h 36 3 }) s
    else exchangeTrip .a 0x9 0xFF 3 p false (evt pgTab 1 (evt pgTab 0 (stopChans 3 s)))
  | _, _ => s

/-- A barrier stands at the position. -/
def isBarrierPos (p : Nat) : Bool := typeAt p == 1

/-- The barrier before a position has been released to a channel. -/
def barrierPassed (src : Chan) (p : Nat) (s : State) : Bool :=
  match ((List.range p).filter isBarrierPos).getLast? with
  | some b => decide (posOf s (otherChan src) > b)
  | none => true

/-- The channel may send the frame of its next position: the barrier before it has been released, and the scan has come to the phase the frame is sent in. -/
def maySend (src : Chan) (s : State) : Bool :=
  let p := posOf s src
  let ph := s.ilkA.phase
  decide (p < 8) && barrierPassed src p s &&
    (if p ≤ 2 then decide (ph ≤ 1) else if p ≤ 6 then ph == 2 || ph == 3 else ph == 4)

/-- A frame of this direction has failed in this scan. -/
def dirStopped (src : Chan) (s : State) : Bool := match src with | .a => s.tab.failedB | .b => s.tab.failedA

/-- TABLET_FRAME (R178): a frame written to the mailbox of channel `src` is checked, then delivered or compared, or it fails. In SPLIT the write completes with an error response and is discarded (R182). -/
def execTabletFrame (src : Chan) (f : TabFrame) (s : State) : Res :=
  if s.tab.split then .next (updTab (fun t => { t with writeErr := true }) s)
  else if !s.ilkl.scanning || dirStopped src s || s.ilkl.committed && posOf s src < 6 || !maySend src s then .next s
  else
    let s := issue .tabletFrame (pgIlk src) pgTab (f.payload.length + 2) (mailboxHolds src f s)
    let r := mailboxReads src f.mbx (f.payload.length + 2) 0 s
    match r.1 with
    | some w => .next (dirFail src 0x8 w f.sameCycle r.2)
    | none =>
      match tabletCheck src f r.2 with
      | some x => .next (dirFail src x.1 x.2 f.sameCycle r.2)
      | none =>
        let p := posOf r.2 src
        if isBarrierPos p then .next (barrier src p f.header (frameTaken src r.2))
        else
          let s := inboundReads (otherChan src) f.inbound r.2
          match receiverCheck src f s with
          | some x => .next (dirFail src x.1 x.2 f.sameCycle s)
          | none => .next (arrives src f (deliver src f s))

/-- PHASE of the frame at a position: the phase it is sent in (Table DHD-5). -/
def phaseAt (p : Nat) : Nat := match p with | 0 => 0 | 1 => 1 | 2 => 1 | 3 => 2 | 7 => 4 | _ => 3

/-- The header a channel's own hardware writes at a position (Table DHD-4). -/
def ownHeader (src : Chan) (p : Nat) (s : State) : BitVec 128 :=
  let l := s.ilkl.causes.filter (causeOfChan src)
  BitVec.ofNat 128 ((nextEpoch s.sys.epoch).toNat + 2 ^ 32 * typeAt p + 2 ^ 36 * phaseAt p + (if src == .b then 2 ^ 39 else 0) + 2 ^ 40 * p +
    2 ^ 56 * lenOf (typeAt p) + (if p = 5 ∧ !l.isEmpty then 2 ^ 64 + 2 ^ 65 * (lowestCause l).code else 0) + 2 ^ 96 * tagOf src s)

/-- The frame a channel's own hardware sends at a position (Table DHD-5). -/
def ownFrame (src : Chan) (p : Nat) (s : State) : TabFrame :=
  let k := chanIlk s src
  let body : TabFrame := { header := ownHeader src p s, payload := if p = 1 then heldSample src k.own else if p = 4 then vecPayload (resultVec k) else [], trailer := 0 }
  { body with trailer := (frameCrc body).setWidth 128 }

/-- What the other channel takes from a channel's own frame: what was sent, as it was sent. -/
def deliverOwn (src : Chan) (p : Nat) (s : State) : State :=
  let k := chanIlk s src
  let v := chanTripped src s
  updIlk (otherChan src) (fun o => if p = 1 then { o with other := k.own } else if p = 4 then { o with otherResult := some (resultVec k) } else { o with otherVerdict := some v }) s

/-- A channel sends the frame of position `p` itself, unless TABLET_FRAME gave it or the direction has stopped: the Tablet reads it from the mailbox and delivers or compares it (R177 to R180). -/
def sendOwn (p : Nat) (src : Chan) (s : State) : State :=
  if posOf s src ≠ p || dirStopped src s || !barrierPassed src p s then s
  else
    let f := ownFrame src p s
    let s := issue .tabletFrame (pgIlk src) pgTab (lenOf (typeAt p) + 2) (mailboxHolds src f s)
    let r := mailboxReads src [] (lenOf (typeAt p) + 2) 0 s
    match r.1 with
    | some w => dirFail src 0x8 w false r.2
    | none => if isBarrierPos p then barrier src p f.header (frameTaken src r.2) else arrives src f (deliverOwn src p r.2)

/-- Both directions send their frames of Table DHD-5 below position `p`, in order. -/
def tabRunTo (p : Nat) (s : State) : State := (List.range p).foldl (fun s q => sendOwn q .b (sendOwn q .a s)) s

/-- No frame has failed in this scan, so the channels can go on. -/
def tabOk (s : State) : Bool := s.tab.split || (!s.tab.failedA && !s.tab.failedB)

/-- The Tablet at a scan start (R177): both mailboxes are cleared. -/
def tabScanStart (s : State) : State :=
  updTab (fun t => { t with phase := 7, posA := 0, posB := 0, failedA := false, failedB := false, waitA := none, waitB := none, mbxAB := [], mbxBA := [] }) s

/-- The Tail's barrier test pair (R172): `missed` says that the difference was not flagged. The bits rotate in either case. -/
def tabPinj (missed : Bool) (s : State) : State :=
  if s.tab.split then s
  else
    let s := updTab (fun t => if t.pinjBit + 1 < 94 then { t with pinjBit := t.pinjBit + 1 } else { t with pinjBit := 0, pinjRounds := satAdd 16 t.pinjRounds 1 }) s
    if missed then exchangeTrip .a 0xA 0xFF 3 (posOf s .a) false (evt pgTab 3 s) else s

end Sys2Proof.Machine
end

