-- ==== Sys2Proof/Machine/Sample.lean ====
section
/-! DEFINITION. The Sample phase: what each channel takes from the tile link controllers (R67 to R70, R75, R205, R207, R219). -/

namespace Sys2Proof.Machine

/-- The link controller of a tile position. -/
def linkOf (s : State) (p : Nat) : Link := vGet s.links p {}

/-- Change a link controller. -/
def updLink (p : Nat) (f : Link → Link) (s : State) : State := { s with links := vUpd s.links p f }

/-- The stream a channel reads: a field tile has one; a safety output tile has one for each channel (R75, R219). -/
def streamFor (c : Chan) (p : Nat) (l : Link) : Stream := if p < 6 then l.a else match c with | .a => l.a | .b => l.b

/-- The latest frame is older than 10 µs, or the link is down (R75, R195). -/
def frameStale (c : Chan) (p : Nat) (s : State) : Bool :=
  let l := linkOf s p
  !l.up || (match (streamFor c p l).lastAt with | none => true | some t => decide (t + 1000 < now s))

/-- Bits of a tile whose value a function of the pin gives. -/
def tileBits (n : Nat) (f : Nat → Bool) : BitVec 16 := BitVec.ofNat 16 ((List.range n).foldr (fun i m => (if f i then 1 else 0) + 2 * m) 0)

/-- Pins of a tile that Assay has not marked unusable (R396) and that are not isolated as cells of the tile (R26). -/
def usablePins (s : State) (p : Nat) : BitVec 16 := tileBits (if p < 6 then 16 else 8) fun n =>
  !s.ast.unusable.getLsbD (if p < 6 then 16 * p + n else 96 + 8 * (p - 6) + n) && !(cellIsolated s (pgTile p) n)

/-- Pins a channel owns in a tile (R68). -/
def ownBits (c : Chan) (t : Table) (p : Nat) (s : State) : BitVec 16 :=
  if p < 6 then tileBits 16 fun n => let k := cfgTerm (pinCfg t.pins (16 * p + n)); k == 3 || k == (match c with | .a => 1 | .b => 2)
  else tileBits 8 fun n => outEn (vGet (linkOf s p).cfg n 0)

/-- Levels a channel sees in a tile. -/
def stateBits (c : Chan) (p : Nat) (s : State) : BitVec 16 :=
  let f := (streamFor c p (linkOf s p)).last
  if p < 6 then (match c with | .a => f.stA | .b => f.stB) else f.stA

/-- Pins the link controller reports invalid: the configuration cases of R198, and the first Sample phase after a lost edge (R205). -/
def linkInvalid (c : Chan) (l : Link) : BitVec 16 :=
  (if l.cfgMismatch then 0xFFFF else if l.cfgWait > 0 then l.cfgChanged else 0) ||| (match c with | .a => l.onceA | .b => l.onceB)

/-- Valid pins of a tile before ownership (R69, R205, R219). A safety output tile's supply state is that of its worse side (R212), and its pins are invalid until a snapshot has been applied since the link came up (R196). -/
def validBits (c : Chan) (p : Nat) (s : State) : BitVec 16 :=
  let l := linkOf s p
  let f := (streamFor c p l).last
  if frameStale c p s || s.ast.unusableTiles.getLsbD p then 0
  else
    let base := if p < 6 then f.valid
      else if l.a.last.supply == .qualifying || l.b.last.supply == .qualifying || f.wdogHold || !f.timed then 0
      else tileBits 8 fun n => outEn (vGet l.cfg n 0)
    base &&& ~~~(linkInvalid c l) &&& usablePins s p

/-- The tile masks as one vector over the pins (R67). -/
def pinVector (v : Variant) (f : Nat → BitVec 16) : BitVec 112 :=
  (List.range 8).foldl (fun m p => if tilePresent v p then m ||| ((f p).setWidth 112 <<< tilePin p 0) else m) 0

/-- The pins the pin map flags as time-stamped. -/
def tsPins (t : Table) : BitVec 112 := BitVec.ofNat 112 ((List.range 112).foldr (fun i m => (if (if i < 96 then cfgTs (pinCfg t.pins i) else outTs (pinCfg t.pins i)) then 1 else 0) + 2 * m) 0)

/-- Order of edge times around the present (R119). -/
def edgeKey (s : State) (e : Edge) : Nat := (e.time + 2 ^ 48 + 2 ^ 47 - now s / 5 % 2 ^ 48) % 2 ^ 48

/-- An entry that waits in a tile FIFO: the tile, its place in the FIFO, and the edge. -/
structure Waiting where
  tile : Nat
  place : Nat
  edge : Edge
  deriving DecidableEq, Repr

/-- Insert an entry in ascending order of TIME; equal times keep their order. -/
def insEdge (key : Edge → Nat) (x : Waiting) : List Waiting → List Waiting
  | [] => [x]
  | y :: t => if key x.edge < key y.edge then x :: y :: t else y :: insEdge key x t

/-- The entries of a tile FIFO that wait for a channel: those of time-stamped pins on its path. `i` is the place of the first. -/
def waitingIn (c : Chan) (ts : BitVec 112) (p : Nat) : Nat → List FifoEdge → List Waiting
  | _, [] => []
  | i, e :: t => if e.path == c && ts.getLsbD e.edge.pin then { tile := p, place := i, edge := e.edge } :: waitingIn c ts p (i + 1) t else waitingIn c ts p (i + 1) t

/-- The entries that wait for a channel, by TIME (R70). -/
def waitingEdges (c : Chan) (ts : BitVec 112) (s : State) : List Waiting :=
  ((List.range 8).flatMap fun p => waitingIn c ts p 0 (linkOf s p).fifo).foldl (fun l x => insEdge (edgeKey s) x l) []

/-- A tile FIFO without the entries at the places taken (R207). -/
def dropTaken (taken : List Nat) : Nat → List FifoEdge → List FifoEdge
  | _, [] => []
  | i, e :: t => if taken.contains i then dropTaken taken (i + 1) t else e :: dropTaken taken (i + 1) t

/-- A channel builds its sample vector and removes the entries it takes from the tile FIFOs. -/
def sampleChan (c : Chan) (t : Table) (epoch : Word32) (s : State) : State :=
  let ts := tsPins t
  let w := waitingEdges c ts s
  let took := w.take 32
  let own := pinVector s.variant fun p => ownBits c t p s
  let stale := (List.range 8).foldl (fun (m : BitVec 8) p => setBit m p (tilePresent s.variant p && frameStale c p s)) 0
  let back := (List.range 8).any fun p => tilePresent s.variant p && (streamFor c p (linkOf s p)).last.backlog
  let v : SampleVec :=
    { epoch := epoch, chan := c, edgeOvf := decide (w.length > 32) || back, stale := stale,
      st := (pinVector s.variant fun p => stateBits c p s) &&& own, valid := (pinVector s.variant fun p => validBits c p s) &&& own, own := own,
      edges := took.map Waiting.edge }
  let s := (List.range 8).foldl (fun s p =>
    updLink p (fun l => { l with fifo := dropTaken ((took.filter fun x => x.tile == p).map Waiting.place) 0 l.fifo,
                                 onceA := if c == .a then 0 else l.onceA, onceB := if c == .b then 0 else l.onceB }) s) s
  updIlk c (fun k => { k with own := v }) s

/-- The inbound frames the channels take, as the EPOCH window shows them (R338). -/
def takenFrames (split : Bool) (s : State) : List (List Byte) :=
  (List.range 8).map fun p =>
    let l := linkOf s p
    if !tilePresent s.variant p then zeros 72
    else if p < 6 then (if l.a.lastAt.isSome then ftFrameBytes l.a.last else zeros 72)
    else (if l.a.lastAt.isSome then sotFrameBytes .a l.a.last else zeros 36) ++ (if l.b.lastAt.isSome && !split then sotFrameBytes .b l.b.last else zeros 36)

end Sys2Proof.Machine
end

