-- ==== Sys2Proof/Machine/Evaluate.lean ====
section
/-! DEFINITION. The Evaluate phase: prologue, blocks in the channel's order, epilogue (R76, R65, R116), with the memory errors of Table ILK-8. -/

namespace Sys2Proof.Machine

/-- A word signal of a channel in true form. -/
def trueWord (c : Chan) (v : BitVec 16) : Int := (encWord c v).toInt

/-- Write a value to a signal of the context. -/
def ctxWrite (c : Ctx) (x : Ref × Val) : Ctx :=
  match x.2 with
  | .b v => if x.1.kind = 0 then { c with cur := setBit c.cur x.1.index v } else c
  | .w v => if x.1.kind = 1 then { c with wcur := lSet c.wcur x.1.index v } else c

/-- The constants of R64 and of the CONSTANTS section (R76, R537). -/
def writeConstants (t : Table) (c : Ctx) : Ctx :=
  let c := { c with cur := setBit (setBit c.cur 0 false) 1 true, prev := setBit (setBit c.prev 0 false) 1 true }
  t.consts.foldl (fun (c : Ctx) (k : Const) =>
    let on := k.value != (0 : BitVec 16)
    if k.kind = 0 then { c with cur := setBit c.cur k.index on, prev := setBit c.prev k.index on }
    else { c with wcur := lSet c.wcur k.index k.value.toInt, wprev := lSet c.wprev k.index k.value.toInt }) c

/-- State signals at their start-up values: FALSE or 0 (R123). -/
def clearState (t : Table) (c : Ctx) : Ctx :=
  t.blocks.foldl (fun c k => (stateRefs k).foldl (fun c r => ctxWrite c (r, if r.kind = 0 then .b false else .w 0)) c) c

/-- Block `i` of a table runs: from the state its state signals hold to the values of its outputs and of its state signals (R115). -/
def runOne (t : Table) (i : Nat) (x : Ctx × List BlkMem) : Ctx × List BlkMem :=
  match t.blocks[i]? with
  | none => x
  | some k =>
    let r := runBlk x.1 k (loadState x.1 k (lGet x.2 i {}))
    ((r.2.filter (fun o => o.1.kind != 3) ++ stateWrites x.1 k r.1).foldl ctxWrite x.1, lSet x.2 i r.1)

/-- The order of a channel (R65). -/
def orderOf (c : Chan) (t : Table) : List Nat := match c with | .a => List.range t.blocks.length | .b => t.orderB

/-- What a channel sees at the start of its Evaluate phase. -/
def evalCtx (c : Chan) (t : Table) (f : EvalFault) (s : State) : Ctx :=
  let k := chanIlk s c
  let split := s.sys.mode == .split
  let w := k.words.toList.map (trueWord c)
  { cur := encBools c k.bools, prev := encBools c k.bools, wcur := w, wprev := w,
    a := match c with | .a => k.own | .b => k.other, b := match c with | .a => (if split then {} else k.other) | .b => k.own,
    split := split, ts := tsPins t, s := (s.ilkl.scanS + f.tickSkew) % 2 ^ 48, first := k.first, restart := k.first || s.ilkl.restart }

/-- Word 64 of a channel's result vector (Table ILK-4). -/
def epilogue (epoch digest : Word32) (t : Table) (n : Nat) : BitVec 128 :=
  BitVec.ofNat 128 (epoch.toNat + 2 ^ 32 * digest.toNat + 2 ^ 64 * leAt t.hash 0 4 + 2 ^ 96 * (n % 2048))

/-- Bits a fault in the channel's hardware inverts in its result. -/
def applyFlips (l : List Nat) (k : Ilk) : Ilk :=
  if l.isEmpty then k
  else
    let v := l.foldl (fun (v : BitVec 8320) i => v ^^^ BitVec.ofNat 8320 (2 ^ i)) (resultVec k)
    { k with bools := v.setWidth 4096, words := unpackWords ((v >>> 4096).setWidth 4096), word64 := (v >>> 8192).setWidth 128 }

/-- The signals a channel computes. -/
def evalSignals (c : Chan) (t : Table) (f : EvalFault) (s : State) : State :=
  let k := chanIlk s c
  let x0 := evalCtx c t f s
  let x1 := writeConstants t (if k.first then clearState t x0 else x0)
  let mem := if k.first || k.mem.length != t.blocks.length then t.blocks.map fun _ => ({} : BlkMem) else k.mem
  let r := (orderOf c t).foldl (fun x i => runOne t i x) (x1, mem)
  let n := (orderOf c t).length
  updIlk c (fun k => applyFlips f.flips { k with
    prevBools := k.bools, prevWords := k.words, scanTime := x0.s, execNow := n, ran := true, mem := r.2,
    bools := encBools c r.1.cur, words := Vector.ofFn fun i => encWord c (BitVec.ofInt 16 (lGet r.1.wcur i.val 0)),
    word64 := epilogue (nextEpoch s.sys.epoch) k.digest t n }) s

/-- A word of the signal memory holds a significant bit (Table ILK-8). -/
def wordSignificant (t : Table) (w : Nat) : Bool := (t.mask >>> (128 * w)).setWidth 128 != (0 : BitVec 128)

/-- A word-code result in a channel's signal memory (Table ILK-8). -/
def sigOutcome (c : Chan) (t : Table) (w : Nat) (r : ReadOut) (s : State) : State :=
  match r.check with
  | .good => s
  | .uncorrectable =>
    if wordSignificant t w then trip0 0x0B (chanBit c) (pgIlk c) s
    else reportAs { src := chanSrc c 0x03C, synd := r.synd, detail := w, page := pgIlk c, injected := r.injected }
      (evt (pgIlk c) 4 (updIlk c (fun k => { k with rewrite := k.rewrite ++ [w] }) s))
  | .single _ => memCorr c w r s
  | .adjacent _ => memCorr c w r s

/-- What the array gives for a disturbed word of a channel's memory; `e` is the word and its outcome. -/
def arrayRead (e : Nat × WordCheck) (s : State) : ReadOut × State :=
  ({ check := e.2, synd := wordSynd e.2 (rawSyndrome e.2 s.free), injected := false },
   if e.2 = .uncorrectable then { s with free := s.free + 1 } else s)

/-- A disturbed word of a channel's signal memory. -/
def sigError (c : Chan) (t : Table) (s : State) (e : Nat × WordCheck) : State :=
  let r := arrayRead e s
  sigOutcome c t e.1 r.1 r.2

/-- A disturbed word of a channel's table memory (Table ILK-8): any uncorrectable word trips. -/
def tblError (c : Chan) (s : State) (e : Nat × WordCheck) : State :=
  let r := arrayRead e s
  match e.2 with
  | .good => s
  | .uncorrectable => trip0 0x0B (chanBit c) (pgIlk c) r.2
  | .single _ => memCorr c e.1 r.1 r.2
  | .adjacent _ => memCorr c e.1 r.1 r.2

/-- The signal-memory words a channel reads, in its order: those of the inputs of each block, then those of its state (R115). -/
def wordsRead (c : Chan) (t : Table) : List Nat :=
  ((orderOf c t).filterMap fun i => t.blocks[i]?).flatMap fun k =>
    (inputRefs k ++ stateRefs k).filterMap fun r => if r.kind = 0 then some (r.index / 128) else if r.kind = 1 then some (32 + r.index / 8) else none

/-- Reads of the words named through the channel's read port, which ERR_INJ acts on (R91, R385), while it is armed or the memory is isolated (R26). -/
def readSigs (c : Chan) (t : Table) : List Nat → State → State
  | [], s => s
  | w :: rest, s =>
    if (hdr s (pgIlk c)).injCount = 0 ∧ cellIsolated s (pgIlk c) 0 = false then s
    else
      let r := readRetry (pgIlk c) 0 .good s
      readSigs c t rest (sigOutcome c t w r.1 r.2)

/-- A word signal read as 0x8000 (R63). -/
def reads8000 (c : Chan) (t : Table) (s : State) : Bool :=
  let k := chanIlk s c
  t.blocks.any fun b => (inputRefs b).any fun r => r.kind == 1 && vGet (if r.prev then k.prevWords else k.words) r.index 0 == 0x8000

/-- The Evaluate phase of a channel, with the table it holds. -/
def evalChan (c : Chan) (f : EvalFault) (s : State) : State :=
  match (chanIlk s c).table with
  | none => s
  | some t =>
    let s := readSigs c t (wordsRead c t) s
    let s := f.sig.foldl (sigError c t) s
    let s := f.tbl.foldl (tblError c) s
    let s := evalSignals c t f s
    if f.bad8000 || reads8000 c t s then trip0 0x0C (chanBit c) (pgIlk c) s else s

end Sys2Proof.Machine
end

