-- ==== Sys2Proof/Machine/Scan.lean ====
section
/-! DEFINITION. The scan: its start, its phases and deadlines, the compare, the commit and its epoch buffer, the command images and the Tail (R54 to R56, R72 to R82, R87 to R95). -/

namespace Sys2Proof.Machine

/-- A mode in which channel B does not scan (R82). -/
def splitScan (s : State) : Bool := s.sys.mode == .split

/-- Both evaluators, or A alone in SPLIT, enter a phase. -/
def setPhase (n : Nat) (s : State) : State :=
  let split := splitScan s
  { s with ilkA := { s.ilkA with phase := n }, ilkB := if split then s.ilkB else { s.ilkB with phase := n } }

/-- The phase `i` of the scan ended in cycle `c` (Table ILK-26). -/
def endPhase (i c : Nat) (s : State) : State :=
  let d := c - s.ilkl.phaseStart
  let f := fun (k : Ilk) => { k with phaseCur := vSet k.phaseCur i d }
  let split := splitScan s
  { s with ilkA := f s.ilkA, ilkB := if split then s.ilkB else f s.ilkB, ilkl := { s.ilkl with phaseStart := c } }

/-- The durations of phases of the last committed scan, and the longest. -/
def notePhase (i : Nat) (s : State) : State :=
  let f := fun (k : Ilk) => let d := vGet k.phaseCur i 0
    { k with phaseLast := vSet k.phaseLast i (d % 2 ^ 20), phaseMax := vSet k.phaseMax i (max (vGet k.phaseMax i 0) (d % 2 ^ 20)) }
  let split := splitScan s
  { s with ilkA := f s.ilkA, ilkB := if split then s.ilkB else f s.ilkB }

/-- The deadline of a phase (Table ILK-5). -/
def deadline (i : Nat) (s : State) : Nat :=
  match i with
  | 0 => 400 | 1 => 1000 | 2 => 1200 + scanCost s | 3 => 2000 + scanCost s | _ => 2400 + scanCost s

/-! ## The commit (R55, R56) -/

/-- A channel's result vector in true form as bytes. -/
def resultBytes (c : Chan) (k : Ilk) : List Byte := leBytes 1040 (trueResult c (resultVec k)).toNat

/-- The phase durations of Sample to Output. -/
def durations (k : Ilk) : List Byte := ((List.range 5).map fun i => leBytes 4 (vGet k.phaseCur i 0)).flatten

/-- The boolean signal that drives an output is TRUE in a channel's result. -/
def outputOn (c : Chan) (t : Table) (p : Nat) (s : State) : Bool :=
  match (t.out.drive[p]?).getD none with
  | some g => (encBools c (chanIlk s c).bools).getLsbD g
  | none => false

/-- Outputs of a range of pins as a channel's result drives them. -/
def outputBits (c : Chan) (t : Table) (lo n : Nat) (s : State) : BitVec 96 :=
  BitVec.ofNat 96 ((List.range n).foldr (fun i m => (if outputOn c t (lo + i) s then 1 else 0) + 2 * m) 0)

/-- The command images of a channel under Table ILK-6: general outputs from channel A, safety outputs in RUN from the channel's own result; all off on TRIP or while a trip is latched. -/
def imageOf (c : Chan) (t : Table) (s : State) : Image :=
  let off := s.ilkl.trip || !s.ilkl.causes.isEmpty
  let rearm := (List.range 8).foldl (fun (m : BitVec 8) p =>
    setBit m p (match (t.out.rearm[p]?).getD none with | some g => (encBools c (chanIlk s c).bools).getLsbD g | none => false)) 0
  { epoch := s.sys.epoch, at_ := now s,
    sot := if off || s.sys.mode != .run then 0 else (outputBits c t 96 16 s).setWidth 16,
    field := if off || c == .b then 0 else outputBits .a t 0 96 s, rearm := rearm }

/-- The SNAPSHOT body of the epoch that commits (Table JRN-4). -/
def epochBody (t : Table) (s : State) : List Byte :=
  let split := splitScan s
  let ia := imageOf .a t s
  let ib := imageOf .b t s
  let durs := (((List.range 4).map fun i => leBytes 4 (vGet s.ilkA.phaseCur i 0)).flatten) ++ zeros 4
  wordsBytes (sampleWords s.ilkA.own) ++ (if split then zeros 320 else wordsBytes (sampleWords s.ilkB.own)) ++
    resultBytes .a s.ilkA ++ (if split then zeros 1040 else resultBytes .b s.ilkB) ++
    leBytes 1 s.ilkl.verdict ++ leBytes 1 (modeCode s.sys.mode) ++ zeros 2 ++ leBytes 4 (causeMask s.ilkl.causes).toNat ++ durs ++ zeros 4 ++
    leBytes 12 ia.field.toNat ++ leBytes 1 (ia.sot.toNat % 256) ++ leBytes 1 (ib.sot.toNat % 256) ++ leBytes 1 (ia.sot.toNat / 256) ++ leBytes 1 (ib.sot.toNat / 256)

/-- EW_CRC (R339). -/
def bufCrc (body : List Byte) (frames : List (List Byte)) (epoch : Word32) (time : Nat) : Word32 :=
  crc32c (body ++ frames.flatten ++ leBytes 4 epoch.toNat ++ leBytes 8 time)

/-- A buffer that neither holds the latest epoch nor is pinned (R56, R57). -/
def freeBuf (e : Epochs) : Nat :=
  ((List.range 5).find? fun i => e.latest != some i && !(e.pins.any fun p => p == some i)).getD 0

/-- The filled buffer becomes the latest; the one before is freed unless it is pinned (R56). -/
def fillBuf (b : EpochBuf) (e : Epochs) : Epochs :=
  let i := freeBuf e
  let bufs := match e.latest with
    | some j => if e.pins.any fun p => p == some j then e.bufs else vSet e.bufs j none
    | none => e.bufs
  { e with bufs := vSet bufs i (some b), latest := some i }

/-- An evaluator commits an epoch. -/
def ilkCommit (e : Word32) (k : Ilk) : Ilk := { k with lastEpoch := e, blocksExec := k.execNow }

/-- The first commit after the boundary that closes a millisecond with dropped records keeps the epoch before it for their GAP record (R288). -/
def gapNote (s : State) : State :=
  if s.jrn.gapRecs ≠ 0 ∧ s.jrn.gapEpoch = none ∧ (s.jrn.gapMs + 1) * tbMs ≤ now s then { s with jrn := { s.jrn with gapEpoch := some s.sys.epoch } } else s

/-- The scan's epoch commits (R55): its number, time and buffer; COMMIT in each channel that scans. -/
def commitEpoch (t : Table) (verdict : Nat) (s : State) : State :=
  let split := splitScan s
  let s := gapNote s
  let e := nextEpoch s.sys.epoch
  let s := { s with sys := { s.sys with epoch := e, epochTime := now s }, ilkA := ilkCommit e s.ilkA, ilkB := if split then s.ilkB else ilkCommit e s.ilkB,
                    ilkl := { s.ilkl with committed := true, verdict := verdict, lastTripped := !s.ilkl.causes.isEmpty } }
  let body := epochBody t s
  let s := { s with ep := fillBuf { epoch := e, time := s.sys.epochTime, body := body, frames := s.ilkl.frames, crc := bufCrc body s.ilkl.frames e s.sys.epochTime } s.ep }
  let s := (List.range 4).foldl (fun s i => notePhase i s) s
  evt pgIlkA 0 (evtIf (!split) pgIlkB 0 s)

/-- The duration of the Output phase enters the latest buffer when that phase has ended (log 16). -/
def noteOutput (s : State) : State :=
  match s.ep.latest with
  | none => s
  | some i =>
    { s with ep := { s.ep with bufs := vUpd s.ep.bufs i (fun o => o.map fun b =>
        if b.epoch = s.sys.epoch then
          let body := b.body.take 2744 ++ leBytes 4 (vGet s.ilkA.phaseCur 4 0) ++ b.body.drop 2748
          { b with body := body, crc := bufCrc body b.frames b.epoch b.time }
        else b) } }

/-- TEST_TRIP acts at the end of the Compare phase (Table ILK-14). -/
def testAtCompare (s : State) : State :=
  if s.ilkl.testPend then loaderEnd 0 (trip0 0x14 0 pgIlkl (updIlkl (fun l => { l with testPend := false }) s)) else s

/-- A scan that commits with no Output phase has none to report (Table ILK-26). -/
def noOutput (s : State) : State :=
  let f := fun (k : Ilk) => { k with phaseLast := vSet k.phaseLast 4 0 }
  let split := splitScan s
  { s with ilkA := f s.ilkA, ilkB := if split then s.ilkB else f s.ilkB }

/-- A late phase (R73): its cause trips; an epoch not committed yet commits at once (R55), after TEST_TRIP where Compare was late; the rest of the scan but the Tail is cut short. -/
def lateCut (t : Table) (i : Nat) (s : State) : State :=
  let s := trip0 (4 + i) (if splitScan s then 1 else 3) pgIlkl s
  let s := if i = 3 then testAtCompare s else s
  let s := endPhase i (deadline i s) s
  let s := if s.ilkl.committed then notePhase i s else noOutput (commitEpoch t 1 s)
  setPhase 5 s

/-! ## Scan start -/

/-- An evaluator enters SCANNING. -/
def ilkEnter (k : Ilk) : Ilk := if k.st = .halted then { k with st := .scanning, first := true } else k

/-- An evaluator at a scan start. -/
def ilkScanStart (k : Ilk) : Ilk :=
  { k with phase := 0, phaseCur := Vector.replicate 6 0, otherResult := none, otherVerdict := none, execNow := 0, rewrite := [], rxNext := 1, inbound := [], ran := false }

/-- The causes that are raised in every scan, at its start, lowest code first, and cause TICK of the pulse that begins it among them (R93, R95, R170, R173, R379). -/
def standingCauses (pulse : Option Nat) (s : State) : State :=
  let s := if s.tab.cmpFail && !s.tab.split then exchangeTrip .a 0xC 0xFF 3 (posOf s .a) false s else s
  let s := match pulse with | some i => tickPulse i s | none => s
  let s := if s.dhd.cmpFail && !s.dhd.split then trip0 0x11 0 pgDhd s else s
  if fatalPend s then trip0 0x13 0 pgFcr s else s

/-- An accepted CLEAR_TRIP takes effect at the scan start, unless a cause has been detected since (R95). -/
def clearAtStart (s : State) : State :=
  if !s.ilkl.clearPend then s
  else if s.ilkl.clearBroken then loaderEnd 0x0D (updIlkl (fun l => { l with clearPend := false, clearBroken := false }) s)
  else
    let c := (s.ilkl.tripCount, s.ilkl.tripEpoch)
    loaderEnd 0 (clearLatch (updIlkl (fun l => { l with clearPend := false, clearBroken := false, cleared := some c, restart := true }) s))

/-- The image of a channel whose evaluator enters SCANNING counts as written now, and its streams go on (R79). -/
def freshImages (s : State) : State :=
  let s := updIlkl (fun l => { l with imgA := { l.imgA with at_ := now s }, imgB := { l.imgB with at_ := now s } }) s
  { s with links := s.links.map fun l => { l with a := { l.a with stale := false }, b := { l.b with stale := false } } }

/-- One word between an evaluator and the link controller of each tile present (Table ARC-3), to it where `out`. -/
def linkTraffic (c : Chan) (out : Bool) (s : State) : State :=
  (List.range 8).foldl (fun s p =>
    if !tilePresent s.variant p then s
    else if out then issue .tileLink (pgIlk c) (pgTile p) 1 s else issue .tileLink (pgTile p) (pgIlk c) 1 s) s

/-- A channel takes its samples, with the table it holds. -/
def sampleOwn (c : Chan) (e : Word32) (s : State) : State :=
  match (chanIlk s c).table with
  | some t => sampleChan c t e (linkTraffic c false s)
  | none => s

/-- Both evaluators enter the scan, with fresh images and tick counts where they were halted; S is that of the match that began it (R72, R116). -/
def enterScan (entering : Bool) (s : State) : State :=
  let s := if entering then freshImages (updIlkl (fun l => { l with ticks := 0, prevCauses := 0 }) s) else s
  { s with ilkA := ilkScanStart (ilkEnter s.ilkA), ilkB := if splitScan s then s.ilkB else ilkScanStart (ilkEnter s.ilkB),
           ilkl := { s.ilkl with scanning := true, committed := false, phaseStart := 0, verdict := 0, cleared := none, tickPend := false,
                                 scanS := (chanOf s 0).matchTime.toNat / 5 } }

/-- The causes that stand at the scan start are judged, a trip that waits for it is cleared, and the latest inbound frames are taken. -/
def scanOpens (pulse : Option Nat) (entering : Bool) (s : State) : State :=
  let s := clearAtStart (standingCauses pulse (tabScanStart s))
  let s := updIlkl (fun l => { l with ticks := if pulse.isSome || entering then l.ticks + 1 else l.ticks, firstRecords := s.ilkA.first }) s
  updIlkl (fun l => { l with frames := takenFrames (splitScan s) s }) s

/-- A scan begins (R72): a pending mode takes effect first (R82); then both channels, or A in SPLIT, take their samples. `pulse` is the interval of the scan-tick pulse that begins it, none where that pulse has arrived before (R80). -/
def startScan (pulse : Option Nat) (s : State) : State :=
  let s := takeModes s
  if s.ilkA.table.isNone || !scansRun s || s.ilkA.st == .loading || s.ilkA.st == .noTable then s
  else
    let entering := s.ilkA.st == .halted
    let s := scanOpens pulse entering (enterScan entering s)
    let e := nextEpoch s.sys.epoch
    let s := sampleOwn .a e s
    if splitScan s then s else sampleOwn .b e s

/-- SCAN_TICK (R72): the pulse of compare channel 0, `i` CLK_SYS cycles after the one before. A tick before the Tail has ended trips LATE_TAIL, and the next scan begins when the Tail ends (R80). -/
def execScanTick (i : Nat) (s : State) : Res :=
  if s.ilkl.scanning then
    let s := trip0 0x09 (if splitScan s then 1 else 3) pgIlkl s
    .next (tickPulse i (updIlkl (fun l => { l with tickPend := true, ticks := l.ticks + 1 }) s))
  else .next (startScan (some i) s)

/-! ## Exchange, Evaluate -/

/-- The phase in progress. -/
def inPhase (n : Nat) (s : State) : Bool := s.ilkl.scanning && s.ilkA.phase == n

/-- Each channel computes the input digest over the pair it holds (Table ILK-4). -/
def digests (s : State) : State :=
  updIlk .b (fun k => { k with digest := inputDigest k.other k.own }) (updIlk .a (fun k => { k with digest := inputDigest k.own k.other }) s)

/-- EXCHANGE_PHASE (R73): the barrier at the end of Sample is released in cycle `c`; the Tablet exchanges the sample vectors and each channel computes the input digest. In SPLIT the phase has zero length and no exchange; DESIGN CHOICE (log 134): the digest then takes an all-zero vector for channel B's. -/
def execExchangePhase (c : Nat) (s : State) : Res :=
  match curTable s with
  | none => .next s
  | some t =>
    if !inPhase 0 s || !tabOk s then .next s
    else if c ≥ deadline 0 s then .next (lateCut t 0 s)
    else if splitScan s then
      .next (updIlk .a (fun k => { k with other := {}, digest := inputDigest k.own {} }) (setPhase 1 (endPhase 0 c s)))
    else
      let s := tabRunTo 1 s
      if !tabOk s then .next s
      else
        let s := tabRunTo 2 (setPhase 1 (endPhase 0 c s))
        .next (if tabOk s then digests s else s)

/-- EVALUATE_PHASE (R76): the barrier at the end of Exchange is released in cycle `c`; each channel runs its blocks. `fa` and `fb` are the faults of the channels' hardware. -/
def execEvaluatePhase (c : Nat) (fa fb : EvalFault) (s : State) : Res :=
  match curTable s with
  | none => .next s
  | some t =>
    if !inPhase 1 s || !tabOk s then .next s
    else if splitScan s then
      let c := s.ilkl.phaseStart
      if c ≥ deadline 1 s then .next (lateCut t 1 s) else .next (evalChan .a fa (setPhase 2 (endPhase 1 c s)))
    else if c ≥ deadline 1 s then .next (lateCut t 1 s)
    else
      let s := tabRunTo 3 s
      if !tabOk s then .next s else .next (evalChan .b fb (evalChan .a fa (setPhase 2 (endPhase 1 c s))))

/-! ## Compare (R77, R87 to R90) -/

/-- The cause a mismatch in word 64 has (R88). -/
def word64Causes (sig : BitVec 8320) : List Nat :=
  let w := (sig >>> 8192).setWidth 128
  (if w.setWidth 32 != (0 : BitVec 32) then [0x0D] else []) ++ (if (w >>> 32).setWidth 32 != (0 : BitVec 32) then [0x0E] else []) ++
    (if (w >>> 64).setWidth 43 != (0 : BitVec 43) then [0x0F] else [])

/-- The difference a channel sees between the two result vectors, in true form (R88): none where the other channel's has not been delivered. -/
def seenDiff (c : Chan) (s : State) : Option (BitVec 8320) :=
  let k := chanIlk s c
  k.otherResult.map fun v => trueResult c (resultVec k) ^^^ trueResult (otherChan c) v

/-- A channel's table memory holds the mask it compares over. -/
def chanMask (c : Chan) (s : State) : BitVec 8320 := match (chanIlk s c).table with | some t => t.mask | none => 0

/-- The significant state of every timed block of a table: the low word of its first time slot. -/
def timedState (t : Table) : BitVec 8320 :=
  t.blocks.foldl (fun v k => if (stateCounts k.typ).2 = 0 then v else setBit v (4096 + 16 * (k.wb + 1)) true) 0

/-- Channels that read different tick times diverge in the significant state of every timed block (R116), also where no slot was loaded with its scan time. -/
def skewDiff (c : Chan) (s : State) : BitVec 8320 :=
  match (chanIlk s c).table with
  | some t => if s.ilkA.scanTime = s.ilkB.scanTime then 0 else timedState t
  | none => 0

/-- The significant part of the difference a channel sees, and the rest. -/
def sigDiff (c : Chan) (s : State) : BitVec 8320 :=
  match seenDiff c s with
  | some d => (d &&& chanMask c s) ||| skewDiff c s
  | none => 0
/-- The bits that differ and are not significant (R89). -/
def idleDiff (c : Chan) (s : State) : BitVec 8320 := (seenDiff c s).getD 0 &&& ~~~(chanMask c s)

/-- The causes of a mismatch in the significant bits given (R88). -/
def diffCauses (sig : BitVec 8320) : List Nat := (if sig.setWidth 8192 != (0 : BitVec 8192) then [0x01] else []) ++ word64Causes sig

/-- The channels that find one of four causes by comparing trip together, the lowest cause first (R93). -/
def compareTrips (a b : BitVec 8320) (s : State) : State :=
  [0x01, 0x0D, 0x0E, 0x0F].foldl (fun s code =>
    let ca := (diffCauses a).contains code
    let cb := (diffCauses b).contains code
    if ca || cb then trip code ((if ca then 1 else 0) + if cb then 2 else 0) ((lowestBit (if ca then a else b)).getD 0) (if ca then pgIlkA else pgIlkB) s else s) s

/-- An idle divergence (R89): counted and reported once for the scan; beside a mismatch it is reported in the same cycle as the trip and with COINCIDENT (R90). -/
def divergence (c : Chan) (idle : BitVec 8320) (tripped reported : Bool) (s : State) : State :=
  match lowestBit idle with
  | none => s
  | some i => reportAs { src := chanSrc c 0x038, page := pgIlk c, joined := reported, coinc := tripped }
      (evt (pgIlk c) 2 (updIlk c (fun k => { k with divInfo := some i, divCount := satAdd 32 k.divCount 1 }) s))

/-- Both channels compare what has been delivered (R77, R87 to R90). -/
def compareAll (s : State) : State :=
  let a := sigDiff .a s
  let b := sigDiff .b s
  let ia := idleDiff .a s
  let ib := idleDiff .b s
  let tripped := a != 0 || b != 0
  let reported := (diffCauses a ++ diffCauses b).any fun c => causeIsNew c s
  let note := fun (c : Chan) (x : BitVec 8320) (s : State) => if x = 0 then s else updIlk c (fun k => { k with mismatch := some ((lowestBit x).getD 0) }) s
  let s := compareTrips a b (note .b b (note .a a s))
  divergence .b ib tripped reported (divergence .a ia tripped reported s)

/-- The verdicts have been swapped: where they differ both channels take TRIP with cause VERDICT (R77). -/
def compareVerdicts (s : State) : State :=
  let differs := fun (c : Chan) => match (chanIlk s c).otherVerdict with | some v => v != chanTripped c s | none => false
  if differs .a || differs .b then trip0 0x02 3 pgIlkl s else s

/-- The reads of a channel's signal memory in the Compare phase (R91); `l` are the words that are disturbed. -/
def compareReads (c : Chan) (l : List (Nat × WordCheck)) (s : State) : State :=
  match (chanIlk s c).table with
  | none => s
  | some t => l.foldl (sigError c t) (readSigs c t (List.range 64) s)

/-- COMPARE_PHASE (R77): the barrier at the end of Evaluate is released in cycle `c`, and Compare ends in cycle `stop`: the results are compared, the verdicts are swapped and the epoch commits. In SPLIT the epoch commits at the end of Evaluate, not compared (R82). `fa` and `fb` are the disturbed words of the channels' signal memories. -/
def execComparePhase (c : Nat) (stop : CompareEnd) (s : State) : Res :=
  match curTable s with
  | none => .next s
  | some t =>
    if !inPhase 2 s || !tabOk s then .next s
    else if c ≥ deadline 2 s then .next (lateCut t 2 s)
    else if splitScan s then .next (commitEpoch t 2 (testAtCompare (endPhase 3 c (setPhase 3 (endPhase 2 c s)))))
    else
      let s := tabRunTo 4 s
      if !tabOk s then .next s
      else
        let s := compareReads .b stop.fb (compareReads .a stop.fa (setPhase 3 (endPhase 2 c s)))
        let s := compareAll (tabRunTo 5 s)
        if !tabOk s then .next s
        else
          let s := compareVerdicts (tabRunTo 6 s)
          if !tabOk s then .next s
          else if stop.stop ≥ deadline 3 s then .next (lateCut t 3 s)
          else
            let s := testAtCompare (endPhase 3 stop.stop s)
            .next (commitEpoch t (if s.ilkl.causes.isEmpty then 0 else 1) s)

/-! ## Output and Tail -/

/-- OUTPUT_PHASE (R78): the barrier at the end of Compare is released, and each channel writes its command images. -/
def execOutputPhase (s : State) : Res :=
  match curTable s with
  | none => .next s
  | some t =>
    if !inPhase 3 s || !s.ilkl.committed || !tabOk s then .next s
    else
      let split := splitScan s
      let s := if split then s else tabRunTo 7 s
      if !tabOk s then .next s
      else
      let s := linkTraffic .a true (setPhase 4 s)
      let s := if split then s else linkTraffic .b true s
      let s := updIlkl (fun l => { l with imgA := imageOf .a t s, imgB := if split then { l.imgB with at_ := now s } else imageOf .b (s.ilkB.table.getD t) s }) s
      .next { s with links := s.links.map fun l => { l with a := { l.a with stale := false }, b := { l.b with stale := false } } }

/-- A journal-map entry meets its trigger (R286). -/
def entryFires (c : Chan) (k : Ilk) (e : JEntry) : Bool :=
  if e.kind = 0 then
    let a := (encBools c k.prevBools).getLsbD e.index
    let b := (encBools c k.bools).getLsbD e.index
    match e.trigger with
    | 1 => !a && b | 2 => a && !b | 3 => a != b | _ => false
  else e.trigger == 3 && vGet k.prevWords e.index 0 != vGet k.words e.index 0

/-- Bits as bytes, the first in bit 0 of byte 0. -/
def packBits (l : List Bool) : List Byte :=
  leBytes ((l.length + 7) / 8) (l.foldr (fun b n => (if b then 1 else 0) + 2 * n) 0)

/-- The payload of a group in a channel's copy, in true form (R286). -/
def groupPayload (c : Chan) (k : Ilk) (g : List JEntry) : List Byte :=
  packBits ((g.filter fun e => e.kind == 0).map fun e => (encBools c k.bools).getLsbD e.index) ++
    ((g.filter fun e => e.kind == 1).map fun e => leBytes 2 (encWord c (vGet k.words e.index 0)).toNat).flatten

/-- The record of one group, if it is due (R286): channel A's copy, DIVERGENT where the copies' CRCs differ. -/
def groupRecord (t : Table) (n : Nat) (s : State) : State :=
  let g := groupOf t.jmap n
  let due := if s.ilkl.firstRecords then g.any fun e => e.trigger != 0 else g.any (entryFires .a s.ilkA)
  match g with
  | [] => s
  | e :: _ =>
    if !due then s
    else
      let pa := groupPayload .a s.ilkA g
      let div := !splitScan s && crc32c pa != crc32c (groupPayload .b s.ilkB g)
      let s := reportIf div 0x089 pgIlkl s
      admitSystem { time := s.sys.epochTime, epoch := s.sys.epoch, source := 0x0002, cls := e.cls, divergent := div, payload := pa }
        (issue .record pgIlkl pgJrn (2 + (pa.length + 15) / 16) s)

/-- The records of the epoch (R80, R81, R287): CLEAR, the groups, TRIP. -/
def tailRecords (t : Table) (s : State) : State :=
  let s := match s.ilkl.cleared with
    | some c => interlockRecord s.sys.epochTime s.sys.epoch 0x02 (clearPayload c.1 c.2) s
    | none => s
  let s := (List.range 14).foldl (fun s n => groupRecord t n s) s
  if s.ilkl.causes.isEmpty then s
  else interlockRecord s.sys.epochTime s.sys.epoch 0x01 (tripPayload s.ilkl.causes s.ilkA.digest) s

/-- Every signal without a significant bit is cleared in the channel's encoding, words with errors are rewritten with fresh encodings, and 16 words of table memory are scrubbed (R80). -/
def tailMemory (c : Chan) (k : Ilk) : Ilk :=
  match k.table with
  | none => k
  | some t =>
    let m := t.mask.setWidth 4096
    let w := (t.mask >>> 4096).setWidth 4096
    let ws := unpackWords w
    { k with bools := encBools c (encBools c k.bools &&& m),
             words := Vector.ofFn fun i => if vGet ws i.val 0 = 0 then 0 else vGet k.words i.val 0,
             rewrite := [], scrub := (k.scrub + 16) % 4096 }

/-- What the scrub of a channel's table memory meets (R80, R91): `l` are disturbed words, of which it reads those among its 16. -/
def tailScrub (c : Chan) (l : List (Nat × WordCheck)) (s : State) : State :=
  let k := chanIlk s c
  (l.filter fun e => decide (k.scrub ≤ e.1) && decide (e.1 < k.scrub + 16)).foldl (tblError c) s

/-- The evaluators' epochs agree with the epoch committed in SYS (R174). -/
def epochsAgree (s : State) : Bool := s.ilkA.lastEpoch == s.sys.epoch && (splitScan s || s.ilkB.lastEpoch == s.sys.epoch)

/-- An evaluator at the end of a scan; the first-scan rules end with a scan in which its blocks ran (R123, log 135). -/
def ilkScanEnd (k : Ilk) : Ilk := { k with phase := 7, first := k.first && !k.ran }

/-- The scan has ended: its causes become those of the previous epoch (R369), and the first-scan rules end. -/
def scanEnd (s : State) : State :=
  let split := splitScan s
  let ran := s.ilkA.ran
  { s with ilkA := ilkScanEnd s.ilkA, ilkB := if split then s.ilkB else ilkScanEnd s.ilkB,
           ilkl := { s.ilkl with scanning := false, lastTripped := !s.ilkl.causes.isEmpty, prevCauses := causeMask s.ilkl.causes, causes := [],
                                 restart := s.ilkl.restart && !ran, firstRecords := false, cleared := none, verdict := 0 } }

/-- PH4 ends where it has not yet, on time or cut, and PH5 begins; none where the barrier at its end is not released. -/
def tailBegin (c : Nat) (t : Table) (s : State) : Option State :=
  if inPhase 5 s then some s
  else if c ≥ deadline 4 s then some (noteOutput (lateCut t 4 s))
  else
    let s := if splitScan s then s else tabRunTo 8 s
    if tabOk s then some (setPhase 5 (noteOutput (notePhase 4 (endPhase 4 c s)))) else none

/-- The work of PH5: the supervision routine with its periodic injection, the check of the epochs and the watchdog, the scrub, and the records. -/
def tailWork (t : Table) (missed : Bool) (sa sb : List (Nat × WordCheck)) (s : State) : State :=
  let s := pinjNext (superviseReads (tabPinj missed s))
  let s := if coresRun s && !epochsAgree s then report0 0x03E pgDhd s else s
  let s := tailScrub .a sa s
  let s := if splitScan s then s else tailScrub .b sb s
  tailRecords t (wdogRefresh s)

/-- The scan ends: the memories take the values the next scan starts from, and a pending tick begins that scan. -/
def tailEnd (s : State) : State :=
  let split := splitScan s
  let s := { s with ilkA := tailMemory .a s.ilkA, ilkB := if split then s.ilkB else tailMemory .b s.ilkB }
  let pend := s.ilkl.tickPend
  let s := scanEnd s
  if pend then startScan none s else s

/-- TAIL (R80, R171, R172, R174): the barrier at the end of Output is released in cycle `c`, and the Tail ends in cycle `stop`. `missed` says that the Tablet's test pair was not flagged; `sa` and `sb` are disturbed words of the channels' table memories. -/
def execTail (c stop : Nat) (missed : TailMeets) (s : State) : Res :=
  match curTable s with
  | none => .next s
  | some t =>
    if !(inPhase 4 s && tabOk s) && !inPhase 5 s then .next s
    else match tailBegin c t s with
      | none => .next s
      | some s => .next (tailEnd (notePhase 5 (endPhase 5 stop (tailWork t missed.missed missed.sa missed.sb s))))

/-- LATE_PHASE (R73, R74): the phase in progress has not ended by its deadline. -/
def execLatePhase (p : LatePhase) (s : State) : Res :=
  let i := match p with | .sample => 0 | .exchange => 1 | .evaluate => 2 | .compare => 3 | .output => 4
  match curTable s with
  | none => .next s
  | some t => if inPhase i s then .next (lateCut t i s) else .next s

/-- STALE_IMAGE (R79): a channel's latest command image is older than T_scan + 8 µs. Its link controllers stop their frames and cause STALE is raised for the channels concerned. -/
def execStaleImage (s : State) : Res :=
  if !scanningRuns s then .next s
  else
    let lim := 100 * (scanUs s + 8)
    let old := fun (m : Image) => decide (m.at_ + lim < now s)
    let a := old s.ilkl.imgA && !(linkOf s 0).a.stale
    let b := !splitScan s && old s.ilkl.imgB && !(linkOf s 6).b.stale
    if !a && !b then .next s
    else
      let ls := Vector.ofFn fun (i : Fin 8) =>
        let l := vGet s.links i.val {}
        { l with a := { l.a with stale := l.a.stale || a }, b := { l.b with stale := l.b.stale || b } }
      .next (trip0 0x12 ((if a then 1 else 0) + if b then 2 else 0) pgIlkl { s with links := ls })

end Sys2Proof.Machine
end

