-- ==== Sys2Proof/Machine/TileSide.lean ====
section
/-! DEFINITION. The tile-side logic of field tiles and safety output tiles: acceptance of frames, drivers and switches, supplies, watchdogs, tile time and the capture queue (R191, R196 to R220), and the abort of a pin test (R401, R402). -/

namespace Sys2Proof.Machine

/-! ## Sides -/

/-- A field tile has one side; a safety output tile has an A side and a B side (R215). -/
def sideChan (p : Nat) (c : Chan) : Chan := if p < 6 then .a else c

/-- A side of a tile. -/
def sideOf (s : State) (p : Nat) (c : Chan) : Side :=
  let t := vGet s.tiles p {}
  match sideChan p c with | .a => t.a | .b => t.b

/-- Change a side of a tile. -/
def updSide (p : Nat) (c : Chan) (f : Side → Side) (s : State) : State :=
  { s with tiles := vUpd s.tiles p (fun t => match sideChan p c with | .a => { t with a := f t.a } | .b => { t with b := f t.b }) }

/-- The tile's time counter at Station-clock time `t`, in 50 ns units; none while unset (R196). -/
def tileTime (d : Side) (t : Nat) : Option Nat := d.timeAt.map fun a => (d.timeVal + (t - a) / 5) % 2 ^ 48

/-- Pins in a mode under the applied configuration. -/
def modePins (d : Side) (m : Nat) : BitVec 16 := tileBits 16 fun n => cfgMode (vGet d.cfg n 0) == m

/-- The worse of two supply states (R212). -/
def worseSupply (a b : Supply) : Supply := if supplyCode a ≤ supplyCode b then a else b

/-- The worse of two bands (R212). -/
def worseBand (a b : Band) : Band := if bandCode a ≥ bandCode b then a else b

/-- The supply state of a tile: that of the worse side (R212). -/
def tileSupply (s : State) (p : Nat) : Supply := if p < 6 then (sideOf s p .a).supply else worseSupply (sideOf s p .a).supply (sideOf s p .b).supply

/-- The commands of a frame are all 0 (R214): OUT_CMD and TSRC of a field tile, CMD of a safety output tile side. -/
def cmdsZero (p : Nat) (f : OutFrame) : Bool := if p < 6 then f.cmd == 0 && f.light == 0 else f.cmd == 0

/-- Levels the drivers of a field tile drive (R209, R210, R213, R220). -/
def fieldApplied (d : Side) : BitVec 16 :=
  if d.supply != .armed || d.wdogHold || d.tempOff || d.tileOvl then 0
  else
    let held := d.dark &&& ~~~d.ended &&& ~~~(tileBits 16 fun n => cfgPexempt (vGet d.cfg n 0))
    ((d.cmd &&& ~~~held &&& modePins d 2) ||| (d.light &&& modePins d 3)) &&& ~~~d.ovl

/-- Every switch of a safety output tile is held open (R213, R217, R220). -/
def sotOff (s : State) (p : Nat) : Bool :=
  let a := sideOf s p .a
  let b := sideOf s p .b
  tileSupply s p != .armed || a.wdogHold || b.wdogHold || a.tempOff || b.tempOff

/-- Outputs of a side whose configuration has a property. -/
def outBits (d : Side) (f : Word32 → Bool) : BitVec 16 := tileBits 8 fun k => f (vGet d.cfg k 0)

/-- Light pulses a side may apply: on open switches of enabled outputs that are not pulse-exempt and allow them (R218, Table FT-16). -/
def lightAsked (d : Side) : BitVec 16 := d.light &&& ~~~d.ended &&& ~~~d.cmd &&& outBits d fun v => outEn v && !outPexempt v && outLightOk v

/-- Switches a side drives closed; a light pulse only while it senses the other switch open (R215, R218). -/
def sotApplied (off : Bool) (d : Side) : BitVec 16 :=
  if off then 0
  else
    let held := d.dark &&& ~~~d.ended &&& outBits d fun v => outEn v && !outPexempt v
    (d.cmd &&& ~~~held &&& outBits d outEn) ||| (lightAsked d &&& ~~~d.otherOn)

/-! ## Pin tests (R400 to R402) -/

/-- The pin under test takes its normal paths again: path x is loaded from the other path (R400). -/
def restorePath (p : Nat) (t : TileTest) (s : State) : State :=
  if t.op = 1 then
    updSide p .a (fun d => match t.path with
      | .a => { d with fltA := setBit d.fltA t.pin (d.fltB.getLsbD t.pin) }
      | .b => { d with fltB := setBit d.fltB t.pin (d.fltA.getLsbD t.pin) }) s
  else s

/-- The abort counter of a pin rises by one; at 16 ASSAY_ABORT is raised and it restarts at 0 (R402). -/
def countAbort (pin : Nat) (s : State) : State :=
  let n := smGetD s.ast.aborts pin 0 + 1
  let s := { s with ast := { s.ast with abortTotal := satAdd 16 s.ast.abortTotal 1, aborts := if n ≥ 16 then smErase s.ast.aborts pin else smSet s.ast.aborts pin n } }
  if n ≥ 16 then report 0x055 0 pin pgAst (evt pgAst 4 s) else s

/-- A demand on a pin under test aborts the test, restores the pin and counts the abort (R401, R402). -/
def abortTest (p pin : Nat) (s : State) : State :=
  match vGet s.ast.tile p none with
  | none => s
  | some t =>
    if t.result = 0 ∧ (t.op = 1 ∨ t.op = 2) ∧ t.pin = pin then
      countAbort (tilePin p pin) { (restorePath p t s) with ast := { s.ast with tile := vSet s.ast.tile p (some { t with result := 3 }) } }
    else s

/-- The path of a pin that a THRESH test has disconnected. -/
def testedPath (s : State) (p : Nat) : Option (Nat × Chan) :=
  match vGet s.ast.tile p none with
  | some t => if t.result = 0 ∧ t.op = 1 ∧ p < 6 then some (t.pin, t.path) else none
  | none => none

/-! ## Frames -/

/-- The re-arm of an accepted frame of a field tile (R213, R214). -/
def fieldRearm (f : OutFrame) (d : Side) : Side :=
  if !f.rearm then d
  else if d.supply == .ready && cmdsZero 0 f then { d with supply := .armed, needRearm := false, armedAt := some d.acceptAt }
  else { d with rearmEarly := true }

/-- The re-arm of an accepted frame of a safety output tile side: it must come in both frames of one period (R214). A re-arm left from an earlier period was ignored. -/
def sotRearm (p : Nat) (c : Chan) (f : OutFrame) (s : State) : State :=
  let s := updSide p c (fun d => if d.rearmSeen.isSome then { d with rearmSeen := none, rearmEarly := true } else d) s
  if !f.rearm then s
  else if tileSupply s p == .ready && cmdsZero p f then
    let oc : Chan := match c with | .a => .b | .b => .a
    if (sideOf s p oc).rearmSeen = some f.sentAt then
      let t := now s
      let arm := fun (d : Side) => { d with rearmSeen := none, supply := if d.supply == .ready then .armed else d.supply, needRearm := false, armedAt := some t }
      updSide p .b arm (updSide p .a arm s)
    else updSide p c (fun d => { d with rearmSeen := some f.sentAt }) s
  else updSide p c (fun d => { d with rearmEarly := true }) s

/-- The time counter is set from a frame whose SNAP_SEQ differs from the last one applied; `dly` is the one-way delay in ns (R196). -/
def takeSnap (dly : Nat) (f : OutFrame) (d : Side) : Side :=
  if d.timeAt.isSome ∧ f.snapSeq = d.snapEcho then d
  else { d with snapped := true, snapEcho := f.snapSeq, timeAt := some (f.sentAt + dly / 10), timeVal := (f.snapTime + dly / 50) % 2 ^ 48 }

/-- What an accepted frame changes in the side that accepts it, the re-arm apart (R197, R198, R209, R210, R217, R220). -/
def acceptSide (t p dly : Nat) (f : OutFrame) (d : Side) : Side :=
  let zero := cmdsZero p f
  let clearOvl := if p < 6 then (modePins d 2 &&& ~~~f.cmd) ||| (modePins d 3 &&& ~~~f.light) else 0
  let pulses := if p < 6 then f.dark else f.dark ||| f.light
  takeSnap dly f
    { d with aliveRef := some f.alive, echo := f.alive, acceptAt := t, acceptPrev := d.acceptAt, fresh := d.fresh && !f.ackFresh,
             cfg := vSet d.cfg f.cfgIdx f.cfgWord, cmd := f.cmd, dark := f.dark, light := f.light, ended := d.ended &&& pulses,
             ovl := d.ovl &&& ~~~clearOvl, wdogHold := d.wdogHold && !(zero && d.holdAt != some t), tempOff := d.tempOff && !(zero && !d.hot), tileOvl := d.tileOvl && !zero,
             rbPin := f.rbPin, rbUse := f.rbUse }

/-- Pins whose command, test-source or pulse bit an accepted frame changes, and the pin whose configuration slot it carries: demands for Assay (R401). -/
def frameDemands (d : Side) (f : OutFrame) : BitVec 16 :=
  setBit ((d.cmd ^^^ f.cmd) ||| (d.dark ^^^ f.dark) ||| (d.light ^^^ f.light)) f.cfgIdx true

/-- The light pulses a side suppresses, because it senses the other switch closed, are kept for its next frame (R218). -/
def noteSupp (d : Side) : Side := { d with suppNow := d.suppNow ||| (lightAsked d &&& d.otherOn) }

/-- A tile accepts an outbound frame on side `c`. -/
def tileAccept (p : Nat) (c : Chan) (f : OutFrame) (s : State) : State :=
  let dem := if p < 6 then frameDemands (sideOf s p c) f else 0
  let s := (List.range 16).foldl (fun s n => if dem.getLsbD n then abortTest p n s else s) s
  let s := updSide p c (acceptSide (now s) p (linkOf s p).dly f) s
  if p < 6 then updSide p c (fieldRearm f) s else sotRearm p c f (updSide p c noteSupp s)

/-! ## The capture queue -/

/-- Entries the capture queue of a side holds, and entries a frame carries (R206, R219). -/
def captCap (p : Nat) : Nat := if p < 6 then 16 else 4
/-- Entries of an inbound frame. -/
def frameCap (p : Nat) : Nat := if p < 6 then 8 else 2

/-- An edge enters the capture queue of a side, or is lost (R206). -/
def captEdge (p : Nat) (e : TileEdge) (d : Side) : Side :=
  if d.capt.length < captCap p then { d with capt := d.capt ++ [e] } else { d with lost := setBit d.lost e.pin true }

/-- The tile time of a side: a free value while its counter is unset (R196). -/
def tileNow (s : State) (d : Side) : Nat := (tileTime d (now s)).getD (Config.unsetTileTime (now s) % 2 ^ 48)

/-- Samples of a field pin's comparator that its filter takes (R203). -/
def filterSamples (d : Side) (pin : Nat) : Nat := let f := bits (vGet d.cfg pin 0) 8 8; if f = 0 then 4 else 2000 * f

/-- The comparator of a path has shown the new level for `n` consecutive samples of 50 ns of the tile's clock (±2 %), enough for the filter, and all of them since the filtered level last changed (R203). -/
def filterPasses (t : Nat) (d : Side) (pin n : Nat) (path : Chan) : Bool :=
  let last := vGet (match path with | .a => d.fltAtA | .b => d.fltAtB) pin 0
  decide (filterSamples d pin ≤ n) && decide (n * 490 ≤ 100 * (t - last))

/-- PIN_FILTER_CHANGE (R203, R206, R219, R400): the comparator of a path has shown `level` for `n` consecutive samples and the filtered level changes to it; or OUTV of a safety output side changes. During a THRESH test the tested path has none of its own, and every edge of the other path enters twice. -/
def execPinFilterChange (p pin : Nat) (path : Chan) (level : LevelRun) (s : State) : Res :=
  if !tilePresent s.variant p || decide (pin ≥ cfgSlots p) then .next s
  else if p < 6 then
    let d := sideOf s p .a
    let cur := match path with | .a => d.fltA | .b => d.fltB
    let oth : Chan := match path with | .a => .b | .b => .a
    if cur.getLsbD pin == level.level || testedPath s p == some (pin, path) || !(filterPasses (now s) d pin level.n path) then .next s
    else
      let twin := testedPath s p == some (pin, oth)
      let e : TileEdge := { pin := pin, path := path, level := level.level, time := tileNow s d }
      .next (updSide p .a (fun d =>
        let d := match path with
          | .a => { d with fltA := setBit d.fltA pin level.level, fltAtA := vSet d.fltAtA pin (now s) }
          | .b => { d with fltB := setBit d.fltB pin level.level, fltAtB := vSet d.fltAtB pin (now s) }
        if cfgTs (vGet d.cfg pin 0) then (if twin then captEdge p { e with path := oth } (captEdge p e d) else captEdge p e d) else d) s)
  else
    let d := sideOf s p path
    if d.fltA.getLsbD pin == level.level then .next s
    else
      let e : TileEdge := { pin := pin, path := path, level := level.level, time := tileNow s d }
      .next (updSide p path (fun d =>
        let d := { d with fltA := setBit d.fltA pin level.level }
        if outTs (vGet d.cfg pin 0) then captEdge p e d else d) s)

/-! ## The tile's period (R192) -/

/-- CFG_CRC over the applied configuration: 16 words of a field tile, 8 bytes of a safety output tile (Tables FT-3, FT-6). -/
def cfgCrc (p : Nat) (cfg : Vector Word32 16) : Word32 :=
  if p < 6 then crc32c ((cfg.toList.map fun w => leBytes 4 w.toNat).flatten) else crc32c ((cfg.toList.take 8).map fun w => BitVec.ofNat 8 w.toNat)

/-- VALID of a field tile (R196, R205). -/
def fieldValid (d : Side) : BitVec 16 :=
  if d.supply == .qualifying || d.timeAt.isNone || !d.snapped then 0 else ~~~(modePins d 0) &&& ~~~d.lost

/-- A level vector with the tested path's bit copied from the other path (R400). -/
def reported (s : State) (p : Nat) (path : Chan) (own other : BitVec 16) : BitVec 16 :=
  match testedPath s p with
  | some (n, c) => if c == path then setBit own n (other.getLsbD n) else own
  | none => own

/-- The inbound frame of a side, from its state after it has taken its measurements. -/
def inboundFrame (s : State) (p : Nat) (c : Chan) (capt : Nat) (sw applied supp : BitVec 16) (d : Side) : InFrame :=
  { alive := d.alive + 1, capt := capt,
    stA := if p < 6 then reported s p .a d.fltA d.fltB else d.fltA,
    stB := if p < 6 then reported s p .b d.fltB d.fltA else sw,
    valid := if p < 6 then fieldValid d else 0, rb := d.rb, applied := applied, ovl := d.ovl, supp := (supp.setWidth 8),
    volt := d.volt, band := d.band, supply := d.supply, needRearm := d.needRearm, fresh := d.fresh, wdogHold := d.wdogHold, tempOff := d.tempOff,
    tileOvl := d.tileOvl, timed := d.snapped && d.timeAt.isSome, backlog := decide (d.capt.length > frameCap p), pulseLong := d.pulseLong, rearmEarly := d.rearmEarly, echo := d.echo,
    snapEcho := d.snapEcho, temp := d.temp, cfgCrc := cfgCrc p d.cfg, lost := d.lost,
    edges := (d.capt.take (frameCap p)).map fun e => { e with path := if p < 6 then e.path else c } }

/-- What the measurements of a period change in a side. -/
def measure (p : Nat) (m : TileMeas) (d : Side) : Side :=
  noteSupp { d with volt := m.volt, temp := m.temp, hot := d.hot && !m.cool, otherOn := m.other.setWidth 16, rb := if p < 6 && d.rbUse != 0 then setBit d.rb d.rbPin m.rb else d.rb }

/-- What a frame that has been sent leaves in a side: LOST, SUPP, PULSE_LONG and REARM_EARLY cover the time since the previous frame (log 17). -/
def frameSent (p : Nat) (d : Side) : Side :=
  { d with alive := d.alive + 1, capt := d.capt.drop (frameCap p), lost := 0, pulseLong := false, rearmEarly := false, suppNow := 0 }

/-- TILE_PERIOD (R192): a side samples its filtered levels, sets CAPT and sends its inbound frame. -/
def execTilePeriod (p : Nat) (c : Chan) (m : TileMeas) (s : State) : Res :=
  if !tilePresent s.variant p then .next s
  else
    let c := sideChan p c
    let s := updSide p c (measure p m) s
    let d := sideOf s p c
    let ap := if p < 6 then fieldApplied d else sotApplied (sotOff s p) d
    let f := inboundFrame s p c (tileNow s d) (m.sw.setWidth 16) ap d.suppNow d
    .next (updLink p (fun l => match c with | .a => { l with a := { l.a with inb := some f } } | .b => { l with b := { l.b with inb := some f } })
      (updSide p c (frameSent p) s))

/-! ## What switches a tile's outputs off (R197, R210, R213, R217, R218, R220) -/

/-- A side resets by itself: a field tile, or one side of a safety output tile (R197). -/
def oneSideReset (p : Nat) (c : Chan) (s : State) : State :=
  if p < 6 then tileReset p s else updSide p c (sideReset (now s)) s

/-- TILE_POWER_RESET (R197): the logic supply of a tile, or of one side of a safety output tile, has fallen below its power-on threshold. -/
def execTilePowerReset (p : Nat) (c : Chan) (s : State) : Res :=
  if tilePresent s.variant p then .next (oneSideReset p c s) else .next s

/-- TILE_FRAME_TIMEOUT (R197): the tile has accepted no outbound frame, on any stream, for 1 ms of its own oscillator (±2 %). -/
def execTileFrameTimeout (p : Nat) (s : State) : Res :=
  if tilePresent s.variant p && decide ((sideOf s p .a).acceptAt + 98000 ≤ now s) && decide ((sideOf s p .b).acceptAt + 98000 ≤ now s) then .next (tileReset p s)
  else .next s

/-- TILE_RESET_SEQUENCE (R197): the tile receives the reset sequence its link controller sends. -/
def execTileResetSequence (p : Nat) (s : State) : Res :=
  if tilePresent s.variant p && (linkOf s p).resetSeq then .next (tileReset p (updLink p (fun l => { l with resetSeq := false }) s)) else .next s

/-- A pin whose driver its mode uses: an output or a test source. -/
def drivenPin (d : Side) (pin : Nat) : Bool := let m := cfgMode (vGet d.cfg pin 0); m == 2 || m == 3

/-- PIN_OVERLOAD (R210): the pin switches off and sets its overload latch. -/
def execPinOverload (p pin : Nat) (s : State) : Res :=
  if tilePresent s.variant p && isField p && decide (pin < 16) && drivenPin (sideOf s p .a) pin then
    .next (updSide p .a (fun d => { d with ovl := setBit d.ovl pin true }) s)
  else .next s

/-- TILE_OVERCURRENT (R210): the output sum has exceeded the over-current trip for 1 ms. -/
def execTileOvercurrent (p : Nat) (s : State) : Res :=
  if tilePresent s.variant p && isField p then .next (updSide p .a (fun d => { d with tileOvl := true }) s) else .next s

/-- PULSE_TIMER_EXPIRY (R209, R218): a pulse on a pin or switch has lasted 1 ms without a break. -/
def execPulseTimerExpiry (p : Nat) (c : Chan) (pin : Nat) (s : State) : Res :=
  let d := sideOf s p c
  let on := if p < 6 then d.dark.getLsbD pin && cfgMode (vGet d.cfg pin 0) == 2 && !cfgPexempt (vGet d.cfg pin 0)
    else (d.dark ||| d.light).getLsbD pin && outEn (vGet d.cfg pin 0) && !outPexempt (vGet d.cfg pin 0)
  if tilePresent s.variant p && on && !(d.ended.getLsbD pin) then
    .next (updSide p c (fun d => { d with ended := setBit d.ended pin true, pulseLong := true }) s)
  else .next s

/-- Times a side keeps of its band at time `t` (R213): entry to Normal, and the fall below the trip threshold. -/
def bandTimes (t : Nat) (b : Band) (d : Side) : Side :=
  { d with band := b, belowWas := if b == .belowTrip || b == .missing then d.belowWas else (match d.belowAt with | some n => some (n, t) | none => d.belowWas), normalAt := if b == .normal then (if d.band == .normal then d.normalAt else some t) else none,
           belowAt := if b == .belowTrip || b == .missing then (if d.band == .belowTrip || d.band == .missing then d.belowAt else some t) else none }

/-- SUPPLY_BAND_CHANGE (R212, R213): the band of a side changes; READY is left for QUALIFYING, with a re-arm needed, when the band leaves Normal, and so is ARMED where the re-arm was accepted in the same tile cycle. -/
def execSupplyBandChange (p : Nat) (c : Chan) (b : Band) (s : State) : Res :=
  if !tilePresent s.variant p then .next s
  else .next (updSide p c (fun d =>
    let d := bandTimes (now s) b d
    if d.supply == .ready && b != .normal then { d with supply := .qualifying, needRearm := true }
    else if d.supply == .armed && b != .normal && d.armedAt == some (now s) then { d with supply := .qualifying, needRearm := true, rearmEarly := true }
    else d) s)

/-- Since when the supply of a side has been below the trip threshold; a rise in the same tile cycle does not count (R213). -/
def belowSince (t : Nat) (d : Side) : Option Nat :=
  match d.belowAt, d.belowWas with
  | some n, _ => some n
  | none, some (n, r) => if r = t then some n else none
  | none, none => none

/-- SUPPLY_TRIP (R213): the supply of a side has been below the trip threshold for the trip time (0.98 ms at least). -/
def execSupplyTrip (p : Nat) (c : Chan) (s : State) : Res :=
  match belowSince (now s) (sideOf s p c) with
  | none => .next s
  | some t =>
    if tilePresent s.variant p && decide (t + 98000 ≤ now s) then
      .next (updSide p c (fun d => if d.supply == .ready then d else { d with supply := .qualifying, needRearm := true }) s)
    else .next s

/-- SUPPLY_QUALIFIED (R213): the supply of a side has held the Normal band for the qualification time (98 ms at least). -/
def execSupplyQualified (p : Nat) (c : Chan) (s : State) : Res :=
  match (sideOf s p c).normalAt with
  | none => .next s
  | some t =>
    if tilePresent s.variant p && decide (t + 9800000 ≤ now s) && (sideOf s p c).supply == .qualifying then
      .next (updSide p c (fun d => { d with supply := if d.needRearm then .ready else .armed }) s)
    else .next s

/-- The acceptance a side's watchdog counts from: of a frame accepted in the cycle of the expiry the expiry wins, so the one before counts (R217). -/
def watchdogFrom (t : Nat) (d : Side) : Nat := if d.acceptAt = t then d.acceptPrev else d.acceptAt

/-- A watchdog expires on a side whose last accepted frame is 19.6 µs old at least (R217, R220). -/
def watchdogExpiry (p : Nat) (c : Chan) (s : State) : State :=
  if tilePresent s.variant p && decide (watchdogFrom (now s) (sideOf s p c) + 1960 ≤ now s) then
    updSide p c (fun d => { d with wdogHold := true, holdAt := some (now s) }) s
  else s

/-- SOT_WATCHDOG (R217). -/
def execSotWatchdog (p : Nat) (c : Chan) (s : State) : Res :=
  if isField p then .next s else .next (watchdogExpiry p c s)

/-- FIELD_TILE_WATCHDOG (R220). -/
def execFieldTileWatchdog (p : Nat) (s : State) : Res :=
  if isField p then .next (watchdogExpiry p .a s) else .next s

/-- OVER_TEMPERATURE (R220): a junction exceeds its shutdown temperature. -/
def execOverTemperature (p : Nat) (c : Chan) (s : State) : Res :=
  if tilePresent s.variant p then .next (updSide p c (fun d => { d with tempOff := true, hot := true }) s) else .next s

end Sys2Proof.Machine
end

