-- ==== Sys2Proof/Machine/Timetable.lean ====
section
/-! DEFINITION. The Timetable's test cycle: slots and pulses, the read-back comparator, demand read-backs, captures, test-source holds and overdue tests (R223 to R237, R245). -/

namespace Sys2Proof.Machine

/-- Change TBL. -/
def updTbl (f : Tbl → Tbl) (s : State) : State := { s with tbl := f s.tbl }

/-- The link controllers send images and the schedule is applied: the evaluators scan and a schedule is installed (R194, R223). -/
def schedActive (s : State) : Bool := scanningRuns s && s.tbl.claims.isSome

/-- A test source is driven at 0: it is held off, or its hold has ended and its pattern resumes with the next frame (R232). -/
def sourceHeld (s : State) (pin : Nat) : Bool := s.tbl.xsHeld.getLsbD pin || s.tbl.xsRelease.getLsbD pin

/-! ## Failures (R230) -/

/-- The source of a failure of Table TBL-3. -/
def failSource (use code : Nat) : Nat :=
  match code with
  | 1 => 0x048
  | 2 => if use = 5 ∨ use = 6 then 0x049 else 0x048
  | 3 => 0x049
  | 4 => 0x04A
  | 5 => 0x04B
  | 6 => 0x04C
  | _ => 0x04D

/-- A failure is recorded (the first is kept), its events are set and its source is raised (R230, Table TBL-7). -/
def testFail (use pin code : Nat) (s : State) : State :=
  let s := updTbl (fun t => { t with fail := t.fail.orElse fun _ => some { use := use, pin := pin, code := code, time := now s } }) s
  let s := evt pgTbl 0 (evtIf (code == 6) pgTbl 1 (evtIf (code == 7) pgTbl 2 (evtIf (code == 5) pgTbl 3 s)))
  report (failSource use code) (fld 0 4 code ||| fld 4 3 use) pin pgTbl s

/-! ## Slots -/

/-- The side of a safety output test (Table TBL-1): uses 3 and 5 test side A, 4 and 6 side B. -/
def useSide (use : Nat) : Chan := if use % 2 = 1 then .a else .b

/-- The tile position of a slot. -/
def slotTile (k : Slot) : Nat := pinTile k.claim.index

/-- The pin or output number of a slot's pin in its tile. -/
def slotPin (k : Slot) : Nat := if k.claim.index < 96 then k.claim.index % 16 else (k.claim.index - 96) % 8

/-- The inputs a test source feeds, ascending (R232). -/
def fedInputs (l : List Claim) (source : Nat) : List Nat :=
  (List.range 96).filter fun p => l.any fun c => c.kind == 1 && c.use == 1 && c.source == source && c.index == p

/-- A slot still sends its pulse: a change of the command ends it with the period after (R228). -/
def pulseOn (now : Nat) (k : Slot) : Bool := !k.void || k.dropAt == some now

/-- A test's pulse is sent in a slot's present period, whatever a read has shown (R226, R227, R231): a pulse needs the command its test is made from. -/
def pulsing (now : Nat) (k : Slot) : Bool :=
  decide (k.period < k.claim.width) &&
    (match k.claim.use with
     | 1 => k.cmdA && pulseOn now k
     | 2 => true
     | 3 => k.cmdA && pulseOn now k
     | 4 => k.cmdB && pulseOn now k
     | _ => !k.cmdA && !k.cmdB && pulseOn now k)

/-- The reads a slot takes (Table TBL-2, R232). -/
def slotReads (l : List Claim) (c : Claim) (cmd : Bool) : List TestRead :=
  match c.use with
  | 1 => { pin := c.index } :: if cmd then [{ pin := c.index, restore := true }] else []
  | 2 => (fedInputs l c.index).map fun p => { pin := p }
  | _ => []

/-- A TEST claim begins an occurrence in this period (R224). -/
def startsNow (frame period : Nat) (c : Claim) : Bool :=
  c.kind == 5 && decide (0 < c.tperiod) && decide (frame % c.tperiod = c.foff) && decide (period = c.soff)

/-- The command of a pin's driver or switch on a side, in the images the link controllers latch now; 0 for an unusable pin (R396). -/
def newCmd (s : State) (p : Nat) (c : Chan) : BitVec 16 :=
  if !schedActive s then 0
  else if p < 6 then ((s.ilkl.imgA.field >>> (16 * p)).setWidth 16) &&& usablePins s p &&& tileBits 16 fun n => cfgMode (vGet (linkOf s p).cfg n 0) == 2
  else match c with
    | .a => (s.ilkl.imgA.sot >>> (8 * (p - 6))).setWidth 16 &&& usablePins s p
    | .b => (s.ilkl.imgB.sot >>> (8 * (p - 6))).setWidth 16 &&& usablePins s p

/-- A new slot. Tests of safety output tiles do not run in SPLIT (R229). -/
def newSlot (s : State) (l : List Claim) (c : Claim) (entry : Nat) : Slot :=
  let p := pinTile c.index
  let n := if c.index < 96 then c.index % 16 else (c.index - 96) % 8
  let a := (newCmd s p .a).getLsbD n
  let b := if p < 6 then a else (newCmd s p .b).getLsbD n
  let light := c.use == 5 || c.use == 6
  { entry := entry, claim := c, cmdA := a, cmdB := b, void := light && (a || b), reads := slotReads l c a }

/-- The slots that start in this period. -/
def startingSlots (s : State) : List Slot :=
  match s.tbl.claims with
  | none => []
  | some l => (l.zipIdx.filter fun c => startsNow s.tbl.frame s.tbl.period c.1 && !(decide (96 ≤ c.1.index) && splitScan s)).map fun c => newSlot s l c.1 c.2

/-- A test has completed: its overdue span starts anew (R229). -/
def testCompleted (entry : Nat) (s : State) : State := updTbl (fun t => { t with overdue := smSet t.overdue entry t.now }) s

/-- The restore check of a safety output test is due: a pulse was sent (R227). -/
def restoreDue (k : Slot) : Bool :=
  !k.noReturn && (match k.claim.use with
  | 3 => k.cmdA | 4 => k.cmdB | 5 => true | 6 => true | _ => false)

/-- The slot has made every judgement it needs (R226, R227). -/
def slotPassed (k : Slot) : Bool :=
  if k.claim.use ≤ 2 then k.reads.all fun r => r.restore
  else k.gotX && k.gotO && (!restoreDue k || k.restored)

/-- The return from a pulse fails where side x has been seen after the judgement of the pulse and has not returned (R227). -/
def returnFails (k : Slot) : Bool := decide (2 < k.claim.use) && k.gotX && k.gotO && k.seenAfter && restoreDue k && !k.restored

/-- The slot is over: completed, void, or failed (R227, R229). -/
def endSlot (k : Slot) (s : State) : State :=
  if k.void then (if k.failed then s else updTbl (fun t => { t with voids := satAdd 32 t.voids 1 }) s)
  else if returnFails k then testFail k.claim.use k.claim.index 5 s
  else if k.failed then s
  else if slotPassed k then testCompleted k.entry (updTbl (fun t => { t with done := satAdd 32 t.done 1 }) s)
  else updTbl (fun t => { t with voids := satAdd 32 t.voids 1 }) s

/-- The slot's occupancy, and the two periods in which its last read is judged, have passed (R224, R234). -/
def slotOver (k : Slot) : Bool :=
  decide (k.period ≥ k.claim.width + 20) && (decide (k.period ≥ k.claim.width + 24) || k.reads.all fun r => r.latched.isNone)

/-- Slots advance one period; those that are over end. -/
def advanceSlots (s : State) : State :=
  let ks := s.tbl.slots.map fun k => { k with period := k.period + 1 }
  let s := (ks.filter slotOver).foldl (fun s k => endSlot k s) s
  updTbl (fun t => { t with slots := ks.filter fun k => !slotOver k }) s

/-- Change the slots of a tile. -/
def mapSlots (p : Nat) (f : Slot → Slot) (s : State) : State :=
  updTbl (fun t => { t with slots := t.slots.map fun k => if slotTile k = p then f k else k }) s

/-- The slots of a tile become void (R229). -/
def voidTile (p : Nat) (s : State) : State := mapSlots p (fun k => { k with void := true }) s

/-- The read of a slot has been taken (R228): a field tile's off-state reads are latched; a safety output's pulse has been judged from both sides. -/
def readTaken (k : Slot) : Bool :=
  if k.claim.use ≤ 2 then k.reads.all fun r => r.restore || r.latched.isSome else k.gotX && k.gotO

/-- A command that changes between slot period 0 and the read voids the slot, and its pulse ends with the next period; one that changes later voids the return alone (R228). -/
def voidChanged (p : Nat) (chg : Chan → BitVec 16) (s : State) : State :=
  let n := s.tbl.now
  mapSlots p (fun k =>
    let c := if p < 6 then Chan.a else useSide k.claim.use
    let ch := if k.claim.use = 5 ∨ k.claim.use = 6 then chg .a ||| chg .b else chg c
    if k.claim.use = 2 ∨ !(ch.getLsbD (slotPin k)) then k
    else if readTaken k then { k with reads := k.reads.filter (fun r => r.latched.isSome), noReturn := true }
    else if k.void then k
    else { k with void := true, dropAt := some n }) s

/-! ## The cycle -/

/-- The next period of the test cycle (R223): it restarts at frame 0, period 0, after a table is installed. Holds that XS_CLR has ended stop at a frame boundary (R232). -/
def advanceCycle (t : Tbl) : Tbl :=
  let t := { t with now := t.now + 1 }
  if t.claims.isNone then t
  else if t.restart then { t with restart := false, frame := 0, period := 0, slots := [], xsRelease := 0 }
  else if t.period + 1 < 200 then { t with period := t.period + 1 }
  else { t with period := 0, frame := (t.frame + 1) % 1000, xsRelease := 0 }

/-- A test's tile is linked and ARMED, and the module scans (R229). -/
def testable (s : State) (c : Claim) : Bool :=
  let p := pinTile c.index
  let l := linkOf s p
  schedActive s && l.up && l.a.last.supply == .armed && (decide (p < 6) || (l.b.last.supply == .armed && !splitScan s))

/-- Since when each test has not completed: from now on whenever its tile is not linked and ARMED or no scan runs (R229). -/
def countOverdue (s : State) : State :=
  match s.tbl.claims with
  | none => s
  | some l =>
    let o := (l.zipIdx.filter fun c => c.1.kind == 5).foldl (fun (o : SMap Nat) c =>
      if !testable s c.1 then smErase o c.2
      else if (smGet o c.2).isNone then smSet o c.2 s.tbl.now else o) s.tbl.overdue
    updTbl (fun t => { t with overdue := o }) s

/-- TEST_OVERDUE (R229): 2 × TPERIOD frames of 200 periods have passed without the test of entry `e` completing. -/
def execTestOverdue (e : Nat) (s : State) : Res :=
  match (s.tbl.claims.getD [])[e]?, smGet s.tbl.overdue e with
  | some c, some n =>
    if c.kind = 5 ∧ n + 400 * c.tperiod ≤ s.tbl.now then
      let s := updTbl (fun t => { t with overdue := smSet t.overdue e t.now, overdueValid := true, overdueCnt := satAdd 8 t.overdueCnt 1, overduePin := c.index, overdueUse := c.use }) s
      .next (report 0x04E (fld 4 3 c.use) c.index pgTbl (evt pgTbl 4 s))
    else .next s
  | _, _ => .next s

/-! ## Demand read-backs and captures (R236, R237) -/

/-- The earliest period a pin's next demand read-back is due in (R236). -/
def demandDue (t : Tbl) (pin : Nat) : Nat :=
  match smGet t.demandAt pin with
  | some n => max (t.now + 8) (n + 40)
  | none => t.now + 8

/-- The TEST claim of a void slot that a demand read-back of a pin and side would complete (R228). -/
def provedBy (t : Tbl) (pin : Nat) (c : Chan) : Option Nat :=
  (t.slots.find? fun k => k.void && k.claim.index == pin && (k.claim.use == 1 || ((k.claim.use == 3 || k.claim.use == 4) && useSide k.claim.use == c))).map fun k => k.entry

/-- A rise before the read cancels the pin's read-back; a fall asks for one (R236). -/
def noteDemand (pin : Nat) (c : Chan) (rose fell : Bool) (t : Tbl) : Tbl :=
  if !rose && !fell then t
  else
    let d := t.demands.filter fun d => !(d.pin == pin && d.side == c && d.latched.isNone)
    if fell then { t with demands := d ++ [{ pin := pin, side := c, due := demandDue t pin, proves := provedBy t pin c }] } else { t with demands := d }

/-- The pin that a CAPTURE claim of the table or of the host names (R237, Table TBL-4). -/
def captureClaimed (t : Tbl) (pin : Nat) : Bool :=
  (t.claims.getD []).any (fun c => c.kind == 4 && c.index == pin) || smGet t.hostCapt (pinTile pin) == some pin

/-- A command change starts the capture of a claimed pin (R237). -/
def noteCapture (pin : Nat) (rose fell : Bool) (t : Tbl) : Tbl :=
  if (rose || fell) && captureClaimed t pin then
    { t with captures := t.captures.filter (fun c => c.pin != pin) ++ [{ pin := pin, level := rose, start := t.now }] }
  else t

/-- The command changes of a tile at a latch (R228, R236, R237). -/
def noteChanges (p : Nat) (s : State) : State :=
  let l := linkOf s p
  let na := newCmd s p .a
  let nb := if p < 6 then 0 else newCmd s p .b
  let s := voidChanged p (fun c => match c with | .a => l.latchedA ^^^ na | .b => l.latchedB ^^^ nb) s
  let side := fun (c : Chan) (old new : BitVec 16) (s : State) =>
    (List.range (cfgSlots p)).foldl (fun s n =>
      let rose := !(old.getLsbD n) && new.getLsbD n
      let fell := old.getLsbD n && !(new.getLsbD n)
      updTbl (fun t => let t := noteDemand (tilePin p n) c rose fell t; if p < 6 then noteCapture (tilePin p n) rose fell t else t) s) s
  let s := side .a l.latchedA na s
  let s := if p < 6 then s else side .b l.latchedB nb s
  updLink p (fun l => { l with latchedA := na, latchedB := nb }) s

/-- Nothing is read back or captured on a tile whose frames carry no commands of the Interlocking (R194, R223). -/
def dropTile (p : Nat) (s : State) : State :=
  let s := voidTile p s
  let s := updTbl (fun t => { t with demands := t.demands.filter (fun d => pinTile d.pin != p), captures := t.captures.filter fun c => pinTile c.pin != p }) s
  updLink p (fun l => { l with latchedA := 0, latchedB := 0 }) s

/-! ## The comparator (R234, R235) -/

/-- A read of a slot that may be taken in its present period: DARK reads from WIDTH − 17, restore reads from WIDTH + 12 to WIDTH + 19, fed inputs from WIDTH − 16 − k. -/
def readOpen (l : List Claim) (k : Slot) (r : TestRead) : Bool :=
  r.latched.isNone && !k.void &&
    (if r.restore then decide (k.claim.width + 12 ≤ k.period) && decide (k.period ≤ k.claim.width + 19)
     else if k.claim.use = 2 then decide (k.claim.width ≤ k.period + 16 + (fedInputs l k.claim.index).length) && decide (k.period < k.claim.width)
     else decide (k.claim.width ≤ k.period + 17) && decide (k.period < k.claim.width))

/-- What the comparator of a field tile serves in a period: the pin of the tile and RB_USE. -/
structure RbUse where
  pin : Nat := 0
  use : Nat := 0
  deriving DecidableEq, Repr

/-- The demand read-back that is due, in ascending pin order. -/
def dueDemand (t : Tbl) (p : Nat) : Option Nat :=
  (List.range 16).find? fun n => t.demands.any fun d => d.pin == tilePin p n && d.latched.isNone && decide (d.due ≤ t.now)

/-- The test read that is open, in order of slot start, then of pin. -/
def dueRead (t : Tbl) (p : Nat) : Option (Nat × Nat) :=
  t.slots.zipIdx.findSome? fun k =>
    if slotTile k.1 = p ∧ k.1.claim.index < 96 then (k.1.reads.find? (readOpen (t.claims.getD []) k.1)).map fun r => (k.2, r.pin) else none

/-- The first open read of a slot is latched. -/
def latchRead (l : List Claim) (now : Nat) (k : Slot) : Slot :=
  match k.reads.findIdx? (readOpen l k) with
  | some i => { k with reads := k.reads.modify i fun r => { r with latched := some now } }
  | none => k

/-- The capture of a tile that still runs (R237). -/
def openCapture (t : Tbl) (p : Nat) : Option Capture := t.captures.find? fun c => pinTile c.pin == p && decide (t.now < c.start + 40)

/-- The comparator of a field tile is given to one use (R235); the periods a use above capture takes from a running capture are kept (R237). -/
def chooseRb (p : Nat) (s : State) : RbUse × State :=
  let t := s.tbl
  let higher := fun (t : Tbl) => { t with captures := t.captures.map fun c => if pinTile c.pin == p && decide (t.now < c.start + 40) then { c with taken := c.taken ++ [t.now] } else c }
  match dueDemand t p with
  | some n =>
    ({ pin := n, use := 1 }, updTbl (fun t => higher { t with
      demands := t.demands.map (fun d => if d.pin == tilePin p n && d.latched.isNone && decide (d.due ≤ t.now) then { d with latched := some t.now } else d),
      demandAt := smSet t.demandAt (tilePin p n) t.now, demandRb := satAdd 32 t.demandRb 1 }) s)
  | none =>
    match dueRead t p with
    | some (i, pin) => ({ pin := pin % 16, use := 2 }, updTbl (fun t => higher { t with slots := t.slots.modify i (latchRead (t.claims.getD []) t.now) }) s)
    | none =>
      match openCapture t p with
      | some c => ({ pin := c.pin % 16, use := 3 }, updTbl (fun t => { t with captures := t.captures.map fun x => if x.pin == c.pin then { x with latched := x.latched ++ [t.now] } else x }) s)
      | none => ({}, s)

/-- The frame of this period was not accepted by the tile: reads it carried are void or taken again, and a safety output pulse whose last frame it was is void (R229, log 18). -/
def frameMissed (p : Nat) (c : Chan) (s : State) : State :=
  let n := s.tbl.now
  let s := mapSlots p (fun k =>
    if p < 6 then { k with void := k.void || k.reads.any fun r => r.latched == some n }
    else { k with void := k.void || (useSide k.claim.use == c && decide (k.period < k.claim.width)) }) s
  updTbl (fun t => { t with demands := t.demands.map (fun d => if pinTile d.pin == p && d.latched == some n then { d with latched := none } else d),
                            captures := t.captures.map fun x => if pinTile x.pin == p then { x with latched := x.latched.filter fun m => m != n } else x }) s

/-! ## Judgements on an accepted inbound frame (R226 to R229, R234 to R237) -/

/-- A flag of the tile that voids its slots (R229). -/
def voidFlags (f : InFrame) : Bool := f.wdogHold || f.tempOff || f.tileOvl || f.pulseLong

/-- A read latched in period `n` is judged from a frame accepted two periods later or more: 10 µs after the latch. -/
def readDue (now : Nat) (r : TestRead) : Bool :=
  match r.latched with
  | some n => decide (n + 2 ≤ now)
  | none => false

/-- The due reads of a field tile slot are judged (R226, R232). -/
def judgeReads (f : InFrame) (i : Nat) (k : Slot) (s : State) : State :=
  let due := k.reads.filter (readDue s.tbl.now)
  if due.isEmpty then s
  else if f.supply != .armed then updTbl (fun t => { t with slots := t.slots.modify i fun k => { k with void := true, reads := k.reads.filter fun r => !(readDue t.now r) } }) s
  else
    let bad := due.filter fun r => f.rb.getLsbD (r.pin % 16) != r.restore
    let s := updTbl (fun t => { t with slots := t.slots.modify i fun k => { k with failed := k.failed || (!k.void && !bad.isEmpty), reads := k.reads.filter fun r => !(readDue t.now r) } }) s
    if k.void then s
    else bad.foldl (fun s r =>
      if r.restore then testFail k.claim.use r.pin 5 s
      else if k.claim.use = 2 then testFail 2 r.pin 6 (updTbl (fun t => { t with xsHeld := setBit t.xsHeld k.claim.index true }) s)
      else testFail k.claim.use r.pin 1 s) s

/-- What a side's frame shows of a safety output test: the failures, and the slot afterwards (R227, R230). Each condition is judged by itself: a failure found on one side ends neither the other side's judgement nor that of the return. -/
def judgeSot (c : Chan) (f : InFrame) (k : Slot) : Slot × List Nat :=
  let n := slotPin k
  let x := useSide k.claim.use == c
  let light := k.claim.use == 5 || k.claim.use == 6
  let closed := f.stB.getLsbD n
  let outv := f.stA.getLsbD n
  let ended := decide (k.period ≥ k.claim.width + 1)
  let supp := x && light && f.supp.getLsbD n && !k.suppSeen && !k.gotX
  let first := ended && (if x then !k.gotX else !k.gotO)
  let fs := (if supp then [3] else []) ++ (if first && x then (if light then (if closed then [] else [4]) else if closed then [1] else []) else []) ++ if first && outv then [2] else []
  ({ k with suppSeen := k.suppSeen || supp, failed := k.failed || !fs.isEmpty, gotX := k.gotX || (first && x), gotO := k.gotO || (first && !x),
            seenAfter := k.seenAfter || (x && ended && k.gotX), restored := k.restored || (x && ended && k.gotX && (if light then !closed else closed)) }, fs)

/-- The frame of side `c` carries the read of a safety output slot: the first after the pulse (R229). -/
def sotReadDue (c : Chan) (k : Slot) : Bool :=
  decide (k.period ≥ k.claim.width + 1) && (if useSide k.claim.use == c then !k.gotX else !k.gotO)

/-- The slots of a tile are judged on an accepted frame of side `c`. -/
def judgeSlots (p : Nat) (c : Chan) (f : InFrame) (s : State) : State :=
  let s := if voidFlags f then voidTile p s else s
  (List.range s.tbl.slots.length).foldl (fun s i =>
    match s.tbl.slots[i]? with
    | none => s
    | some k =>
      if slotTile k ≠ p then s
      else if p < 6 then judgeReads f i k s
      else if k.void || decide (k.period > k.claim.width + 19) then s
      else if f.supply != .armed && sotReadDue c k then updTbl (fun t => { t with slots := t.slots.modify i fun k => { k with void := true } }) s
      else
        let r := judgeSot c f k
        r.2.foldl (fun s code => testFail k.claim.use k.claim.index code s) (updTbl (fun t => { t with slots := t.slots.modify i fun _ => r.1 }) s)) s

/-- An inbound frame of a safety output tile side did not come or was rejected: SUPP of that period is not known, so a light test of the side is void (R227, R229). -/
def inboundMissed (p : Nat) (c : Chan) (s : State) : State :=
  if p < 6 then s
  else mapSlots p (fun k => { k with void := k.void || ((k.claim.use == 5 || k.claim.use == 6) && useSide k.claim.use == c && !k.gotX) }) s

/-- A demand read-back is judged on this frame (R236): RB of a field tile, SW of a safety output tile side. -/
def demandReady (p : Nat) (c : Chan) (now : Nat) (d : Demand) : Bool :=
  pinTile d.pin == p && (if p < 6 then (match d.latched with | some n => decide (n + 2 ≤ now) | none => false) else d.side == c && decide (d.due ≤ now))

/-- The demand read-backs of a tile are judged on an accepted frame. A pass completes the test it proves (R228). -/
def judgeDemands (p : Nat) (c : Chan) (f : InFrame) (s : State) : State :=
  let ds := s.tbl.demands.filter (demandReady p c s.tbl.now)
  let s := updTbl (fun t => { t with demands := t.demands.filter (fun d => !(demandReady p c t.now d)), demandRb := (if p < 6 then t.demandRb else satAdd 32 t.demandRb ds.length) }) s
  ds.foldl (fun s d =>
    let on := if p < 6 then f.rb.getLsbD (d.pin % 16) else f.stB.getLsbD ((d.pin - 96) % 8)
    if on then testFail 0 d.pin 7 s
    else match d.proves with
      | some e => testCompleted e s
      | none => s) s

/-- A capture ends (R237). -/
def captDone (c : Capture) (timeout : Bool) (delay : Nat) (s : State) : State :=
  let f : Tbl → Tbl := fun t =>
    { t with captures := t.captures.filter (fun x => x.pin != c.pin), captValid := true, captPin := c.pin, captEdge := c.level,
             captCoarse := c.taken.any (fun n => decide (n ≤ c.start + delay)), captTimeout := timeout, captSeq := t.captSeq + 1, captDelay := delay % 256 }
  evt pgTbl 7 (updTbl f s)

/-- The capture of a tile is judged on an accepted frame. -/
def judgeCapture (p : Nat) (f : InFrame) (s : State) : State :=
  match s.tbl.captures.find? fun c => pinTile c.pin == p with
  | none => s
  | some c =>
    match c.latched.find? fun n => decide (n + 2 ≤ s.tbl.now) with
    | none => s
    | some n =>
      if f.rb.getLsbD (c.pin % 16) == c.level then captDone c false (n - c.start) s
      else updTbl (fun t => { t with captures := t.captures.map fun x => if x.pin == c.pin then { x with latched := x.latched.filter fun m => !(decide (m + 2 ≤ t.now)) } else x }) s

/-- CAPTURE_TIMEOUT (R237): 40 periods have passed without the new level at the captured pin of tile position `p`. -/
def execCaptureTimeout (p : Nat) (s : State) : Res :=
  match s.tbl.captures.find? fun c => pinTile c.pin == p with
  | none => .next s
  | some c => if c.start + 40 ≤ s.tbl.now then .next (captDone c true 40 s) else .next s

/-! ## TBL.CTRL -/

/-- CTRL.XS_CLR: every hold ends, so no source reads as held; the patterns resume from the next frame (R232). -/
def xsClr (s : State) : State := updTbl (fun t => { t with xsRelease := t.xsRelease ||| t.xsHeld, xsHeld := 0 }) s

/-- CTRL.CNT_CLR (Table TBL-7): the counters are cleared, and TEST_FAIL may record again. -/
def tblCntClr (s : State) : State := updTbl (fun t => { t with done := 0, voids := 0, demandRb := 0, overdueCnt := 0, fail := none }) s

end Sys2Proof.Machine
end

