-- ==== Sys2Proof/Machine/LinkCtl.lean ====
section
/-! DEFINITION. The tile link controllers: the outbound latch, the frames in both directions, link up and down, FRESH, configuration, re-arm and the tile FIFO (R189 to R200, R205 to R207, R214, R221, R222). -/

namespace Sys2Proof.Machine

/-! ## Streams -/

/-- A stream of a link. -/
def streamOf (l : Link) (p : Nat) (c : Chan) : Stream := match sideChan p c with | .a => l.a | .b => l.b

/-- Change a stream of a link. -/
def updStream (p : Nat) (c : Chan) (f : Stream → Stream) (s : State) : State :=
  updLink p (fun l => match sideChan p c with | .a => { l with a := f l.a } | .b => { l with b := f l.b }) s

/-- The streams of a tile position. -/
def tileChans (p : Nat) : List Chan := if p < 6 then [.a] else [.a, .b]

/-- A link controller that its reset or its fence keeps still. -/
def linkFenced (p : Nat) (s : State) : Bool := s.fab.fenced.getLsbD (pgTile p)

/-- A rejected frame is counted once (R191), in either direction. -/
def frameError (p : Nat) (c : Chan) (alive : Bool) (s : State) : State :=
  let s := updStream p c (fun t => if alive then { t with aliveErr := satAdd 16 t.aliveErr 1 } else { t with crcErr := satAdd 16 t.crcErr 1 }) s
  tileReport p 1 0 (evt (pgTile p) 11 s)

/-- The CRCs are compared again only after two full rounds (R198), as after a change. -/
def restartWait (p : Nat) (l : Link) : Link := { l with cfgWait := (cfgSlots p - l.slot) % cfgSlots p + 2 * cfgSlots p }

/-- A FRESH to come is expected: the reset sequence is sent (R199). Configuration proceeds as after start-up (log 20). -/
def expectReset (p : Nat) (l : Link) : Link :=
  restartWait p { l with a := { l.a with expectFresh := true }, b := { l.b with expectFresh := true }, snapSent := [] }

/-- Frames resume (R194, R195, R199): the tile's FRESH is expected where it reset meanwhile, as its latest frame shows; a later one is not. -/
def resumeFrames (p : Nat) (l : Link) : Link :=
  restartWait p { l with a := { l.a with expectFresh := l.a.last.fresh }, b := { l.b with expectFresh := l.b.last.fresh }, snapSent := [] }

/-! ## The outbound latch (R193, R194) -/

/-- The mode withholds the frames of a safety output tile (R194, R427). -/
def modeWithholds (p : Nat) (s : State) : Bool := !isField p && (s.sys.mode == .split || s.sys.mode == .incomplete)

/-- Slots of a tile whose pulse is sent now, as a mask over the tile's pins. -/
def pulseBits (s : State) (p : Nat) (uses : List Nat) : BitVec 16 :=
  s.tbl.slots.foldl (fun m k => if slotTile k = p ∧ uses.contains k.claim.use ∧ pulsing s.tbl.now k then setBit m (slotPin k) true else m) 0

/-- TSRC of a field tile (R231, R232): 1 in every period but a gap's, 0 while a source is held off or for an unusable pin (R396). -/
def testSources (s : State) (p : Nat) : BitVec 16 :=
  if !schedActive s then 0
  else
    let gap := pulseBits s p [2]
    usablePins s p &&& tileBits 16 fun n => cfgMode (vGet (linkOf s p).cfg n 0) == 3 && !(gap.getLsbD n) && !(sourceHeld s (16 * p + n))

/-- SNAP_SEQ values sent, newest first. -/
def noteSnap (q : BitVec 8) (t : Nat) (l : List (BitVec 8 × Nat)) : List (BitVec 8 × Nat) :=
  match l with
  | (r, u) :: rest => if r = q then (r, u) :: rest else ((q, t) :: (r, u) :: rest).take 5
  | [] => [(q, t)]

/-- The frame of stream `c` in this period. -/
def outFrame (s : State) (p : Nat) (c : Chan) (rearm : Bool) (rb : RbUse) : OutFrame :=
  let l := linkOf s p
  let t := streamOf l p c
  let act := schedActive s
  { alive := t.alive + 1, cmd := newCmd s p c,
    dark := if !act then 0 else if p < 6 then pulseBits s p [1] else pulseBits s p [match c with | .a => 3 | .b => 4],
    light := if p < 6 then testSources s p else if act then pulseBits s p [match c with | .a => 5 | .b => 6] else 0,
    rearm := rearm, ackFresh := t.ackFresh, cfgIdx := l.slot, cfgWord := vGet l.cfg l.slot 0,
    snapTime := now s / 5 % 2 ^ 48, snapSeq := s.tb.snapSeq, rbPin := rb.pin, rbUse := rb.use, epoch := s.ilkl.imgA.epoch.setWidth 16, sentAt := now s }

/-- A stream that sends its frame; while scanning runs a stale stream sends idle symbols (R79, R194). -/
def sendStream (scans : Bool) (f : OutFrame) (t : Stream) : Stream :=
  if scans && t.stale then { t with out := none } else { t with out := some f, alive := f.alive, ackFresh := false }

/-- What a period's frames change in a link: the configuration slot, the snapshot and the re-arm request. -/
def linkSent (scans : Bool) (p : Nat) (seq : BitVec 8) (t : Nat) (fa fb : OutFrame) (host sa sb : Bool) (l : Link) : Link :=
  let w := l.cfgWait - 1
  { l with a := sendStream scans fa l.a, b := if p < 6 then l.b else sendStream scans fb l.b, slot := (l.slot + 1) % cfgSlots p, cfgWait := w,
           cfgChanged := if w = 0 then 0 else l.cfgChanged, rearmReq := l.rearmReq && !host, rearmPrevA := sa, rearmPrevB := sb,
           snapTime := fa.snapTime, snapSeq := seq, snapSent := noteSnap seq t l.snapSent }

/-- A tile's link controller builds its frames, or sends none while its link is down, its mode withholds them, its port is fenced, its tile is unusable (group I of Table AST-2) or the module is PARKED (R488). -/
def latchTile (p : Nat) (s : State) : State :=
  let l := linkOf s p
  if !tilePresent s.variant p then s
  else if !l.up || modeWithholds p s || linkFenced p s || s.ast.unusableTiles.getLsbD p || s.sys.mode == .parked then
    updLink p (fun l => { l with a := { l.a with out := none }, b := { l.b with out := none }, withheld := modeWithholds p s, snapSent := [] }) (dropTile p s)
  else
    let s := if l.withheld then updLink p (fun l => resumeFrames p { l with withheld := false }) s else s
    let rb := if p < 6 && schedActive s then chooseRb p s else ({}, s)
    let s := rb.2
    let l := linkOf s p
    let zero := newCmd s p .a == 0 && (if p < 6 then testSources s p == 0 else newCmd s p .b == 0)
    let sa := schedActive s && s.ilkl.imgA.rearm.getLsbD p
    let sb := schedActive s && s.ilkl.imgB.rearm.getLsbD p
    let host := l.rearmReq && zero
    let fa := outFrame s p .a (host || (sa && !l.rearmPrevA)) rb.1
    let fb := outFrame s p .b (host || (sb && !l.rearmPrevB)) rb.1
    updLink p (linkSent (scanningRuns s) p s.tb.snapSeq (now s) fa fb host sa sb) s

/-- The frames of the last period that never reached their tiles (R229). -/
def lostFrames (s : State) : State :=
  (List.range 8).foldl (fun s p => (tileChans p).foldl (fun s c => if (streamOf (linkOf s p) p c).out.isSome then frameMissed p c s else s) s) s

/-- The Timetable's part of a latch: the cycle, the slots, the command changes, and the schedule memory's word `w` (R223 to R229, R245). -/
def latchTests (w : WordCheck) (s : State) : State :=
  let s := advanceSlots (updTbl advanceCycle s)
  let act := schedActive s
  let s := (List.range 8).foldl (fun s p => if !tilePresent s.variant p then s else if act && (linkOf s p).up && !(modeWithholds p s) then noteChanges p s else dropTile p s) s
  let new := (startingSlots s).map fun k => { k with void := k.void || !act || !(linkOf s (slotTile k)).up || s.ast.unusable.getLsbD k.claim.index }
  let s := updTbl (fun t => { t with slots := t.slots ++ new, active := act }) s
  let s := countOverdue s
  if s.tbl.claims.isNone then s
  else
    let r := readRetry pgTbl 0 w s
    if r.1.check = .uncorrectable then
      reportRead 0x04F 0x04F pgTbl s.tbl.period r.1
        (updTbl (fun t => { t with slots := t.slots.map fun k => { k with void := true } }) r.2)
    else r.2

/-- OUTBOUND_LATCH (R193): a period of the common counter begins. `w` is what the word of the schedule memory read for it meets. -/
def execOutboundLatch (w : WordCheck) (s : State) : Res :=
  let s := latchTests w (lostFrames s)
  .next ((List.range 8).foldl (fun s p => latchTile p s) s)

/-! ## At the tile -/

/-- OUTBOUND_FRAME (R191): the frame of stream `c` reaches its tile, as it was sent or as other bytes, is accepted, rejected or never arrives. -/
def execOutboundFrame (p : Nat) (c : Chan) (rx : Rx) (s : State) : Res :=
  let c := sideChan p c
  match (streamOf (linkOf s p) p c).out with
  | none => .next s
  | some f =>
    let s := updStream p c (fun t => { t with out := none }) s
    match rx with
    | .lost => .next (frameMissed p c s)
    | .corrupt => .next (frameError p c false (frameMissed p c s))
    | .good =>
      let d := sideOf s p c
      if f.alive = d.aliveRef.getD 0 + 1 then .next (tileAccept p c f s)
      else .next (frameError p c true (frameMissed p c (updSide p c (fun d => { d with aliveRef := some f.alive }) s)))
    | .raw l =>
      let d := sideOf s p c
      let f := parseOut p f.sentAt l
      if !(outFrameOk p c l) then .next (frameError p c false (frameMissed p c s))
      else if f.alive = d.aliveRef.getD 0 + 1 then .next (tileAccept p c f s)
      else .next (frameError p c true (frameMissed p c (updSide p c (fun d => { d with aliveRef := some f.alive }) s)))

/-! ## At the link controller -/

/-- Edges of the pins named are lost (R205, R207): EDGE_LOST is raised, they are counted, and the pins are invalid in the next Sample phase of each channel. -/
def edgesLost (p : Nat) (n : Nat) (pins : BitVec 16) (s : State) : State :=
  tileReport p 8 pins (evt (pgTile p) 8 (updLink p (fun l => { l with lost := satAdd 16 l.lost n, onceA := l.onceA ||| pins, onceB := l.onceB ||| pins }) s))

/-- The pins of a tile with TS set in the link controller's configuration. -/
def tsMask (p : Nat) (l : Link) : BitVec 16 := tileBits (cfgSlots p) fun n => let v := vGet l.cfg n 0; if p < 6 then cfgTs v else outTs v

/-- The entries of a rejected frame are lost (R207). -/
def rejectedEdges (p : Nat) (readable : Bool) (f : InFrame) (s : State) : State :=
  if readable then
    if f.edges.isEmpty then s
    else edgesLost p f.edges.length (f.edges.foldl (fun m e => setBit m e.pin true) 0) s
  else edgesLost p 1 (tsMask p (linkOf s p)) s

/-- The evaluator that owns a path is SCANNING; in SPLIT channel B does not scan (R207). -/
def pathScans (c : Chan) (s : State) : Bool := match c with | .a => s.ilkA.st == .scanning | .b => s.ilkB.st == .scanning && !splitScan s

/-- TIME of an edge entry: CAPT less the 21 bits of AGE that the frame carries (R190, Table FT-4). -/
def edgeTime (capt : Nat) (e : TileEdge) : Nat := (capt % 2 ^ 48 + 2 ^ 48 - edgeAge capt e) % 2 ^ 48

/-- One edge entry of an accepted frame enters the tile FIFO (R190, R207). -/
def takeEdge (p capt : Nat) (e : TileEdge) (s : State) : State :=
  if !pathScans e.path s then s
  else if (linkOf s p).fifo.length < 32 then
    updLink p (fun l => { l with fifo := l.fifo ++ [{ edge := { time := edgeTime capt e, pin := tilePin p e.pin, level := e.level }, path := e.path }] }) s
  else edgesLost p 1 (setBit 0 e.pin true) s

/-- The band and supply state of a tile in the latest accepted frames: those of the worse side (R212). -/
def linkBand (p : Nat) (l : Link) : Band := if p < 6 then l.a.last.band else worseBand l.a.last.band l.b.last.band
/-- The supply state of a tile in the latest accepted frames. -/
def linkSupply (p : Nat) (l : Link) : Supply := if p < 6 then l.a.last.supply else worseSupply l.a.last.supply l.b.last.supply

/-- The expected configuration CRC (R198). -/
def cfgCrcExp (p : Nat) (l : Link) : Word32 := cfgCrc p l.cfg

/-- CFG_CRC_EXP as it reads: 0 from reset until a configuration register is first written (Tables FT-18, FT-19). -/
def cfgCrcShown (p : Nat) (l : Link) : Word32 := if l.cfgSet then cfgCrcExp p l else 0

/-- The CRCs that the tile reports match (R198, Table FT-19). -/
def cfgMatches (p : Nat) (l : Link) : Bool :=
  l.a.lastAt.isSome && l.a.last.cfgCrc == cfgCrcExp p l && (decide (p < 6) || (l.b.lastAt.isSome && l.b.last.cfgCrc == cfgCrcExp p l))

/-- The configuration CRCs are compared outside a wait (R198). -/
def compareCfg (p : Nat) (s : State) : State :=
  let l := linkOf s p
  let both := decide (p < 6) || (l.a.lastAt.isSome && l.b.lastAt.isSome)
  if l.cfgWait > 0 || !both then s
  else
    let bad := !(cfgMatches p l)
    let s := updLink p (fun l => { l with cfgMismatch := bad }) s
    if bad && !l.cfgMismatch then tileReport p 7 0 (evt (pgTile p) 10 s) else s

/-- SNAP_MISS: SNAP_ECHO is older than the SNAP_SEQ sent 2 ms before (Table FCR-3), raised once for each value sent. -/
def snapMissed (t : Nat) (echo : BitVec 8) (l : Link) : Bool :=
  match l.snapSent.findIdx? fun e => decide (e.2 + 200000 < t) with
  | none => false
  | some i => !((l.snapSent.take (i + 1)).any fun e => e.1 == echo) && l.snapMiss != some l.snapSeq

/-- FRESH in an accepted frame (R199): acknowledged from P5 on; one that the controller neither caused nor expected raises TILE_RESET. -/
def takeFresh (p : Nat) (c : Chan) (was : Bool) (s : State) : State :=
  let l := linkOf s p
  let t := streamOf l p c
  if !t.last.fresh then (if was then updStream p c (fun t => { t with expectFresh := false }) s else s)
  else
    let s := if was then s else evt (pgTile p) 2 s
    let s := if !was && !t.expectFresh && !l.withheld then tileReport p 6 0 s else s
    if s.sys.phase ≥ 5 && !l.withheld then updStream p c (fun t => { t with ackFresh := true }) s else s

/-- The events and sources a flag of the frame raises when it rises. -/
def flagEvents (p : Nat) (c : Chan) (old new : InFrame) (s : State) : State :=
  let pg := pgTile p
  let on := fun (b : Bool) (f : State → State) (s : State) => if b then f s else s
  let s := on (new.wdogHold && !old.wdogHold && !(linkOf s p).withheld) (fun s => tileReport p 2 0 (evt pg 9 s)) s
  let s := on (new.tempOff && !old.tempOff) (fun s => tileReport p 10 0 (evt pg 12 s)) s
  let ovl := new.ovl &&& ~~~old.ovl
  let s := on (isField p && (ovl != 0 || (new.tileOvl && !old.tileOvl))) (fun s => tileReport p 9 ovl (evt pg 7 s)) s
  let s := on new.pulseLong (fun s => tileReport p 11 0 (evtIf (!isField p) pg 14 s)) s
  let s := on (!isField p && new.supp != 0) (fun s => evt pg 13 s) s
  let s := on new.rearmEarly (fun s => tileReport p 12 0 (evt pg 6 s)) s
  let s := on (new.lost != 0) (fun s => tileReport p 8 new.lost (evt pg 8 (updLink p (fun l => { l with lost := satAdd 16 l.lost (popCount new.lost) }) s))) s
  on (snapMissed (now s) new.snapEcho (linkOf s p)) (fun s => tileReport p 13 0 (updLink p (fun l => { l with snapMiss := some l.snapSeq }) s)) (takeFresh p c old.fresh s)

/-- The events and sources of the tile's supply (R212, R213). -/
def supplyEvents (p : Nat) (fresh : Bool) (l0 : Link) (s : State) : State :=
  let pg := pgTile p
  let l1 := linkOf s p
  let b0 := linkBand p l0
  let b1 := linkBand p l1
  let u0 := linkSupply p l0
  let u1 := linkSupply p l1
  let s := if b0 == b1 then s else
    let s := evt pg 4 s
    let s := if b1 == .low then tileReport p 4 0 s else s
    if b1 == .missing then tileReport p 5 0 s else s
  let s := if u0 == .armed && u1 == .qualifying && !fresh then tileReport p 3 0 (evt pg 3 s) else s
  evtIf (u0 != .armed && u1 == .armed) pg 5 s

/-- Link up after four consecutive accepted inbound frames (R195): the one-way delay has been measured (R196), and frames resume. -/
def linkRises (p : Nat) (dly : BitVec 10) (s : State) : State :=
  let l := linkOf s p
  if !l.up && decide (l.streak ≥ 4) then evt (pgTile p) 1 (updLink p (fun l => resumeFrames p { l with up := true, dly := dly.toNat }) s) else s

/-- The link controller accepts an inbound frame of stream `c` (R191, R195, R207, R212). -/
def linkAccept (p : Nat) (c : Chan) (f : InFrame) (dly : BitVec 10) (s : State) : State :=
  let l0 := linkOf s p
  let old := (streamOf l0 p c).last
  let s := updStream p c (fun t => { t with aliveRef := some f.alive, last := f, lastAt := some (now s) }) s
  let s := linkRises p dly (updLink p (fun l => { l with streak := l.streak + 1 }) s)
  let s := supplyEvents p f.fresh l0 (flagEvents p c old f s)
  let s := compareCfg p s
  let s := f.edges.foldl (fun s e => takeEdge p f.capt e s) s
  let s := judgeSlots p c f s
  let s := judgeDemands p c f s
  if p < 6 then judgeCapture p f s else s

/-- The link controller rejects an inbound frame. -/
def linkReject (p : Nat) (c : Chan) (alive readable : Bool) (f : InFrame) (s : State) : State :=
  inboundMissed p c (rejectedEdges p readable f (frameError p c alive (updLink p (fun l => { l with streak := 0 }) s)))

/-- A frame that passed its check stands in the frame buffer and is read from there (R221): accepted, or rejected for its ALIVE or an uncorrectable word. -/
def frameRead (p : Nat) (c : Chan) (f : InFrame) (w : WordCheck) (dly : BitVec 10) (s : State) : State :=
  let r := readPort (pgTile p) w s
  let s := reportRead (0x0C0 + 16 * p + 14) (0x0C0 + 16 * p + 15) (pgTile p) p r.1 r.2
  if r.1.check = .uncorrectable then linkReject p c false false f s
  else if f.alive = (streamOf (linkOf s p) p c).aliveRef.getD 0 + 1 then linkAccept p c f dly s
  else linkReject p c true true f (updStream p c (fun t => { t with aliveRef := some f.alive }) s)

/-- INBOUND_FRAME (R191, R192): the frame of stream `c` reaches the link controller, as it was sent or as other bytes. `w` is what its read from the frame buffer meets (R221); `dly` is the one-way delay, which a link bring-up measures. -/
def execInboundFrame (p : Nat) (c : Chan) (rx : Rx) (w : WordCheck) (dly : BitVec 10) (s : State) : Res :=
  let c := sideChan p c
  match (streamOf (linkOf s p) p c).inb with
  | none => .next s
  | some f =>
    let s := updStream p c (fun t => { t with inb := none }) s
    if linkFenced p s then .next s
    else match rx with
    | .lost => .next s
    | .corrupt => .next (linkReject p c false false f s)
    | .good => .next (frameRead p c f w dly s)
    | .raw l =>
      if inFrameOk p c l then .next (frameRead p c (parseIn p c f.timed f.needRearm l) w dly s)
      else if crcGood l && decide (l.length = if p < 6 then 72 else 36) then .next (linkReject p c false true (parseIn p c f.timed f.needRearm l) s)
      else .next (linkReject p c false false f s)

/-- LINK_DOWN (R195): the receiver has lost lock, or accepted no inbound frame, on any stream of the tile, for 50 µs. The next snapshot the tile applies is the first since the link came up (R196). -/
def execLinkDown (p : Nat) (lockLost : Bool) (s : State) : Res :=
  let l := linkOf s p
  let silent := fun (t : Stream) => match t.lastAt with | some n => decide (n + 5000 ≤ now s) | none => true
  if l.up && (lockLost || (silent l.a && (isField p || silent l.b))) then
    let s := updLink p (fun l => { l with up := false, streak := 0 }) s
    let s := updSide p .b (fun d => { d with snapped := false }) (updSide p .a (fun d => { d with snapped := false }) s)
    let s := severQueue (16 + p) false true (severQueue (8 + p) true false s)
    .next (tileReport p 0 0 (evt (pgTile p) 0 (dropTile p s)))
  else .next s

/-! ## Register writes (R200, R201, R214, R221, R222) -/

/-- CTRL.LINK_RESET: the reset sequence is sent (R197). -/
def sendResetSeq (p : Nat) (s : State) : State := updLink p (fun l => expectReset p { l with resetSeq := true }) s

/-- CTRL.CNT_CLR (Table FT-18). -/
def linkCntClr (p : Nat) (s : State) : State :=
  updLink p (fun l => { l with lost := 0, a := { l.a with aliveErr := 0, crcErr := 0 }, b := { l.b with aliveErr := 0, crcErr := 0 } }) s

/-- A write of CTRL of a tile page. -/
def tileCtrlWrite (p : Nat) (v : Word32) (s : State) : State :=
  let s := if bitOf v 0 then sendResetSeq p s else s
  if bitOf v 1 then linkCntClr p s else s

/-- A write of SUPPLY_CTRL that the key sequence admits (R214). -/
def rearmWrite (p : Nat) (v : Word32) (s : State) : State := if bitOf v 0 then updLink p (fun l => { l with rearmReq := true }) s else s

/-- A write of a configuration register that the key sequence admits (R200, R201, R218): only in SERVICE, and only of an allowed value. -/
def cfgRegWrite (iface : Iface) (p n off : Nat) (v : Word32) (s : State) : State :=
  if s.sys.mode != .service then errStat iface (pgTile p) off 1 s
  else if p < 6 then (if pincfgOk v then setLinkCfg p n v s else errStat iface (pgTile p) off 2 s)
  else if outcfgOk v then setLinkCfg p n v s else errStat iface (pgTile p) off 2 s

end Sys2Proof.Machine
end

