-- ==== Sys2Proof/Machine/Boot.lean ====
section
/-! DEFINITION. The partition table's selection and repair (R257 to R260), and the boot window: the boot record, manifests, selection, streaming, the xSPI commands and the boot commands (R270 to R280). -/

namespace Sys2Proof.Machine

/-! ## The partition table -/

/-- The header of a partition table keeps the format of Table STO-6, and its entries lie inside the image. -/
def ptFormat (l : List Byte) : Bool :=
  let e := leAt l 6 2
  leAt l 4 2 == 1 && decide (4 ≤ e) && decide (e ≤ 12) && leAt l 14 2 == 0 && slice l 24 40 == zeros 40 &&
    decide (64 + 32 * e + 7856 ≤ leAt l 20 4) &&
    (List.range e).all fun i => let o := 64 + 32 * i; decide (leAt l (o + 1) 1 < 2) && leAt l (o + 2) 2 == 0 && leAt l (o + 28) 4 == 0

/-- The entries of a partition table (Table STO-7). -/
def ptParts (l : List Byte) : List Part :=
  (List.range (leAt l 6 2)).map fun i =>
    let o := 64 + 32 * i
    { typ := leAt l o 1, lock := leAt l (o + 1) 1 % 2 == 1, first := leAt l (o + 4) 4, count := leAt l (o + 8) 4 }

/-- Entries of a type. -/
def partCount (ps : List Part) (t : Nat) : Nat := (ps.filter fun p => p.typ == t).length

/-- Two partitions share an ingot. -/
def partsMeet (a b : Part) : Bool := decide (a.first < b.first + b.count) && decide (b.first < a.first + a.count)

/-- No two partitions of a list share an ingot. -/
def partsApart : List Part → Bool
  | [] => true
  | p :: t => (t.all fun q => !(partsMeet p q)) && partsApart t

/-- A layout that Table STO-3 and R255 allow. -/
def layoutOk (v : Variant) (ps : List Part) : Bool :=
  let slot := ((ps.find? fun p => p.typ == 1).map fun p => p.count).getD 0
  partCount ps 1 == 1 && partCount ps 2 == 1 && partCount ps 3 == 1 && partCount ps 4 == 1 && decide (partCount ps 5 ≤ 8) &&
    ps.all (fun p => decide (p.first + p.count ≤ capIngots v) && (p.typ == 5 || !p.lock) &&
      (match p.typ with
       | 1 => decide (16 ≤ p.count) && decide (p.count ≤ 2048)
       | 2 => p.count == slot
       | 3 => p.first == 2048 && p.count == 256
       | 4 => decide (256 ≤ p.count)
       | 5 => decide (1 ≤ p.count)
       | _ => false)) && partsApart ps

/-- The result of a check of a partition table copy. -/
structure PtCheck where
  code : Nat
  gen : Nat := 0
  parts : List Part := []
  /-- SHA-256 of the signed bytes (Table HMK-9) -/
  hash : List Byte := []
  /-- The verification failed with reason ENGINE -/
  engine : Bool := false
  deriving DecidableEq, Repr

/-- The checks of Table STO-8, in order; 0x08 where the store cannot be read. A KEY_SLOT that names no slot fails the second; REJECT_INFO then shows slot 0 (log 21). -/
def ptCheck (copy : Nat) (s : State) : PtCheck × State :=
  let r := readImage (cfgAddr (8 + copy)) (ascii "GWPT") 20 65536 s
  match r.1 with
  | none => ({ code := 8 }, r.2)
  | some l =>
    if l.isEmpty || !ptFormat l then ({ code := 1 }, r.2)
    else
      let v := if leAt l 12 1 > 3 then (VerOut.key, hmkReject 1 1 copy 0 r.2) else verifyOwner 1 copy (leAt l 12 1) l r.2
      match v.1 with
      | .key => ({ code := 2 }, v.2)
      | .ok =>
        let ps := ptParts l
        if leAt l 16 4 ≠ capIngots s.variant ∨ leAt l 13 1 > (match s.variant with | .gw488 => 0 | .gw968 => 1) then ({ code := 4 }, v.2)
        else if !(layoutOk s.variant ps) then ({ code := 5 }, v.2)
        else ({ code := 0, gen := leAt l 8 4, parts := ps, hash := sha256 (l.take (l.length - 7856)) }, noteVerified (2 + copy) (cfgAddr (8 + copy)) l.length v.2)
      | e => ({ code := 3, engine := e == .engine }, v.2)

/-- The selection of R259 at start-up: the layout in force, its copy and GENERATION, and the copy to rewrite after P7, which is none where the check failed with reason ENGINE (R434). -/
def ptSelect (s : State) : State :=
  let c0 := ptCheck 0 s
  let c1 := ptCheck 1 c0.2
  let s := c1.2
  let ok0 := c0.1.code == 0
  let ok1 := c1.1.code == 0
  let put := fun (c : Nat) (k : PtCheck) (t : Sto) => { t with layout := k.parts, ptGen := r32 k.gen, ptDefault := false, ptCopy := c }
  let s := updSto (fun t => { t with ptOk := #v[ok0, ok1], ptPending := Vector.replicate 2 false }) s
  if ok0 && (!ok1 || decide (c1.1.gen ≤ c0.1.gen)) then updSto (fun t => { put 0 c0.1 t with ptRepair := (!ok1 && !c1.1.engine) || (ok1 && decide (c1.1.gen < c0.1.gen)) }) (setMeas 2 c0.1.hash s)
  else if ok1 then updSto (fun t => { put 1 c1.1 t with ptRepair := ok0 || !c0.1.engine }) (setMeas 2 c1.1.hash s)
  else report0 0x085 pgSto (updSto (fun t => { t with layout := defaultLayout s.variant, ptGen := 0, ptDefault := true, ptCopy := 0, ptRepair := false }) (setMeas 2 (zeros 32) s))

/-- STORE_MAP_RECOVERY (R254, R259, Table STO-16): the store dies are ready; the map is recovered, the owner-key records are read at start-up, and the partition table is selected. `bad` is the first commit word of the log that cannot be read. It waits for the Touchmark rows that P1 reads. -/
def execStoreMapRecovery (bad : Option Nat) (s : State) : Res :=
  if s.sto.mapOk || pageFenced s pgSto || !s.tch.marginDone then .next s
  else
    let s := updSto (mapRecover bad) s
    let s := if s.sys.mode = .starting then takeKeys s else s
    let s := ptSelect s
    .next s

/-- PT_REPAIR (R259): after P7 the other copy is rewritten from the active one. -/
def execPtRepair (s : State) : Res :=
  if !(s.sto.ptRepair && decide (s.sys.phase = 15)) || s.sto.parked || s.sto.parking || !(itemFree (cfgAddr (8 + (1 - s.sto.ptCopy))) 65536 s) then .next s
  else
    let c := s.sto.ptCopy
    let r := readImage (cfgAddr (8 + c)) (ascii "GWPT") 20 65536 s
    match r.1 with
    | none => .next r.2
    | some l =>
      if l.isEmpty then .next r.2
      else
        let s := writeItem (cfgAddr (8 + (1 - c))) l r.2
        .next (evt pgSto 6 (updSto (fun t => { t with ptRepair := false, ptOk := #v[true, true] }) s))

/-- A write of PT_CMD that the key sequence admits (Table STO-19): the check runs and PT_CMD_DONE is raised (log 21). A copy is pending while its last check found it valid with a higher GENERATION. -/
def ptCmdWrite (v : Word32) (s : State) : State :=
  let copy := if bitOf v 8 then 1 else 0
  let s := updSto (fun t => { t with ptOp := BitVec.ofNat 4 (bits v 0 4), ptCmdCopy := bitOf v 8 }) s
  if bits v 0 4 ≠ 1 then evt pgSto 5 (updSto (fun t => { t with ptResult := 6 }) s)
  else
    let r := ptCheck copy s
    evt pgSto 5 (updSto (fun t => { t with
      ptResult := r.1.code, ptOk := vSet t.ptOk copy (r.1.code == 0),
      ptPending := vSet t.ptPending copy (r.1.code == 0 && decide (r.1.gen > t.ptGen.toNat)) }) r.2)

/-! ## Boot record and manifest (R272, R273) -/

/-- Change the boot window. -/
def updBoot (f : Boot → Boot) (s : State) : State := { s with boot := f s.boot }

/-- A boot record as its 32 bytes give it; none where MAGIC or CRC is wrong. -/
def parseRecord (o : Option (List Byte)) : Option BootRec :=
  match o with
  | none => none
  | some l =>
    if l.take 4 = ascii "GWBR" ∧ r32 (leAt l 28 4) = crc32c (l.take 28) then
      some { seq := r32 (leAt l 4 4), prefer := leAt l 8 1 == 1, trial := if leAt l 9 1 = 0 then some false else if leAt l 9 1 = 1 then some true else none,
             tries := leAt l 10 1, ifmode := leAt l 11 1 == 1, dummy := leAt l 12 1, minSvn := r32 (leAt l 16 4) }
    else none

/-- The 32 bytes of a boot record (Table STO-13). -/
def recordBytes (r : BootRec) : List Byte :=
  let b := ascii "GWBR" ++ leBytes 4 r.seq.toNat ++ leBytes 1 (if r.prefer then 1 else 0) ++
    leBytes 1 (match r.trial with | none => 0xFF | some b => if b then 1 else 0) ++ leBytes 1 r.tries ++ leBytes 1 (if r.ifmode then 1 else 0) ++ leBytes 1 r.dummy ++
    zeros 3 ++ leBytes 4 r.minSvn.toNat ++ zeros 8
  b ++ leBytes 4 (crc32c b).toNat

/-- The boot record in force: the newer valid copy, or the defaults (R272). -/
def takeRecord (s : State) : State :=
  let a := readItem (cfgAddr 10) 32 s
  let b := readItem (cfgAddr 11) 32 a.2
  match parseRecord a.1, parseRecord b.1 with
  | some x, some y => if y.seq.toNat > x.seq.toNat then updBoot (fun t => { t with record := y, recIngot := 11 }) b.2 else updBoot (fun t => { t with record := x, recIngot := 10 }) b.2
  | some x, none => updBoot (fun t => { t with record := x, recIngot := 10 }) b.2
  | none, some y => updBoot (fun t => { t with record := y, recIngot := 11 }) b.2
  | none, none => updBoot (fun t => { t with record := {}, recIngot := 11 }) b.2

/-- The module writes a boot record into the other copy, with SEQ raised by one (R272). -/
def writeRecord (r : BootRec) (s : State) : State :=
  let r := { r with seq := s.boot.record.seq + 1 }
  let i := if s.boot.recIngot = 10 then 11 else 10
  updBoot (fun t => { t with record := r, recIngot := i }) (writeItem (cfgAddr i) (recordBytes r) s)

/-- The first byte and the size in bytes of a slot. -/
def slotSpan (s : State) (slot : Bool) : Nat × Nat :=
  match partOfType s.sto (if slot then 2 else 1) with
  | some p => (p.first * 65536, p.count * 65536)
  | none => (0, 0)

/-- How the check of a manifest ends. -/
inductive ManOut where
  | ok (m : Manifest)
  | bad
  | store
  deriving DecidableEq, Repr

/-- A manifest's fields (Table STO-14); none where they break R273. -/
def parseManifest (size : Nat) (l : List Byte) : Option Manifest :=
  let img := leAt l 12 4
  let ch := leAt l 16 4
  let len := leAt l 20 4
  if l.take 4 = ascii "GWBM" ∧ leAt l 4 2 = 1 ∧ 1 ≤ img ∧ img + 131072 ≤ size ∧ ch = (img + 65535) / 65536 ∧ len ≤ 131072 ∧ 64 + 32 * ch + 7856 ≤ len then
    some { svn := r32 (leAt l 8 4), imageLen := img, chunks := ch, hashes := [] }
  else none

/-- A slot's manifest is verified (R273). -/
def checkManifest (slot : Bool) (s : State) : ManOut × State :=
  let sp := slotSpan s slot
  let n := if slot then 1 else 0
  let base := sp.1 + sp.2 - 131072
  if sp.2 = 0 then (.bad, s)
  else
    let h := readItem base 64 s
    match h.1 with
    | none => (.store, h.2)
    | some hd =>
      match parseManifest sp.2 hd with
      | none => (.bad, h.2)
      | some m =>
        if leAt hd 6 1 > 3 then (.bad, hmkReject 1 2 n 0 h.2)
        else
          let r := readItem base (leAt hd 20 4) h.2
          match r.1 with
          | none => (.store, r.2)
          | some l =>
            let v := verifyOwner 2 n (leAt hd 6 1) l r.2
            if v.1 = .ok ∧ m.svn.toNat ≥ s.boot.record.minSvn.toNat then
              (.ok { m with hashes := (List.range m.chunks).map (fun i => slice l (64 + 32 * i) 32), digest := sha256 (l.take (l.length - 7856)) }, v.2)
            else (.bad, v.2)

/-- SLOT_A_OK and SLOT_B_OK. -/
def noteSlot (slot ok : Bool) (b : Boot) : Boot := if slot then { b with okB := ok } else { b with okA := ok }

/-- A manifest is checked and the slot's last result kept. -/
def trySlot (slot : Bool) (s : State) : ManOut × State :=
  let r := checkManifest slot s
  (r.1, updBoot (noteSlot slot (match r.1 with | .ok _ => true | .bad => false | .store => false)) r.2)

/-! ## Selection (R274, R277) -/

/-- A host write is in progress to a slot (R277). -/
def slotWritten (s : State) (slot : Bool) : Bool :=
  let sp := slotSpan s slot
  let hit := fun (a n : Nat) => decide (a < sp.1 + sp.2) && decide (sp.1 < a + n)
  (s.sto.waits.any fun w => hit w.addr w.data.length) || s.sto.atomics.any fun w => hit w.addr w.data.length

/-- A slot is chosen: it is locked and its first chunks load. -/
def chooseSlot (slot trial : Bool) (m : Manifest) (s : State) : State :=
  updBoot (fun b => { b with st := .loading, slot := slot, trial := trial, lock := true, manifest := some m, loading := (List.range 3).filter fun i => decide (i < m.chunks) }) (setMeas 5 m.digest s)

/-- BOOT_SLOT_SELECT (R274): the record is read, a trial counted, and the manifests are checked in order. While the host writes the chosen slot, the window waits (R277). -/
def execBootSlotSelect (s0 : State) : Res :=
  if s0.boot.st ≠ .selecting || !s0.sto.mapOk || s0.sto.layout.isEmpty || s0.sto.parked || s0.sto.parking || pageFenced s0 pgBoot || pageFenced s0 pgSto then .next s0
  else
    let s := takeRecord s0
    let rec0 := s.boot.record
    let tr := if rec0.tries > 0 then rec0.trial else none
    let s := match tr with
      | some _ => writeRecord { rec0 with tries := rec0.tries - 1 } s
      | none => s
    let s := updBoot (fun b => { b with ifmode := b.record.ifmode, dummy := b.record.dummy }) s
    let first := tr.getD rec0.prefer
    let r := trySlot first s
    match r.1 with
    | .ok m => if slotWritten r.2 first then .next s0 else .next (chooseSlot first tr.isSome m r.2)
    | _ =>
      let q := trySlot (!first) r.2
      match q.1 with
      | .ok m => if slotWritten q.2 (!first) then .next s0 else .next (chooseSlot (!first) false m q.2)
      | _ => .next (report0 0x08F pgBoot (updBoot (fun b => { b with st := .noImage, error := true, lock := false }) (setMeas 5 (zeros 32) q.2)))

/-- WIP (Table STO-12): SELECTING, LOADING, or a chunk that loads after a miss. -/
def bootWip (b : Boot) : Bool := b.st == .selecting || b.st == .loading || !b.missed.isEmpty

/-- The window re-arms (R277): it leaves LOADING, SERVING, RELEASED or NO_IMAGE for SELECTING. -/
def rearmWindow (s : State) : State :=
  if s.boot.st = .selecting then s
  else evt pgBoot 1 (updBoot (fun b => { b with
    st := .selecting, hashErr := false, error := false, hashFail := none, manifest := none, chunks := [], fails := [], loading := [], missed := [],
    served := 0, miss := 0, wel := false, resetEnabled := false, ifmode := b.record.ifmode, dummy := b.record.dummy, since := now s, resp := none }) s)

/-- CTRL.RELEASE (R277): SERVING enters RELEASED and the lock is cleared. -/
def releaseWindow (s : State) : State := if s.boot.st = .serving then updBoot (fun b => { b with st := .released, lock := false }) s else s

/-- A write of BOOT.CTRL: a re-arm wins over a release (R277). -/
def bootCtrlWrite (v : Word32) (s : State) : State := if bitOf v 1 then rearmWindow s else if bitOf v 0 then releaseWindow s else s

/-! ## Chunks (R275) -/

/-- The chunk in the buffer. -/
def chunkOf (b : Boot) (n : Nat) : Option Chunk := b.chunks.find? fun c => c.n == n

/-- How often a chunk has failed its hash since the re-arm. -/
def chunkFails (b : Boot) (n : Nat) : Nat := smGetD b.fails n 0

/-- The least recently used chunk leaves a full buffer. -/
def evictChunk (l : List Chunk) : List Chunk :=
  if l.length < 4 then l
  else
    let m := l.foldl (fun a c => min a c.used) (l.headD { n := 0 }).used
    match l.findIdx? fun c => c.used == m with
    | some i => l.eraseIdx i
    | none => l

/-- CHUNK_LOADED (R275, R276): chunk `n` has been read and hashed; `fs` is what its words give. One whose hash holds stands in the buffer; of any other the failure is counted. The window serves once chunks 0 to 2 have loaded. -/
def execChunkLoaded (n : Nat) (fs : List (Nat × WordCheck)) (s : State) : Res :=
  match s.boot.manifest with
  | none => .next s
  | some m =>
    if !(s.boot.loading.contains n) || s.sto.parked || s.sto.parking then .next s
    else
      let len := min 65536 (m.imageLen - 65536 * n)
      let a := (slotSpan s s.boot.slot).1 + 65536 * n
      let r := readWords fs ((len + 15) / 16) a s
      let good := r.1.bad.isNone && sha256 (r.1.bytes.take len) == lGet m.hashes n []
      let s := r.2
      let s := updBoot (fun b =>
        let rest := b.chunks.filter fun c => c.n != n
        { b with chunks := if good then evictChunk rest ++ [{ n := n, bytes := r.1.bytes.take len, used := b.tick + 1 }] else rest, tick := b.tick + 1,
                 fails := if good then smErase b.fails n else smSet b.fails n (chunkFails b n + 1),
                 loading := b.loading.filter fun i => i != n, missed := b.missed.filter fun i => i != n }) s
      let s := if good then s else report 0x08E 0 n pgBoot (evt pgBoot 2 (updBoot (fun b => { b with hashErr := true, error := true, hashFail := b.hashFail.orElse fun _ => some n }) s))
      if s.boot.st = .loading ∧ (s.boot.loading.all fun i => decide (3 ≤ i)) then
        .next (evt pgBoot 0 (updBoot (fun b => { b with st := .serving, firstByteUs := min 0xFFFF ((now s - b.since) / 100) }) s))
      else .next s

/-- Chunks n + 1 and n + 2 load if they are absent. -/
def prefetch (n chunks : Nat) (b : Boot) : Boot :=
  [n + 1, n + 2].foldl (fun b i => if decide (i < chunks) && (chunkOf b i).isNone && chunkFails b i == 0 && !(b.loading.contains i) then { b with loading := b.loading ++ [i] } else b) b

/-- A chunk is asked for after a miss: counted, WIP set, and loaded. -/
def missChunk (n : Nat) (s : State) : State :=
  evt pgBoot 3 (updBoot (fun b => { b with miss := satAdd 32 b.miss 1, missed := if b.missed.contains n then b.missed else b.missed ++ [n],
                                           loading := if b.loading.contains n then b.loading else b.loading ++ [n] }) s)

/-- The bytes of one chunk from an address of the image: those the buffer holds, 0xFF of one that is absent or failed. An absent chunk is a miss; a failed one loads again at its first request after it failed, and stays failed after its second failure. `w` is what the chunk buffer's read gives (R280): an uncorrectable word is a miss, and the chunk loads again. -/
def chunkBytes (w : WordCheck) (addr k : Nat) (s : State) : List Byte × State :=
  let n := addr / 65536
  let ff : List Byte := List.replicate k 0xFF
  match s.boot.manifest with
  | none => (ff, s)
  | some m =>
    let s := updBoot (prefetch n m.chunks) s
    match chunkOf s.boot n with
    | none =>
      if chunkFails s.boot n = 0 then (ff, missChunk n s)
      else (ff, if chunkFails s.boot n ≥ 2 || s.boot.loading.contains n then s else updBoot (fun b => { b with loading := b.loading ++ [n], missed := b.missed ++ [n] }) s)
    | some c =>
      let r := readPort pgBoot w s
      if r.1.check = .uncorrectable then (ff, missChunk n (updBoot (fun b => { b with chunks := b.chunks.filter fun c => c.n != n }) r.2))
      else (slice c.bytes (addr % 65536) k, updBoot (fun b => { b with tick := b.tick + 1, chunks := b.chunks.map fun c => if c.n = n then { c with used := b.tick + 1 } else c }) r.2)

/-- A read of the window from an address (R271, R275): 0xFF at or beyond IMAGE_LEN, and from the boundary of an absent chunk onward. The fuel is the number of chunks a read can touch. -/
def windowRead (w : WordCheck) : Nat → Nat → Nat → State → List Byte × State
  | 0, _, _, s => ([], s)
  | fuel + 1, addr, k, s =>
    let len := match s.boot.manifest with | some m => m.imageLen | none => 0
    if k = 0 then ([], s)
    else if addr ≥ len then (List.replicate k 0xFF, s)
    else
      let room := min k (min (65536 - addr % 65536) (len - addr))
      let good := (chunkOf s.boot (addr / 65536)).isSome
      let r := chunkBytes w addr room s
      if !good then (r.1 ++ List.replicate (k - room) 0xFF, r.2)
      else
        let q := windowRead w fuel (addr + room) (k - room) r.2
        (r.1 ++ q.1, q.2)

/-! ## The xSPI port (R270, R271) -/

/-- The words of an answer. -/
def answerWords (bs : Option (List Byte)) : Nat := match bs with | some l => (l.length + 15) / 16 | none => 0

/-- A command ends with the bytes it drove; its clock has toggled (XSPI_ACT of Table ARC-10). Any command but Reset Enable ends a reset sequence; in PARKED the window drives no data (R277). The command crosses queue 6 and its data queue 7; while either is severed nothing comes back (R44). -/
def xspiAnswer (bs : Option (List Byte)) (s : State) : State :=
  let out := if s.sys.mode = .parked ∨ (xq s 6).st ≠ .joined ∨ (xq s 7).st ≠ .joined then none else bs
  let s := qPass 7 (answerWords bs) (qPass 6 1 s)
  { updBoot (fun b => { b with resp := out, resetEnabled := false }) s with clkg := { s.clkg with monOk := setBit s.clkg.monOk 4 true } }

/-- Read and Fast Read of `k` bytes. -/
def xspiRead (w : WordCheck) (addr : Word32) (k : Nat) (s : State) : State :=
  if s.sys.mode = .parked then xspiAnswer none s
  else
    let r := windowRead w 8192 addr.toNat k s
    xspiAnswer (some r.1) (updBoot (fun b => { b with served := b.served + (if b.manifest.isSome then k else 0) }) r.2)

/-- XSPI_READ (Table STO-11): 1S-1S-1S only. -/
def execXspiRead (addr : Word32) (k : Nat) (w : WordCheck) (s : State) : Res :=
  if s.boot.ifmode then .next (xspiAnswer none s) else .next (xspiRead w addr k s)

/-- XSPI_FAST_READ (Table STO-11). -/
def execXspiFastRead (addr : Word32) (k : Nat) (w : WordCheck) (s : State) : Res := .next (xspiRead w addr k s)

/-- The density the SFDP table reports: the image area of the slot, 0 until a slot has been selected (R271). -/
def sfdpDensity (s : State) : Nat := if s.boot.manifest.isSome then (slotSpan s s.boot.slot).2 - 131072 else 0

/-- A field of a register replaced. -/
def putField (v : Word32) (lo w n : Nat) : Word32 := (v &&& ~~~(fld lo w (2 ^ w - 1))) ||| fld lo w n

/-- Double word of the SFDP space at which the Basic Flash Parameter Table begins. -/
def bfptAt : Nat := 6 + Config.sfdpGap 0

/-- Double word at which the xSPI Profile 1.0 table begins. -/
def profileAt : Nat := bfptAt + 20 + Config.sfdpGap 1

/-- Double word `k` of the SFDP table, for a density in bytes (R271). PRESUMED (log 127): the places of the fields are those of JESD216: the header names the two tables; DWORD 1 of the first says 4-byte addresses only and no 4 KiB erase, DWORD 2 the density as its number of bits less one, 0 while there is none, DWORDs 8 and 9 no erase types; DWORD 4 of the second the dummy cycles at 200 MHz. What R271 does not state is the implementation's. -/
def sfdpDword (density k : Nat) : Word32 :=
  let raw := (List.range 4).foldl (fun (v : Word32) i => putField v (8 * i) 8 (Config.sfdpByte (4 * k + i)).toNat) 0
  if k = 0 then 0x50444653
  else if k = 1 then putField raw 16 8 1
  else if k = 2 then putField (putField raw 0 8 0) 24 8 20
  else if k = 3 then fld 0 24 (4 * bfptAt) ||| fld 24 8 0xFF
  else if k = 4 then putField (putField raw 0 8 5) 24 8 5
  else if k = 5 then fld 0 24 (4 * profileAt) ||| fld 24 8 0xFF
  else if k = bfptAt then putField (putField raw 0 2 3) 17 2 2
  else if k = bfptAt + 1 then (if density = 0 then 0 else r32 (8 * density - 1))
  else if k = bfptAt + 7 ∨ k = bfptAt + 8 then 0
  else if k = profileAt + 3 then putField raw 7 5 20
  else raw

/-- The byte of the SFDP table at an address. -/
def sfdpByte (density addr : Nat) : Byte := BitVec.ofNat 8 (bits (sfdpDword density (addr / 4)) (8 * (addr % 4)) 8)

/-- XSPI_READ_SFDP (R271): served from step 2 of Table STO-16 onward. -/
def execXspiReadSfdp (addr : Word32) (k : Nat) (s : State) : Res :=
  .next (xspiAnswer (if s.boot.sfdp then some ((List.range k).map fun i => sfdpByte (sfdpDensity s) (addr.toNat + i)) else none) s)

/-- The xSPI status register (Table STO-12). -/
def xspiStatus (b : Boot) : Nat := bitAt 0 (bootWip b) + bitAt 1 b.wel + bitAt 6 b.error + bitAt 7 (b.st == .released)

/-- XSPI_READ_STATUS: the status register, as often as the host clocks it. -/
def execXspiReadStatus (k : Nat) (s : State) : Res := .next (xspiAnswer (some (List.replicate k (BitVec.ofNat 8 (xspiStatus s.boot)))) s)

/-- XSPI_WRITE_ENABLE sets WEL. -/
def execXspiWriteEnable (s : State) : Res := .next (xspiAnswer none (updBoot (fun b => { b with wel := true }) s))

/-- A volatile configuration value, where it is allowed. -/
def setVolatile (addr : Word32) (v : Byte) (b : Boot) : Boot :=
  if addr = 0 then (if v.toNat ≤ 1 then { b with ifmode := v == 1 } else b)
  else if addr = 1 then (if 8 ≤ v.toNat ∧ v.toNat ≤ 30 then { b with dummy := v.toNat } else b)
  else b

/-- XSPI_WRITE_VOLATILE_CONFIG (Table STO-11): needs WEL and clears it; other values are ignored. -/
def execXspiWriteVolatileConfig (addr : Word32) (v : Byte) (s : State) : Res :=
  .next (xspiAnswer none (updBoot (fun b => if b.wel then setVolatile addr v { b with wel := false } else b) s))

/-- XSPI_READ_VOLATILE_CONFIG: MODE at address 0, DUMMY at address 1; a free value elsewhere. -/
def execXspiReadVolatileConfig (addr : Word32) (s : State) : Res :=
  if addr = 0 then .next (xspiAnswer (some [if s.boot.ifmode then 1 else 0]) s)
  else if addr = 1 then .next (xspiAnswer (some [BitVec.ofNat 8 s.boot.dummy]) s)
  else let f := drawFree s; .next (xspiAnswer (some [f.1.setWidth 8]) f.2)

/-- XSPI_RESET_ENABLE prepares a software reset. -/
def execXspiResetEnable (s : State) : Res := .next (updBoot (fun b => { b with resetEnabled := true }) (xspiAnswer none s))

/-- XSPI_RESET: after Reset Enable the window re-arms; otherwise it is ignored. -/
def execXspiReset (s : State) : Res := if s.boot.resetEnabled then .next (xspiAnswer none (rearmWindow s)) else .next (xspiAnswer none s)

/-- XSPI_IGNORED: no data are driven and no status changes (R270). -/
def execXspiIgnored (s : State) : Res := .next (xspiAnswer none s)

/-- XSPI_HW_RESET (R532): the rise of XSPI_RESET_N after 1 µs or more re-arms the window. -/
def execXspiHwReset (s : State) : Res := .next (rearmWindow s)

/-! ## Boot commands (R278) -/

/-- A boot command is refused. -/
def bootRefuse (code : Nat) (s : State) : State := evt pgBoot 4 (updBoot (fun b => { b with result := code }) s)

/-- A boot command starts: the record it will write. -/
def bootStart (r : BootRec) (s : State) : State := updBoot (fun b => { b with run := some { result := 0, record := some r } }) s

/-- A write of BOOT.CMD that the key sequence admits (Table STO-18). -/
def bootCmdWrite (v : Word32) (s : State) : State :=
  let s := updBoot (fun b => { b with cmd := v }) s
  if s.boot.run.isSome then bootRefuse 4 s
  else
    let r := s.boot.record
    match bits v 28 4 with
    | 1 =>
      if s.boot.st = .serving ∨ s.boot.st = .released then
        bootStart { r with prefer := s.boot.slot, trial := none, minSvn := if bitOf v 24 then (match s.boot.manifest with | some m => m.svn | none => r.minSvn) else r.minSvn } s
      else bootRefuse 3 s
    | 2 =>
      let c := trySlot (bitOf v 20) s
      (match c.1 with
       | .ok _ => if bits v 16 4 = 0 then bootRefuse 2 c.2 else bootStart { r with trial := some (bitOf v 20), tries := bits v 16 4 } c.2
       | .bad => bootRefuse 1 c.2
       | .store => bootRefuse 5 c.2)
    | 3 => if 8 ≤ bits v 8 5 ∧ bits v 8 5 ≤ 30 then bootStart { r with ifmode := bitOf v 0, dummy := bits v 8 5 } s else bootRefuse 2 s
    | 4 => bootStart { r with trial := none, tries := 0 } s
    | _ => bootRefuse 6 s

/-- BOOT_CMD_DONE (R278): the record has been rewritten, or the store could not take it. -/
def execBootCmdDone (storeOk : Bool) (s : State) : Res :=
  match s.boot.run with
  | none => .next s
  | some r =>
    let s := updBoot (fun b => { b with run := none }) s
    match r.record with
    | none => .next (bootRefuse r.result s)
    | some x =>
      if !storeOk || s.sto.parked || s.sto.parking || !s.sto.mapOk then .next (bootRefuse 5 s)
      else .next (evt pgBoot 5 (updBoot (fun b => { b with result := r.result }) (writeRecord x s)))

end Sys2Proof.Machine
end

