-- ==== Sys2Proof/Machine/Journal.lean ====
section
/-! DEFINITION. The Brake van: records, admission, the energy credit and its measurement, the ring, its batches and anchors, reading, sealing and recovery (R281 to R312). -/

namespace Sys2Proof.Machine

/-- Change the journal engine. -/
def updJrn (f : Jrn → Jrn) (s : State) : State := { s with jrn := f s.jrn }

/-! ## Records (R281) -/

/-- FLAGS of a record header (Table JRN-1). -/
def recFlags (r : Rec) : Byte :=
  (if r.lossy then 1 else 0) ||| (if r.uncovered then 2 else 0) ||| (if r.coincident then 4 else 0) ||| (if r.divergent then 8 else 0)

/-- Bytes 0 to 27 of a record header (Table JRN-1). -/
def recHead (r : Rec) : List Byte :=
  leBytes 8 r.seq ++ leBytes 8 r.time ++ leBytes 4 r.epoch.toNat ++ leBytes 2 r.source ++ leBytes 1 r.cls ++ [recFlags r] ++ leBytes 2 r.payload.length ++ zeros 2

/-- The CRC field of a record (Table JRN-1). -/
def recCrc (r : Rec) : Word32 := crc32c (recHead r ++ r.payload)

/-- A record as it stands in the store: header, payload and pad bytes. -/
def recBytes (r : Rec) : List Byte := padTo (recOcc r) (recHead r ++ leBytes 4 (recCrc r).toNat ++ r.payload)

/-! ## The energy credit (R296, R297, R299) -/

/-- V_hold² − V_floor² in units of 0.25 mV², with V_hold in 10 mV units and ESR in mΩ; 0 where V_hold does not exceed V_floor. -/
def voltTerm (v esr : Nat) : Nat := (20 * v) * (20 * v) - (24000 + esr) * (24000 + esr)

/-- E_avail in µJ (R296), with C_meas in 0.1 µF units. -/
def energyUj (v c esr : Nat) : Nat := 19 * c * voltTerm v esr / 1600000000

/-- K (R296): the largest multiple of 16 within the exact quotient. -/
def creditOf (v c esr : Nat) : Nat := min 4194304 ((19 * c * voltTerm v esr - 90240000000000) / 6000000 / 16 * 16)

/-- The voltage K is computed with: at most 29.0 V while a measurement is due or runs (R298). -/
def creditVolt (j : Jrn) : Nat := if j.measLow then min j.holdV 2900 else j.holdV

/-- The lower limits of R299 are judged, each raised at most once in a start-up, and not before recovery has found the capacitance to use (log 25). -/
def judgeCredit (s : State) : State :=
  let j := s.jrn
  if !j.judged || j.st == .recovering then s
  else
    let weak := decide (j.k < 4194304) && !j.weakRaised
    let short := decide (j.k < 262144) && !j.shortRaised
    let s := updJrn (fun j => { j with weakRaised := j.weakRaised || weak, shortRaised := j.shortRaised || short }) s
    let s := evtIf weak pgJrn 4 (reportIf weak 0x08A pgJrn s)
    evtIf short pgJrn 5 (reportIf short 0x08B pgJrn s)

/-- K is compared with H + S (R297): below it, OVERCOMMIT is raised and no host record is admitted until K covers the records again. -/
def judgeCover (s : State) : State :=
  let hs := occHost s.jrn + occSys s.jrn
  let short := decide (0 < hs) && decide (s.jrn.k < hs)
  let new := short && !s.jrn.overcommit
  evtIf new pgJrn 12 (reportIf new 0x08D pgJrn (updJrn (fun j => { j with overcommit := short }) s))

/-- The credit is computed anew (R296); it is held at 0 while the HOLD monitor is untrusted (group G of Table AST-2). -/
def recompute (s : State) : State :=
  let j := s.jrn
  let v := creditVolt j
  let k := if s.pwr.holdUntrusted then 0 else creditOf v j.cMeas j.esr
  judgeCover (judgeCredit (updJrn (fun j => { j with k := k, eAvail := energyUj v j.cMeas j.esr }) s))

/-- CREDIT_RECOMPUTE (R296): `holdV` is V_hold as sampled, in 10 mV units. -/
def execCreditRecompute (holdV : Nat) (s : State) : Res := .next (recompute (updJrn (fun j => { j with holdV := holdV % 4096 }) s))

/-! ## The hold-up measurement (R298, Table JRN-9) -/

/-- A feed carries the module (Table PWR-6). -/
def carried (s : State) : Bool := s.pwr.feedA == .active || s.pwr.feedB == .active

/-- The charger runs again after a measurement, unless no feed is ACTIVE or the power-fail sequence runs (R484). -/
def chargerOn (s : State) : State :=
  { s with pwr := { s.pwr with charging := carried s && !s.pwr.pfRun } }

/-- The charger stops. -/
def chargerOff (s : State) : State := { s with pwr := { s.pwr with charging := false } }

/-- A measurement has become due: K is taken at 29.0 V at most, and judged from now on. -/
def measDue (s : State) : State :=
  if s.jrn.meas == .idle && !s.pwr.pfRun then
    let old := s.jrn.k
    let s := recompute (updJrn (fun j => { j with meas := .due, measLow := true, judged := true, postponed := 0 }) s)
    if s.jrn.k < old then updJrn (fun j => { j with measUpTo := j.admitted }) s else s
  else s

/-- HOLDUP_MEAS_DUE (R298). -/
def execHoldupMeasDue (s : State) : Res := .next (measDue s)

/-- MEAS_NOW (Table JRN-13): ignored while a measurement is due or runs. -/
def measNow (s : State) : State := measDue s

/-- The measurement has failed (R298): MEAS_FAIL, and C_meas is 0 until a later one passes. -/
def measFail (s : State) : State :=
  recompute (report0 0x08C pgJrn (evt pgJrn 7 (updJrn (fun j => { j with meas := .idle, measLow := false, measUpTo := 0, postponed := 0, cMeas := 0, provisional := false }) s)))

/-- HOLDUP_MEAS_POSTPONE (R298): the tenth postponement in a row ends the measurement in failure (log 26). -/
def execHoldupMeasPostpone (s : State) : Res :=
  if s.jrn.meas == .due && decide (s.jrn.holdV < 2980) then
    if s.jrn.postponed + 1 ≥ 10 then .next (measFail s) else .next (updJrn (fun j => { j with postponed := j.postponed + 1 }) s)
  else .next s

/-- Every record admitted at the higher credit is sealed (R298). -/
def measMayStart (j : Jrn) : Bool := (j.waiting ++ j.buf).all fun b => decide (b.no > j.measUpTo)

/-- HOLDUP_MEAS_START (Table JRN-9, steps 1 to 3): `step` is the voltage step of the 0.5 A pulse in mV; an ESR above 2 Ω ends the measurement. -/
def execHoldupMeasStart (step : Nat) (s : State) : Res :=
  if s.jrn.meas == .due && decide (s.jrn.holdV ≥ 2980) && measMayStart s.jrn && !s.pwr.pfRun then
    if 2 * step > 2000 then .next (measFail s)
    else .next (chargerOff (updJrn (fun j => { j with meas := .sinking (2 * step), postponed := 0 }) s))
  else .next s

/-- HOLDUP_MEAS_TIMER_START (Table JRN-9, step 4). -/
def execHoldupMeasTimerStart (s : State) : Res :=
  match s.jrn.meas with
  | .sinking esr => .next (updJrn (fun j => { j with meas := .timing esr }) s)
  | .idle => .next s
  | .due => .next s
  | .timing _ => .next s

/-- HOLDUP_MEAS_DONE (Table JRN-9, steps 5 and 6): the timer stops at `us` µs, and C_meas is 20 mA × t / 0.5 V, in 0.1 µF units. -/
def execHoldupMeasDone (us : Nat) (s : State) : Res :=
  match s.jrn.meas with
  | .timing esr =>
    let c := min (2 * us / 5) 0xFFFF
    .next (recompute (chargerOn (evt pgJrn 6 (updJrn (fun j => { j with
      meas := .idle, measLow := false, measUpTo := 0, cMeas := c, esr := esr, cAnchor := c, esrAnchor := esr, provisional := false, cValid := true }) s))))
  | .idle => .next s
  | .due => .next s
  | .sinking _ => .next s

/-- HOLDUP_MEAS_TIMEOUT (R298): step 5 has not occurred within 150 ms of step 3. -/
def execHoldupMeasTimeout (s : State) : Res :=
  match s.jrn.meas with
  | .sinking _ => .next (measFail (chargerOn s))
  | .timing _ => .next (measFail (chargerOn s))
  | .idle => .next s
  | .due => .next s

/-! ## Admission of host records (R293, Table JRN-8) -/

/-- WINDOW in 64 KiB units as it acts (R294): isolated units of the admission buffer are out of it (R26, group E of Table AST-2). -/
def windowUnits (s : State) : Nat := min (min 40 (max 4 s.jrn.window.toNat)) (40 - ((List.range 40).filter fun k => s.ast.jrnUnits.getLsbD k || cellIsolated s pgJrn k).length)

/-- LOSSY_MARK in 64 KiB units as it acts. -/
def lossyUnits (s : State) : Nat := min s.jrn.lossy.toNat (windowUnits s)

/-- Why the engine takes no journal command now (R305, R306, R511): FENCED, NOT_READY, POWER_FAIL. -/
def jrnRefusal (s : State) : Option Nat :=
  if pageFenced s pgJrn then some 0x0C
  else
    match s.jrn.st with
    | .recovering => some 0x45
    | .sealing => some 0x46
    | .sealed => some 0x46
    | .running => if s.jrn.closed then some 0x0C else none

/-- The present Station-clock millisecond. -/
def msNow (s : State) : Nat := now s / tbMs

/-- The GAP record of the millisecond in which lossy records were dropped (R288, Table JRN-4). -/
def gapRecord (s : State) : State :=
  let j := s.jrn
  if j.gapRecs = 0 then s
  else
    let t := (j.gapMs + 1) * tbMs
    let ep := j.gapEpoch.getD s.sys.epoch
    let pay := leBytes 4 j.gapRecs ++ leBytes 4 j.gapBytes ++ (j.gapSq.toList.map (leBytes 4)).flatten ++ zeros 8
    sysRecord t ep 0x0004 0x01 pay (updJrn (fun j => { j with gapRecs := 0, gapBytes := 0, gapSq := Vector.replicate 4 0, gapEpoch := none }) s)

/-- GAP_RECORD (R288): the boundary that closes the millisecond has been reached. -/
def execGapRecord (s : State) : Res := if s.jrn.gapMs < msNow s then .next (gapRecord s) else .next s

/-- A lossy record is dropped and counted (R288, Table JRN-13). -/
def dropRecord (src : CmdSrc) (b : Nat) (s : State) : State :=
  let s := if s.jrn.gapMs < msNow s then gapRecord s else s
  let m := msNow s
  let s := updJrn (fun j => { j with
    drops := satAdd 32 j.drops 1, dropBytes := satAdd 32 j.dropBytes b, gapRecs := j.gapRecs + 1, gapBytes := j.gapBytes + b, gapMs := m,
    gapSq := match src with | .sq q => vUpd j.gapSq q.val (· + 1) | .mbx => j.gapSq }) s
  evt pgJrn 2 s

/-- A host record is admitted, refused or dropped (Table JRN-8); on admission its command waits for the SEQ (R284). -/
def admitHost (id : CmdId) (lossy : Bool) (r : Rec) (s : State) : State :=
  let b := recOcc r
  let h := occHost s.jrn + b
  let cover := !s.jrn.overcommit && decide (h + 262144 ≤ s.jrn.k)
  let full := fun (why : Nat) => finishCmd id { result := 0x41, count := why } (evt pgJrn 1 (updJrn (fun j => { j with qfull := satAdd 32 j.qfull 1 }) s))
  if lossy then
    if h ≤ lossyUnits s * 65536 && cover then
      setStage id .waiting (updJrn (fun j => { j with admitted := j.admitted + 1, waiting := j.waiting ++ [{ r := { r with lossy := true }, host := true, at_ := now s, cmd := some id, no := j.admitted + 1 }] }) s)
    else finishCode id 0x42 (dropRecord id.src b s)
  else if h > windowUnits s * 65536 then full 1
  else if !cover then full 2
  else setStage id .waiting (updJrn (fun j => { j with admitted := j.admitted + 1, waiting := j.waiting ++ [{ r := r, host := true, at_ := now s, cmd := some id, no := j.admitted + 1 }] }) s)

/-- JOURNAL_APPEND (R289, R293): `dma` says that host memory gave the payload, `given` what it holds. -/
def execJournalAppend (id : CmdId) (dma : Bool) (given : List Byte) (s : State) : Res :=
  match fetchedCmd s id 0x10 with
  | none => .next s
  | some c =>
    match jrnRefusal s with
    | some code => .next (finishCode id code s)
    | none =>
      if c.desc.source.toNat < 0x100 then .next (finishCode id 0x43 s)
      else if c.desc.length.toNat > 4064 then .next (finishCode id 0x44 s)
      else match takeData c dma given (issue .journalPayload (cmdPage c) pgJrn ((c.desc.length.toNat + 15) / 16) s) with
      | (none, t) => .next (dmaError id t)
      | (some l, t) => .next (admitHost id (c.desc.flags.getLsbD 0)
          { time := now t, epoch := lastEpoch t, source := c.desc.source.toNat, cls := c.desc.cls.toNat, payload := l } t)

/-- The buffer of the latest committed epoch (R56). -/
def latestBuf (s : State) : Option EpochBuf :=
  match s.ep.latest with
  | none => none
  | some i => vGet s.ep.bufs i none

/-- SNAPSHOT (R289): the payload is that of the latest committed epoch (Table JRN-4); while no committed epoch is held it is a free value (log 2), stamped with the time and the last committed epoch (R58). -/
def execSnapshot (id : CmdId) (s : State) : Res :=
  match fetchedCmd s id 0x12 with
  | none => .next s
  | some _ =>
    match jrnRefusal s with
    | some code => .next (finishCode id code s)
    | none =>
      match latestBuf s with
      | some b => .next (admitHost id false { time := b.time, epoch := b.epoch, source := 0x0007, cls := 0x01, payload := b.body } s)
      | none =>
        let n := s.free
        .next (admitHost id false { time := now s, epoch := lastEpoch s, source := 0x0007, cls := 0x01, payload := (List.range 2768).map (Config.freeByte n) } { s with free := n + 1 })

/-! ## SEQ (R283, R284, R309) -/

/-- Record b receives its SEQ before h: by the stamp, EPOCH before TIME (R59), and a system record before a host record of the same stamp (R284). -/
def stampBefore (b h : BufRec) : Bool :=
  decide (b.r.epoch.toNat < h.r.epoch.toNat) || (b.r.epoch == h.r.epoch && (decide (b.r.time < h.r.time) || (b.r.time == h.r.time && !b.host && h.host)))

/-- Insert a record by stamp; equal ones stay in order of admission. -/
def insertStamp (b : BufRec) : List BufRec → List BufRec
  | [] => [b]
  | h :: t => if stampBefore b h then b :: h :: t else h :: insertStamp b t

/-- Waiting records in the order in which they receive SEQ. -/
def stampOrder (l : List BufRec) : List BufRec := l.foldl (fun acc b => insertStamp b acc) []

/-- One record receives the next SEQ and stands in the buffer; the command that waits for it completes ACCEPTED (Table HIF-7). -/
def giveSeq (b : BufRec) (s : State) : State :=
  let n := s.jrn.nextSeq
  let s := updJrn (fun j => { j with nextSeq := n + 1, buf := j.buf ++ [{ b with r := { b.r with seq := n }, cmd := none }] }) s
  match b.cmd with
  | none => s
  | some id => finishCmd id { result := 0x40, count := b.r.epoch.toNat, value := n } s

/-- Give SEQ to the records listed, none at or above the journal floor (R309); those held stay waiting. -/
def giveSeqs : List BufRec → State → State
  | [], s => updJrn (fun j => { j with waiting := [] }) s
  | b :: t, s => if s.jrn.nextSeq ≥ s.sto.floor then updJrn (fun j => { j with waiting := b :: t }) s else giveSeqs t (giveSeq b s)

/-- When NEXT_SEQ comes within 2^39 of the floor, a snapshot with a raised floor is asked for (R309). -/
def floorCheck (s : State) : State :=
  if s.sto.floor ≤ s.jrn.nextSeq + 2 ^ 39 then updJrn (fun j => { j with floorReq := true }) s else s

/-- SEQ_ASSIGN (R284): the watermark has passed every commit when no detection is on its way to the collector (log 27). -/
def execSeqAssign (s : State) : Res :=
  if jrnAdmits s.jrn && s.fcr.inbox.isEmpty then .next (floorCheck (giveSeqs (stampOrder s.jrn.waiting) s)) else .next s

/-- The store controller writes a map snapshot with the floor raised by 2^40 (R309). -/
def raiseFloor (s : State) : State := updSto (fun t => writeSnapshot { t with floor := t.floor + 2 ^ 40 }) s

/-- FLOOR_SNAPSHOT_DONE (R309). -/
def execFloorSnapshotDone (s : State) : Res :=
  if s.jrn.floorReq then .next (updJrn (fun j => { j with floorReq := false }) (raiseFloor s)) else .next s

/-! ## The ring (R300) -/

/-- The journal partition. -/
structure Ring where
  first : Nat
  count : Nat
  deriving DecidableEq, Repr

/-- The journal partition of the layout in force (Table STO-5). -/
def ringOf (s : State) : Ring := match partOfType s.sto 4 with | some p => { first := p.first, count := p.count } | none => { first := 0, count := 2 }

/-- Words of the ring. -/
def ringWords (g : Ring) : Nat := (g.count - 2) * 4096

/-- A ring position, kept within the ring. -/
def ringPos (g : Ring) (p : Nat) : Nat := if ringWords g = 0 then 0 else p % ringWords g

/-- Logical store address of a ring position. -/
def ringAddr (g : Ring) (p : Nat) : Nat := (g.first + 2) * 65536 + 16 * ringPos g p

/-- The bytes that stand at a ring position. -/
def ringPeek (g : Ring) (p : Nat) (s : State) : List Byte := memRead s.sto.mem (physAddr s.sto (ringAddr g p)) 16

/-- A ring word cannot be read: it is poisoned, its bank is isolated without a spare, or `fs` says so. -/
def ringBad (g : Ring) (fs : List (Nat × WordCheck)) (p : Nat) (s : State) : Bool :=
  let a := ringAddr g p
  s.sto.poison.contains (physAddr s.sto a / 16) || s.sto.dead.getLsbD (bankOf (physAddr s.sto a)) || wordAtFault fs a == .uncorrectable

/-- One ring word before those that follow it: a word that gives no data reads as 0. -/
def joinRing (r : WordRead) (q : List Byte × Bool) : List Byte × Bool :=
  match r with
  | .data l => (l ++ q.1, q.2)
  | .uncorrectable => (zeros 16 ++ q.1, true)
  | .isolated => (zeros 16 ++ q.1, true)

/-- Read `k` ring words: their bytes, unreadable words as 0, and whether any could not be read. -/
def ringRead (g : Ring) (fs : List (Nat × WordCheck)) : Nat → Nat → State → (List Byte × Bool) × State
  | 0, _, s => (([], false), s)
  | k + 1, p, s =>
    let a := ringAddr g p
    let r := readWordPhys (physAddr s.sto a) (wordAtFault fs a) s
    let q := ringRead g fs k (p + 1) r.2
    (joinRing r.1 q.1, q.2)

/-- Write ring words, running over the end of the ring into position 0. -/
def ringWrite (g : Ring) (p : Nat) (l : List Byte) (s : State) : State :=
  let room := (ringWords g - ringPos g p) * 16
  if l.length ≤ room then updSto (writeSpan 80 (ringAddr g p) l) s
  else updSto (writeSpan 80 (ringAddr g 0) (l.drop room)) (updSto (writeSpan 80 (ringAddr g p) (l.take room)) s)

/-- Poison a ring word (R304). -/
def ringPoison (g : Ring) (p : Nat) (s : State) : State :=
  updSto (fun t => let w := physAddr t (ringAddr g p) / 16
                   if t.poison.contains w then t else { t with poison := t.poison ++ [w] }) s

/-- A commit word (Table JRN-11). -/
def commitBytes (last count : Nat) (chain : Word32) : List Byte := leBytes 8 last ++ leBytes 2 count ++ [0xC5, 0] ++ leBytes 4 chain.toNat

/-- The words of a record whose payload has a given length (R281). -/
def recWords (len : Nat) : Nat := 2 + (len + 15) / 16

/-- Write the index entry of the ring ingot that a position lies in (R300). -/
def writeIndex (g : Ring) (p seq : Nat) (s : State) : State :=
  let q := ringPos g p
  updSto (writeSpan 2 ((g.first + 1) * 65536 + 8 * (q / 4096 + 2)) (leBytes 8 (seq % 2 ^ 48 + 2 ^ 48 * (q % 4096)))) s

/-- The record whose header an index entry names, where the SEQ found there agrees (R300): SEQ and position. -/
def indexed (g : Ring) (ingot : Nat) (s : State) : Option (Nat × Nat) :=
  let e := leNat (memRead s.sto.mem (physAddr s.sto ((g.first + 1) * 65536 + 8 * (ingot + 2))) 8)
  let p := ingot * 4096 + e / 2 ^ 48 % 4096
  let seq := leAt (ringPeek g p s) 0 8
  if seq % 2 ^ 48 = e % 2 ^ 48 then some (seq, p) else none

/-- OLDEST_SEQ as the write position enters ring ingot `k` (R302): the first record whose header starts in the next ring ingot, where the ring still holds one. -/
def advanceOldest (g : Ring) (k : Nat) (s : State) : State :=
  let n := ringWords g / 4096
  if n = 0 then s
  else match indexed g ((k + 1) % n) s with
  | none => s
  | some (seq, p) => if s.jrn.oldestSeq < seq ∧ seq < s.jrn.nextSeq then updJrn (fun j => { j with oldestSeq := seq, oldestPos := p }) s else s

/-! ## Anchors (R303, Table JRN-10) -/

/-- An anchor slot (Table JRN-10). -/
structure Anchor where
  no : Word32
  first : Nat
  count : Nat
  headPos : Nat
  headSeq : Nat
  oldestSeq : Nat
  oldestPos : Nat
  c : Nat
  esr : Nat
  starts : Word32
  sealedPf : Bool
  deriving DecidableEq, Repr

/-- The 64 bytes of an anchor. -/
def anchorBytes (a : Anchor) : List Byte :=
  let b := ascii "GWJA" ++ leBytes 2 1 ++ zeros 2 ++ leBytes 4 a.no.toNat ++ leBytes 4 a.first ++ leBytes 4 a.count ++ leBytes 4 a.headPos ++ leBytes 8 a.headSeq ++
    leBytes 8 a.oldestSeq ++ leBytes 4 a.oldestPos ++ leBytes 2 a.c ++ leBytes 2 a.esr ++ leBytes 4 a.starts.toNat ++ [if a.sealedPf then 1 else 0] ++ zeros 7
  b ++ leBytes 4 (crc32c b).toNat

/-- A slot with valid MAGIC and CRC. -/
def anchorOf (l : List Byte) : Option Anchor :=
  if l.take 4 = ascii "GWJA" ∧ r32 (leAt l 60 4) = crc32c (l.take 60) then
    some { no := wordAt l 8, first := leAt l 12 4, count := leAt l 16 4, headPos := leAt l 20 4, headSeq := leAt l 24 8, oldestSeq := leAt l 32 8,
           oldestPos := leAt l 40 4, c := leAt l 44 2, esr := leAt l 46 2, starts := wordAt l 48, sealedPf := leAt l 52 1 % 2 = 1 }
  else none

/-- Of two slots of the anchor ingot, in their order, the valid one with the higher ANCHOR_NO. -/
def higherAnchor (x y : Option Anchor) : Option Anchor :=
  match y with
  | none => x
  | some a => match x with | none => some a | some b => if a.no.toNat > b.no.toNat then some a else some b

/-- Read the anchor ingot: the valid slot with the highest ANCHOR_NO. -/
def newestAnchor (g : Ring) (fs : List (Nat × WordCheck)) (s : State) : Option Anchor × State :=
  (List.range 1024).foldl (fun (acc : Option Anchor × State) i =>
    let r := readWords fs 4 (g.first * 65536 + 64 * i) acc.2
    (higherAnchor acc.1 (anchorOf r.1.bytes), r.2)) (none, s)

/-- Write anchor number `no` in its slot. -/
def writeAnchor (no : Word32) (pf : Bool) (s : State) : State :=
  let g := ringOf s
  let j := s.jrn
  let a : Anchor := { no := no, first := g.first, count := g.count, headPos := j.pos, headSeq := j.sealedSeq, oldestSeq := j.oldestSeq, oldestPos := j.oldestPos,
                      c := j.cAnchor, esr := j.esrAnchor, starts := j.starts, sealedPf := pf }
  let t := now s
  updJrn (fun j => { j with anchorNo := no, anchorAt := t, anchorDue := false, sinceAnchor := 0 })
    (updSto (writeSpan 2 (g.first * 65536 + 64 * (no.toNat % 1024)) (anchorBytes a)) s)

/-- An anchor follows this commit word (R303): 16 MiB of ring or 1 s since the last one, or recovery has ended. -/
def anchorFalls (s : State) : Bool := s.jrn.anchorDue || decide (s.jrn.sinceAnchor ≥ 1048576) || decide (now s ≥ s.jrn.anchorAt + 1000 * tbMs)

/-! ## Batches (R301, R302, R304) -/

/-- The records of the next batch: up to 256 records and 65,536 bytes, in SEQ order. -/
def batchOf : Nat → Nat → List BufRec → List BufRec
  | 0, _, _ => []
  | _, _, [] => []
  | n + 1, room, b :: t => if recOcc b.r ≤ room then b :: batchOf n (room - recOcc b.r) t else []

/-- Read the words of a record from the admission buffer (R304): `ws` is what each word gives; the first is word `i` of the record, at ring position `p`. Uncorrectable words are written as poisoned words, and the 64 KiB unit of the buffer they stood in is isolated (R26). Where in the buffer a record stands is the implementation's: the word's address is a free value (log 2). -/
def drainWords (g : Ring) (ws : List (Nat × WordCheck)) : Nat → Nat → Nat → State → State
  | 0, _, _, s => s
  | k + 1, i, p, s =>
    let r := readThrice pgJrn (((ws.find? fun e => e.1 == i).map Prod.snd).getD .good) s
    let d := (Config.freeValue r.2.free).toNat % 2 ^ 24
    let s := if r.1.check = .good then r.2 else reportRead 0x090 0x087 pgJrn d r.1 { r.2 with free := r.2.free + 1 }
    drainWords g ws k (i + 1) (p + 1) (if r.1.check = .uncorrectable then ringPoison g p (isolateCell pgJrn (d / 4096 % 40) false s) else s)

/-- Write one record at the ring position (R301, R302): entering a ring ingot advances OLDEST_SEQ, and the first header in an ingot makes its index entry. `ws` names faulty buffer words by their place in the batch, which this record enters at `i`. -/
def drainRecord (g : Ring) (ws : List (Nat × WordCheck)) (i : Nat) (b : BufRec) (s : State) : State :=
  let p := s.jrn.pos
  let n := recOcc b.r / 16
  let s := if p % 4096 = 0 then advanceOldest g (p / 4096) s else if p / 4096 ≠ (p + n - 1) / 4096 then advanceOldest g (ringPos g (p + n - 1) / 4096) s else s
  let firstHere := match indexed g (p / 4096) s with
    | some (q, r) => !(decide (r ≤ p) && decide (s.jrn.oldestSeq ≤ q) && decide (q < b.r.seq))
    | none => true
  let s := ringWrite g p (recBytes b.r) s
  let s := if firstHere then writeIndex g p b.r.seq s else s
  let s := drainWords g ws n i p s
  updJrn (fun j => { j with pos := ringPos g (p + n), sinceAnchor := j.sinceAnchor + n }) s

/-- Write the records of a batch one after another. -/
def drainRecords (g : Ring) (ws : List (Nat × WordCheck)) : Nat → List BufRec → State → State
  | _, [], s => s
  | i, b :: t, s => drainRecords g ws (i + recOcc b.r / 16) t (drainRecord g ws i b s)

/-- SEAL_MARK (Table JRN-13): SEALED_SEQ first equals or passes SEAL_WATCH. -/
def sealMark (s : State) : State :=
  if s.jrn.watchDone || decide (s.jrn.sealedSeq < s.jrn.sealWatch) then s else evt pgJrn 8 (updJrn (fun j => { j with watchDone := true }) s)

/-- Longest time from admission to SEALED, in µs. -/
def sealTime (t : Nat) (l : List BufRec) (m : Nat) : Nat := l.foldl (fun m b => max m (min ((t - b.at_) / 100) 0xFFFF)) m

/-- One batch is written and committed: its records become SEALED with its commit word (R301, Table JRN-11). -/
def commitBatch (ws : List (Nat × WordCheck)) (s : State) : State :=
  let g := ringOf s
  let l := batchOf 256 65536 s.jrn.buf
  match l.getLast? with
  | none => s
  | some last =>
    let chain := crc32c ((l.map fun b => leBytes 4 (recCrc b.r).toNat).flatten)
    let s := drainRecords g ws 0 l s
    let p := s.jrn.pos
    let s := if p % 4096 = 0 then advanceOldest g (p / 4096) s else s
    let s := ringWrite g p (commitBytes last.r.seq l.length chain) s
    let t := now s
    let s := updJrn (fun j => { j with
      pos := ringPos g (p + 1), sinceAnchor := j.sinceAnchor + 1, buf := j.buf.drop l.length, sealedSeq := last.r.seq, headChain := chain,
      sealMaxUs := sealTime t l j.sealMaxUs }) s
    let s := if anchorFalls s then writeAnchor (s.jrn.anchorNo + 1) false s else s
    wakeFlushes (sealMark (judgeCover s))

/-- The engine may write to the store. -/
def jrnDrains (s : State) : Bool := jrnAdmits s.jrn && !(pageFenced s pgSto) && !(pageFenced s pgJrn) && !s.sto.parked

/-- BATCH_COMMIT (R301): the words cross the fabric as JOURNAL traffic (Table ARC-3); `ws` is what disturbed words of the admission buffer give, by their place in the batch. -/
def execBatchCommit (ws : List (Nat × WordCheck)) (s : State) : Res := if jrnDrains s && !s.jrn.buf.isEmpty then .next (commitBatch ws (issue .drain pgJrn pgSto (((batchOf 256 65536 s.jrn.buf).map fun b => recOcc b.r / 16).sum + 1) s)) else .next s

/-! ## FLUSH and JOURNAL_READ (R289, R290) -/

/-- FLUSH (R263, R289): waits for every store write and every record before it. -/
def execFlush (id : CmdId) (s : State) : Res :=
  match fetchedCmd s id 0x04 with
  | none => .next s
  | some _ =>
    if pageFenced s pgSto then .next (finishCode id 0x0C s)
    else match jrnRefusal s with
    | some code => .next (finishCode id code s)
    | none =>
      let f : Flush := { id := id, upTo := s.jrn.admitted, writes := s.sto.atomics.map (·.id) ++ s.sto.waits.map (·.id) }
      .next (wakeFlushes (setStage id .waiting (updJrn (fun j => { j with flushes := j.flushes ++ [f] }) s)))

/-- A header of record `n` whose CRC holds stands at a ring position. -/
def headerAt (g : Ring) (p n : Nat) (s : State) : Bool :=
  let h := ringPeek g p s ++ ringPeek g (p + 1) s
  let len := leAt h 24 2
  let pay := ((List.range ((len + 15) / 16)).map fun i => ringPeek g (p + 2 + i) s).flatten.take len
  decide (leAt h 0 8 = n) && decide (len ≤ 4064) && (wordAt h 28 == crc32c (h.take 28 ++ pay))

/-- The commit word of a batch whose last record is `n` stands at a ring position. -/
def commitAt (g : Ring) (p n : Nat) (s : State) : Bool :=
  let w := ringPeek g p s
  decide (leAt w 0 8 = n) && decide (leAt w 10 1 = 0xC5)

/-- The position after record `n` at `p`, where its LENGTH can be read, or by the search of R290. -/
def afterRecord (g : Ring) (fs : List (Nat × WordCheck)) (p n : Nat) (s : State) : Nat :=
  let q := if ringBad g fs (p + 1) s then
      (match (List.range 256).find? fun i => headerAt g (p + 2 + i) (n + 1) s || commitAt g (p + 2 + i) n s with
       | some i => p + 2 + i
       | none => p + 258)
    else p + recWords (leAt (ringPeek g (p + 1) s) 8 2)
  if leAt (ringPeek g q s) 0 8 = n + 1 then q else q + 1

/-- The position of record `n`, found from the oldest one; `k` bounds the walk. -/
def findRecord (g : Ring) (fs : List (Nat × WordCheck)) (n : Nat) (s : State) : Nat → Nat → Nat → Nat
  | 0, p, _ => p
  | k + 1, p, m => if m ≥ n then p else findRecord g fs n s k (afterRecord g fs p m s) (m + 1)

/-- What a read has delivered so far. -/
structure Delivered where
  bytes : List Byte := []
  next : Nat
  damaged : Bool := false
  deriving DecidableEq, Repr

/-- One record as it is delivered (R290): unreadable words as 0; a header whose word 1 cannot be read goes alone. -/
def deliverOne (g : Ring) (fs : List (Nat × WordCheck)) (p : Nat) (s : State) : (List Byte × Bool) × State :=
  let h := ringRead g fs 2 p s
  if ringBad g fs (p + 1) s then ((h.1.1, true), h.2)
  else
    let r := ringRead g fs ((leAt h.1.1 24 2 + 15) / 16) (p + 2) h.2
    ((h.1.1 ++ r.1.1, h.1.2 || r.1.2), r.2)

/-- Deliver whole records upward from `n` at position `p`; `k` bounds their number. -/
def deliverUp (g : Ring) (fs : List (Nat × WordCheck)) (maxBytes : Nat) : Nat → Nat → Nat → List Byte → State → Delivered × State
  | 0, _, n, acc, s => ({ bytes := acc, next := n }, s)
  | k + 1, p, n, acc, s =>
    if n > s.jrn.sealedSeq then ({ bytes := acc, next := n }, s)
    else
      let r := deliverOne g fs p s
      if acc.length + r.1.1.length > maxBytes then ({ bytes := acc, next := n }, s)
      else if r.1.2 then ({ bytes := acc ++ r.1.1, next := n + 1, damaged := true }, r.2)
      else deliverUp g fs maxBytes k (afterRecord g fs p n s) (n + 1) (acc ++ r.1.1) r.2

/-- What JOURNAL_READ of a checked range delivers and completes with (Tables JRN-6 and HIF-7). -/
def journalCpl (fs : List (Nat × WordCheck)) (start maxBytes : Nat) (s : State) : Cpl × State :=
  let j := s.jrn
  if start < j.oldestSeq then ({ result := 0x48, value := j.oldestSeq }, s)
  else if start > j.sealedSeq then ({ result := 0x49, value := start }, s)
  else
    let g := ringOf s
    let p := findRecord g fs start s (start - j.oldestSeq) j.oldestPos j.oldestSeq
    let d := deliverUp g fs maxBytes (maxBytes / 32 + 1) p start [] s
    if d.1.damaged then ({ result := 0x4B, count := d.1.bytes.length, value := d.1.next, data := d.1.bytes }, d.2)
    else if d.1.next = start then ({ result := 0x4A, value := start }, d.2)
    else ({ result := 0x47, count := d.1.bytes.length, value := d.1.next, data := d.1.bytes }, d.2)

/-- JOURNAL_READ (R289, R290): `dma` says that host memory took the data, `fs` what the array gives for disturbed words. -/
def execJournalRead (id : CmdId) (dma : Bool) (fs : List (Nat × WordCheck)) (s : State) : Res :=
  match fetchedCmd s id 0x11 with
  | none => .next s
  | some c =>
    let n := c.desc.length.toNat
    match jrnRefusal s with
    | some code => .next (finishCode id code s)
    | none =>
      if pageFenced s pgSto then .next (finishCode id 0x0C s)
      else if n % 16 ≠ 0 then .next (finishCode id 0x03 s)
      else if n < 16 ∨ n > 1048576 then .next (finishCode id 0x04 s)
      else
        let r := journalCpl fs c.desc.addr.toNat n (issue .journalPayload pgJrn (cmdPage c) (n / 16) s)
        if dma || c.id.src == .mbx || r.1.data.isEmpty then .next (finishCmd id r.1 r.2) else .next (dmaError id r.2)

/-! ## Sealing (R305, Table JRN-12) -/

/-- Every FLUSH that waits, and every ATTEST that runs, completes POWER_FAIL (R305, R451). -/
def endWaiting (s : State) : State :=
  let s := s.jrn.flushes.foldl (fun u f => finishCode f.id 0x46 u) s
  let s := s.hmk.atts.foldl (fun u a => finishCode a.id 0x46 u) s
  { updJrn (fun j => { j with flushes := [] }) s with hmk := { s.hmk with atts := [] } }

/-- SEAL_REQUEST (R305, R488 step 3): sealing is asked for while the power-fail sequence or a chip reset that seals first runs; a Touchmark pulse ends (R422, `back` is what its row then gives). While the engine recovers, sealing is skipped (R489). -/
def execSealRequest (back : Fuse) (s : State) : Res :=
  if !(s.pwr.pfRun || s.rst.chip.isSome) then .next s
  else
    let s := progCut 0x1C back s
    if s.jrn.st != .running then .next s
    else
      let j := s.jrn
      let s := { s with pwr := { s.pwr with sealCause := s.pwr.pfFirst } }
      .next (endWaiting (updJrn (fun j' => { j' with st := .sealing, sealReq := some (s.pwr.pfFirst, occHost j + occSys j, j.holdV, j.eAvail, now s) }) s))

/-- The POWER_FAIL record (Table JRN-4). -/
def powerFailRec (s : State) : Rec :=
  let q := s.jrn.sealReq.getD (0, 0, 0, 0, 0)
  { seq := s.jrn.nextSeq, time := now s, epoch := lastEpoch s, source := 0x0005, cls := 0x01,
    payload := leBytes 1 q.1 ++ leBytes 1 (modeCode s.sys.mode) ++ zeros 2 ++ leBytes 4 q.2.1 ++ leBytes 2 q.2.2.1 ++ zeros 2 ++
      leBytes 4 ((now s - q.2.2.2.2) / 100) ++ leBytes 8 s.jrn.sealedSeq ++ leBytes 4 q.2.2.2.1 ++ zeros 4 }

/-- SEALING_DONE (Table JRN-12, steps 5 and 6): the buffer is empty; the POWER_FAIL record is written and committed, and an anchor with SEALED_PF follows. -/
def execSealingDone (s : State) : Res :=
  if s.jrn.st == .sealing && s.jrn.buf.isEmpty && s.jrn.waiting.isEmpty && jrnDrains s then
    let b : BufRec := { r := powerFailRec s, host := false, at_ := now s }
    let s := commitBatch [] (updJrn (fun j => { j with nextSeq := j.nextSeq + 1, buf := [b] }) s)
    .next (evt pgJrn 9 (updJrn (fun j => { j with st := .sealed }) (writeAnchor (s.jrn.anchorNo + 1) true s)))
  else .next s

/-! ## Recovery (R306 to R308) -/

/-- Where the walk of R306 stands: the journal as accepted so far, and the batch that is being read. -/
structure Walk where
  sealedSeq : Nat
  pos : Nat
  /-- 1 CLEAN, 2 ABRUPT, 3 CUT (JRN.RECOV.OUTCOME) -/
  outcome : Nat
  damaged : Nat := 0
  chain : Word32 := 0
  p : Nat
  n : Nat
  crcs : List Byte := []
  records : Nat := 0
  batchDamaged : Nat := 0
  lastSource : Nat := 0
  /-- First headers of ring ingots met in accepted batches, and in the batch being read: position and SEQ -/
  heads : List (Nat × Nat) := []
  batchHeads : List (Nat × Nat) := []
  deriving DecidableEq, Repr

/-- A record header is read as the second header word allows: its reserved fields and LENGTH. -/
def recHeadOk (h : List Byte) : Bool := decide (leAt h 26 2 = 0) && decide (leAt h 23 1 < 16) && decide (leAt h 24 2 ≤ 4064)

/-- A commit word closes the batch being read. -/
def commitOk (w : Walk) (l : List Byte) : Bool :=
  decide (leAt l 0 8 + 1 = w.n) && decide (leAt l 10 1 = 0xC5) && decide (0 < w.records) && decide (leAt l 8 2 = w.records) && (wordAt l 12 == crc32c w.crcs)

/-- The walk past a record whose header is sound and whose payload words are `d`, unreadable where so marked (R306). -/
def walkPast (g : Ring) (w : Walk) (hd : List Byte) (d : List Byte × Bool) : Walk × Bool :=
  let len := leAt hd 24 2
  if !d.2 && wordAt hd 28 != crc32c (hd.take 28 ++ d.1.take len) then (w, false)
  else
    let q := ringPos g w.p
    let known := (w.batchHeads ++ w.heads).any fun e => e.1 / 4096 == q / 4096
    ({ w with p := ringPos g (w.p + recWords len), n := w.n + 1, records := w.records + 1, crcs := w.crcs ++ slice hd 28 4,
              batchDamaged := w.batchDamaged + (if d.2 then 1 else 0), lastSource := leAt hd 20 2,
              batchHeads := if known then w.batchHeads else (q, w.n) :: w.batchHeads }, true)

/-- The walk at a record whose first header word is `w0`. -/
def walkRecord (g : Ring) (fs : List (Nat × WordCheck)) (w : Walk) (w0 : List Byte) (s : State) : (Walk × Bool) × State :=
  let h := ringRead g fs 1 (w.p + 1) s
  let hd := w0 ++ h.1.1
  if h.1.2 then (({ w with outcome := 3 }, false), h.2)
  else if !(recHeadOk hd) then ((w, false), h.2)
  else
    let d := ringRead g fs ((leAt hd 24 2 + 15) / 16) (w.p + 2) h.2
    (walkPast g w hd d.1, d.2)

/-- One word of the walk: a record, a commit word, or its end (none). -/
def walkStep (g : Ring) (fs : List (Nat × WordCheck)) (w : Walk) (s : State) : (Walk × Bool) × State :=
  let r := ringRead g fs 1 w.p s
  if r.1.2 then (({ w with outcome := 3 }, false), r.2)
  else if leAt r.1.1 0 8 = w.n then walkRecord g fs w r.1.1 r.2
  else if commitOk w r.1.1 then
    let p := ringPos g (w.p + 1)
    (({ w with sealedSeq := w.n - 1, pos := p, p := p, damaged := w.damaged + w.batchDamaged, chain := crc32c w.crcs,
               outcome := if w.lastSource = 0x0005 then 1 else 2, heads := w.batchHeads ++ w.heads,
               crcs := [], records := 0, batchDamaged := 0, batchHeads := [] }, true), r.2)
  else ((w, false), r.2)

/-- The walk of R306; `k` bounds its words by the ring. -/
def walk (g : Ring) (fs : List (Nat × WordCheck)) : Nat → Walk → State → Walk × State
  | 0, w, s => (w, s)
  | k + 1, w, s =>
    let r := walkStep g fs w s
    if r.1.2 then walk g fs k r.1.1 r.2 else (r.1.1, r.2)

/-- A system record that recovery admits and gives its SEQ at once (R306, R308). -/
def directRecord (cls : Nat) (payload : List Byte) (s : State) : State :=
  let s := sysRecord (now s) (lastEpoch s) 0x0001 cls payload s
  giveSeqs s.jrn.waiting s

/-- The capacitance and ESR in use until a measurement passes: 0.9 of what the anchor holds (R299, log 28). -/
def provisionalFrom (c esr : Nat) (s : State) : State :=
  if s.jrn.cValid then s
  else updJrn (fun j => { j with cAnchor := c, esrAnchor := esr, cMeas := 9 * c / 10, esr := 9 * esr / 10, provisional := true }) s

/-- Formatting (R308), with what is known of the old journal: the state, and the payload of the FORMAT record. -/
def formatJournal (g : Ring) (old : Option Anchor) (s : State) : State × List Byte :=
  let head := s.sto.floor
  let c := match old with | some a => a.c | none => 0
  let esr := match old with | some a => a.esr | none => 0
  let starts := match old with | some a => a.starts + 1 | none => 1
  let s := raiseFloor s
  let s := updSto (writeSpan 2 (g.first * 65536) (zeros 65536)) s
  let s := updJrn (fun j => { j with pos := 0, sealedSeq := head, nextSeq := head + 1, oldestSeq := head + 1, oldestPos := 0, starts := starts, outcome := 4, damaged := 0, headChain := 0 }) s
  let s := evt pgJrn 11 (writeAnchor 0 false (provisionalFrom c esr s))
  (s, (match old with | some a => leBytes 4 a.first ++ leBytes 4 a.count | none => zeros 8) ++ leBytes 4 g.first ++ leBytes 4 g.count)

/-- Recovery from an anchor (R306): the walk, the index entries of the ingots scanned, OLDEST, and a new anchor. -/
def recoverFrom (g : Ring) (fs : List (Nat × WordCheck)) (a : Anchor) (s : State) : State :=
  let r := walk g fs (ringWords g) { sealedSeq := a.headSeq, pos := a.headPos, p := a.headPos, n := a.headSeq + 1, outcome := if a.sealedPf then 1 else 2 } s
  let w := r.1
  let s := updJrn (fun j => { j with pos := w.pos, sealedSeq := w.sealedSeq, nextSeq := w.sealedSeq + 1, oldestSeq := a.oldestSeq, oldestPos := a.oldestPos,
                                     starts := a.starts + 1, outcome := w.outcome, damaged := min w.damaged 0xFFFF, headChain := w.chain }) r.2
  let s := (w.heads.filter fun e => e.1 / 4096 != a.headPos / 4096 || a.headPos % 4096 == 0).foldl (fun u e => writeIndex g e.1 e.2 u) s
  let s := advanceOldest g (w.pos / 4096) s
  let s := writeAnchor (a.no + 1) false (provisionalFrom a.c a.esr s)
  if w.outcome = 3 then report0 0x086 pgJrn s else s

/-- The payload of the START record (Table JRN-4): `merge` Lengthman entries are to be merged. -/
def startPayload (merge : Nat) (s : State) : List Byte :=
  let j := s.jrn
  leBytes 1 j.outcome ++ zeros 3 ++ leBytes 4 j.damaged ++ leBytes 8 j.sealedSeq ++ leBytes 4 j.starts.toNat ++ leBytes 2 merge ++ zeros 2 ++
    leBytes 2 (if j.provisional then j.cMeas else 0) ++ zeros 6

/-- The collector's entries that no record stands for yet are admitted in the order of their SEQ, under the limit of R384 (R538). -/
def handOver (s : State) : State :=
  let l := (s.fcr.hist.filter fun e => decide (s.jrn.handed.toNat < e.seq.toNat)).reverse
  (l.foldl (fun (acc : List (Nat × Nat) × State) e =>
    let key := (e.src, e.time / tbMs)
    if decide (e.cls < 3) && acc.1.contains key then acc else (key :: acc.1, faultRecord e acc.2)) ([], s)).2

/-- Recovery or formatting once the anchor ingot has been read: `x` is the anchor it gave (R306, R308). -/
def recoverWith (g : Ring) (fs : List (Nat × WordCheck)) (merge : Nat) (x : Option Anchor) (s : State) : State :=
  let running := fun (s : State) => evt pgJrn 0 (updJrn (fun j => { j with st := .running, anchorDue := true }) s)
  let s :=
    match x with
    | none => (fun x : State × List Byte => directRecord 0x02 x.2 (running x.1)) (formatJournal g none s)
    | some a =>
      if a.first = g.first ∧ a.count = g.count then running (recoverFrom g fs a s)
      else (fun x : State × List Byte => directRecord 0x02 x.2 (running x.1)) (formatJournal g (some a) s)
  let head := s
  handOver (recompute (directRecord 0x01 (startPayload merge head) s))

/-- Journal recovery (R306): formatting or recovery, the START record, and the hand-over of R538. `merge` is the number of Lengthman entries the START record announces. -/
def recoverJournal (fs : List (Nat × WordCheck)) (merge : Nat) (s : State) : State :=
  if s.jrn.st != .recovering || s.ast.storeBad || !s.sto.mapOk || (partOfType s.sto 4).isNone then s
  else
    let r := newestAnchor (ringOf s) fs s
    recoverWith (ringOf s) fs merge r.1 r.2

/-! ## Registers (R311) -/

/-- A write to SEAL_WATCH_LO or SEAL_WATCH_HI: the low half is staged for each interface, the high half takes effect with it. -/
def sealWatchWrite (iface : Iface) (hi : Bool) (v : Word32) (s : State) : State :=
  let i := ifaceNo iface
  if hi then
    let lo := vGet s.jrn.watchStaged i 0
    sealMark (updJrn (fun j => { j with sealWatch := lo.toNat + 2 ^ 32 * v.toNat, watchDone := false }) s)
  else updJrn (fun j => { j with watchStaged := vSet j.watchStaged i v }) s

/-- CTRL.CNT_CLR (Table JRN-13). -/
def jrnCntClr (s : State) : State := updJrn (fun j => { j with qfull := 0, drops := 0, dropBytes := 0, uncov := 0, sealMaxUs := 0 }) s

end Sys2Proof.Machine
end

