-- ==== Sys2Proof/Machine/CheckUnits.lean ====
section
/-! DEFINITION. The check units CRC0 to CRC3 (R386). -/

namespace Sys2Proof.Machine

/-- The page of a check unit. -/
def pgCrc (n : Nat) : Nat := 0x1C + n

/-- A check unit. -/
def crcOf (s : State) (n : Nat) : CrcUnit := vGet s.crc n {}

/-- Change a check unit. -/
def updCrc (n : Nat) (f : CrcUnit → CrcUnit) (s : State) : State := { s with crc := vUpd s.crc n f }

/-- A computation begins: RESULT is no longer valid. -/
def crcStart (n : Nat) (s : State) : State := updCrc n (fun u => { u with busy := true, done := false, isMatch := false, err := 0 }) s

/-- A host write to a register of a check unit (Table FCR-10): units 0 and 1 belong to the firmware, and a unit that is BUSY takes no new ADDR, LENGTH, EXPECT or START. -/
def crcRegWrite (iface : Iface) (n off : Nat) (v : Word32) (s : State) : State :=
  let u := crcOf s n
  let refuse := fun (k : Nat) => errStat iface (pgCrc n) off k s
  if n < 2 then refuse 3
  else
    match off with
    | 0x008 =>
      let s' := updCrc n (fun u => { u with cmpEn := bitOf v 1 }) s
      if !(bitOf v 0) then s' else if u.busy then refuse 2 else crcStart n s'
    | 0x040 => if u.busy || bits v 0 30 % 16 != 0 then refuse 2 else updCrc n (fun u => { u with addr := v.setWidth 30 }) s
    | 0x044 => if u.busy || bits v 0 30 % 16 != 0 || bits v 0 30 == 0 then refuse 2 else updCrc n (fun u => { u with length := v.setWidth 30 }) s
    | 0x048 => if u.busy then refuse 2 else updCrc n (fun u => { u with expect := v }) s
    | _ => s

/-- What a computation has come to: the bytes read so far, and its ERR code. -/
structure CrcRun where
  crc : Word32 := 0xFFFFFFFF
  err : Nat := 0
  deriving DecidableEq, Repr

/-- Read `k` words for a computation (R386, Table STO-9): it stops at the first unmapped, uncorrectable or parked word. Each word passes the unit's input read port, where an injection acts. -/
def crcWords (n : Nat) (fs : List (Nat × WordCheck)) : Nat → Nat → CrcRun → State → CrcRun × State
  | 0, _, c, s => (c, s)
  | k + 1, a, c, s =>
    if s.sto.parked then ({ c with err := 3 }, s)
    else if (partOf s.sto (a / 65536)).isNone then ({ c with err := 1 }, s)
    else
      let r := readWordPhys (physAddr s.sto a) (wordAtFault fs a) s
      let q := readRetry (pgCrc n) 0 .good r.2
      if q.1.check = .uncorrectable then ({ c with err := 2 }, q.2)
      else match r.1 with
        | .data l => crcWords n fs k (a + 16) { c with crc := (maskReserved s a l).foldl crcByte c.crc } q.2
        | .uncorrectable => ({ c with err := 2 }, q.2)
        | .isolated => ({ c with err := 2 }, q.2)

/-- CRC_DONE (R386): the computation of unit `n` ends; `fs` is what the array gives for disturbed words. -/
def execCrcDone (n : Nat) (fs : List (Nat × WordCheck)) (s : State) : Res :=
  let u := crcOf s n
  if n < 4 ∧ u.busy then
    let r := crcWords n fs (u.length.toNat / 16) u.addr.toNat {} s
    if r.1.err ≠ 0 then .next (evt (pgCrc n) 0 (updCrc n (fun u => { u with busy := false, err := BitVec.ofNat 2 r.1.err }) r.2))
    else
      let c := r.1.crc ^^^ 0xFFFFFFFF
      let bad := u.cmpEn && c != u.expect
      let s := updCrc n (fun u => { u with busy := false, done := true, result := c, isMatch := c == u.expect }) r.2
      let s := evt (pgCrc n) 0 s
      .next (evtIf bad (pgCrc n) 1 (reportIf bad (0x050 + n) (pgCrc n) s))
  else .next s

/-- The firmware starts a unit on a copy it has verified, comparing with the value noted then. -/
def crcCheck (n k a : Nat) (s : State) : State :=
  match smGet s.crcRef k with
  | none => s
  | some (len, c) =>
    if (crcOf s n).busy then s
    else crcStart n (updCrc n (fun u => { u with cmpEn := true, addr := BitVec.ofNat 30 a, length := BitVec.ofNat 30 len, expect := c }) s)

/-- CRC_PERIODIC_CHECK (R386): unit 0 checks the active table copy, unit 1 the active partition table copy. The firmware does not run while the Double-header is frozen, halted or stopped (R162). -/
def execCrcPeriodicCheck (s : State) : Res :=
  if s.dhd.frozen || s.dhd.halted || s.dhd.stopped then .next s
  else
    let s := match s.ilkl.active with | some c => crcCheck 0 c (cfgAddr (4 * c)) s | none => s
    .next (if s.sto.ptDefault || !s.sto.mapOk then s else crcCheck 1 (2 + s.sto.ptCopy) (cfgAddr (8 + s.sto.ptCopy)) s)

end Sys2Proof.Machine
end

