-- ==== Sys2Proof/Machine/Pcie.lean ====
section
/-! DEFINITION. The PCIe endpoint: submission and completion queues, messages, BAR2, resets and link, and the mailbox of the management SPI that shares its commands (R318 to R335). -/

namespace Sys2Proof.Machine

/-- A submission queue. -/
def sqOf (s : State) (q : Nat) : Sq := vGet s.pcie.sqs q {}

/-- Change a submission queue. -/
def updSq (q : Nat) (f : Sq → Sq) (s : State) : State := { s with pcie := { s.pcie with sqs := vUpd s.pcie.sqs q f } }

/-- Entries of an SQ. -/
def sqSize (x : Sq) : Nat := 2 ^ x.sqLog.toNat

/-- Entries of a CQ. -/
def cqSize (x : Sq) : Nat := 2 ^ x.cqLog.toNat

/-- Commands in flight of queue q. -/
def inflightOf (s : State) (q : Nat) : Nat :=
  (s.pcie.cmds.filter fun c => match c.id.src with | .sq r => r.val == q | .mbx => false).length

/-- Commands in flight over all queues. -/
def inflight (s : State) : Nat := (s.pcie.cmds.filter fun c => match c.id.src with | .sq _ => true | .mbx => false).length

/-! ## Queue states (R330, Table HIF-9) -/

/-- A queue enters ERROR. -/
def queueError (q code : Nat) (s : State) : State := evt pgPcie 0 (updSq q (fun x => { x with st := .error, err := BitVec.ofNat 4 code }) s)

/-- A queue starts: its pointers are 0 and PHASE is 1. -/
def queueStart (q : Nat) (s : State) : State :=
  updSq q (fun x => { x with st := .running, head := 0, tail := 0, cqHead := 0, cqTail := 0, used := 0, phase := true, err := 0, unsent := 0 }) s

/-- A write of Q_CFG.EN (Table HIF-9): 1 starts a DISABLED queue, 0 drains a RUNNING one or one in ERROR; in DRAINING the value written last takes effect afterwards. -/
def queueEn (q : Nat) (en : Bool) (s : State) : State :=
  let s := updSq q (fun x => { x with en := en }) s
  match (sqOf s q).st with
  | .disabled => if en then queueStart q s else s
  | .running => if en then s else updSq q (fun x => { x with st := .draining }) s
  | .error => if en then s else updSq q (fun x => { x with st := .draining }) s
  | .draining => s

/-- QUEUE_DRAINED (Table HIF-9): no command of a DRAINING queue is in flight. -/
def execQueueDrained (q : Fin 4) (s : State) : Res :=
  if (sqOf s q.val).st = .draining ∧ inflightOf s q.val = 0 then
    let s := updSq q.val (fun x => { x with st := .disabled }) s
    .next (if (sqOf s q.val).en then queueStart q.val s else s)
  else .next s

/-- A write of SQ_TAIL: out of range in a RUNNING queue it puts the queue in ERROR. -/
def sqTailWrite (q : Nat) (v : BitVec 12) (s : State) : State :=
  let x := sqOf s q
  if x.st = .running ∧ v.toNat ≥ sqSize x then queueError q 1 s else updSq q (fun x => { x with tail := v }) s

/-- A write of CQ_HEAD: out of range, or beyond CQ_TAIL, in a RUNNING queue it puts the queue in ERROR. -/
def cqHeadWrite (q : Nat) (v : BitVec 12) (s : State) : State :=
  let x := sqOf s q
  let k := (v.toNat + cqSize x - x.cqHead.toNat) % cqSize x
  if x.st = .running ∧ (v.toNat ≥ cqSize x ∨ k > x.used) then queueError q 1 s
  else updSq q (fun x => { x with cqHead := v, used := x.used - k }) s

/-- A queue block register: `r` is the offset in the block (Table HIF-12). -/
def queueRegWrite (iface : Iface) (q r off : Nat) (v : Word32) (s : State) : State :=
  let x := sqOf s q
  let refuse := fun (k : Nat) => errStat iface pgPcie off k s
  let half := fun (old : Word64) (hi : Bool) => if hi then (old &&& 0xFFFFFFFF) ||| (v.setWidth 64 <<< 32) else (old &&& 0xFFFFFFFF00000000) ||| v.setWidth 64
  match r with
  | 0x00 => if x.st ≠ .disabled then refuse 1 else if bits v 0 12 ≠ 0 then refuse 2 else updSq q (fun x => { x with sqBase := half x.sqBase false }) s
  | 0x04 => if x.st ≠ .disabled then refuse 1 else updSq q (fun x => { x with sqBase := half x.sqBase true }) s
  | 0x08 => if x.st ≠ .disabled then refuse 1 else if bits v 0 12 ≠ 0 then refuse 2 else updSq q (fun x => { x with cqBase := half x.cqBase false }) s
  | 0x0C => if x.st ≠ .disabled then refuse 1 else updSq q (fun x => { x with cqBase := half x.cqBase true }) s
  | 0x10 =>
    let cl := bits v 8 4
    let sl := bits v 0 4
    let legal := fun (n : Nat) => decide (1 ≤ n) && decide (n ≤ 12)
    if !(legal cl && legal sl) then refuse 2
    else if x.st ≠ .disabled ∧ (cl ≠ x.cqLog.toNat ∨ sl ≠ x.sqLog.toNat) then refuse 1
    else queueEn q (bitOf v 31) (updSq q (fun x => { x with
      ien := bitOf v 30, vec := BitVec.ofNat 5 (bits v 25 5), qmax := BitVec.ofNat 8 (bits v 17 8), cqLog := BitVec.ofNat 4 cl, sqLog := BitVec.ofNat 4 sl }) s)
  | 0x14 => sqTailWrite q (BitVec.ofNat 12 (bits v 0 12)) s
  | 0x18 => cqHeadWrite q (BitVec.ofNat 12 (bits v 0 12)) s
  | 0x20 => updSq q (fun x => { x with coalTime := BitVec.ofNat 8 (bits v 8 8), coalCount := BitVec.ofNat 8 (bits v 0 8) }) s
  | _ => s

/-- Q_CFG as it reads (Table HIF-12). -/
def qCfg (x : Sq) : Word32 :=
  flag 31 x.en ||| flag 30 x.ien ||| fld 25 5 x.vec.toNat ||| fld 17 8 x.qmax.toNat ||| fld 8 4 x.cqLog.toNat ||| fld 0 4 x.sqLog.toNat

/-! ## Descriptors (R324 to R328) -/

/-- The opcodes of Table HIF-6. -/
def opcodeKnown (op : Nat) : Bool := op == 1 || op == 2 || op == 3 || op == 4 || op == 0x10 || op == 0x11 || op == 0x12 || op == 0x20

/-- A command that moves data. -/
def movesData (d : Desc) : Bool :=
  let op := d.opcode.toNat
  op == 1 || op == 2 || op == 3 || (op == 0x10 && d.length != 0) || op == 0x11 || op == 0x20

/-- An SGL is well formed and long enough (R327). -/
def sglOk (d : Desc) : Bool :=
  decide (1 ≤ d.sgl.length) && decide (d.sgl.length ≤ 256) &&
  d.sgl.all (fun e => e.1.toNat % 16 == 0 && e.2.toNat % 16 == 0 && decide (16 ≤ e.2.toNat)) &&
  decide (d.length.toNat ≤ (d.sgl.map fun e => e.2.toNat).sum)

/-- Checks 1 to 3 of R328: the result of the first that fails. -/
def descCheck (d : Desc) : Option Nat :=
  let op := d.opcode.toNat
  let sgl := d.flags.getLsbD 1
  if !(opcodeKnown op) then some 0x01
  else if !d.reservedZero || decide (d.flags.toNat ≥ 4) || (d.flags.getLsbD 0 && op != 0x10) ||
      (d.addr != 0 && !(op == 1 || op == 2 || op == 3 || op == 0x11)) ||
      (d.length != 0 && (op == 4 || op == 0x12)) ||
      (d.source != 0 && op != 0x10) || (d.cls != 0 && op != 0x10) ||
      (d.oparg.any (· != 0) && op != 0x20) ||
      (d.hostAddr != 0 && (op == 4 || op == 0x12)) ||
      (sgl && movesData d && !(sglOk d)) then some 0x02
  else if movesData d && d.hostAddr.toNat % 16 != 0 then some 0x03
  else none

/-- A descriptor may be fetched from queue q (R324): it runs, it holds one, and the limits allow it. -/
def mayFetch (s : State) (q : Nat) : Bool :=
  let x := sqOf s q
  x.st == .running && x.head != x.tail && decide (inflight s < 256) && decide (inflightOf s q < x.qmax.toNat + 1) &&
  decide (inflightOf s q < cqSize x - x.used)

/-- The queue whose turn it is, round-robin (R324). -/
def nextQueue (s : State) : Option Nat := (List.range 4).find? (fun k => mayFetch s ((s.pcie.rr + k) % 4)) |>.map fun k => (s.pcie.rr + k) % 4

/-- DESCRIPTOR_FETCH (R324, R328): the next descriptor is `d`; `dma` says that host memory gave it, `w` what the words of the inbound command buffer give. -/
def execDescriptorFetch (d : Desc) (dma : Bool) (w : WordCheck) (s : State) : Res :=
  if !(pcieMoves s) then .next s else
  match nextQueue s with
  | none => .next s
  | some q =>
    let s := { s with pcie := { s.pcie with rr := (q + 1) % 4 } }
    if !dma then .next (queueError q 2 s)
    else
      let r := readRetry pgPcie 0 w (qPass 0 4 s)
      let s := reportRead 0x0A3 0x0A4 pgPcie 0 r.1 r.2
      let s := updSq q (fun x => { x with head := BitVec.ofNat 12 ((x.head.toNat + 1) % sqSize x) }) s
      let code := if r.1.check = .uncorrectable then some 0x02 else descCheck d
      let c : Cmd := { id := { src := .sq (Fin.ofNat 4 q), cid := d.cid }, desc := d,
                       stage := match code with | some k => .decided { result := BitVec.ofNat 8 k } | none => .fetched }
      .next { s with pcie := { s.pcie with cmds := s.pcie.cmds ++ [c] } }

/-! ## Completions and messages (R329, R331) -/

/-- Place data in a command's buffer: contiguous, or through its SGL in list order (R327). -/
def scatter (l : List Byte) : List (Word64 × Word32) → List HostOut
  | [] => []
  | e :: t => if l.isEmpty then [] else .write e.1.toNat (l.take e.2.toNat) :: scatter (l.drop e.2.toNat) t

/-- The writes that carry a command's data to host memory. -/
def dataWrites (d : Desc) (l : List Byte) : List HostOut :=
  if l.isEmpty then [] else if d.flags.getLsbD 1 then scatter l d.sgl else [.write d.hostAddr.toNat l]

/-- A completion entry (Table HIF-7). -/
def cplBytes (cid : BitVec 16) (info : Nat) (c : Cpl) : List Byte :=
  leBytes 2 cid.toNat ++ leBytes 1 info ++ [c.result] ++ leBytes 4 c.count ++ leBytes 8 c.value

/-- A message for a queue's entries (R331). -/
def queueMessage (q : Nat) (s : State) : State :=
  let v := (sqOf s q).vec.toNat
  sendVector v (updSq q (fun x => { x with unsent := 0 }) s)

/-- Remove the oldest command with an identifier. -/
def dropCmd (id : CmdId) : List Cmd → List Cmd
  | [] => []
  | c :: t => if c.id == id then t else c :: dropCmd id t

/-- Post a completion of queue q: the data, then the entry, then any message (R329, R331). -/
def postQueue (q : Nat) (d : Desc) (cid : BitVec 16) (c : Cpl) (s : State) : State :=
  let x := sqOf s q
  let entry := cplBytes cid (q + (if x.phase then 128 else 0)) c
  let s := { s with pcie := { s.pcie with out := s.pcie.out ++ dataWrites d c.data ++ [.write (x.cqBase.toNat + 16 * x.cqTail.toNat) entry] } }
  let last := x.cqTail.toNat + 1 == cqSize x
  let s := updSq q (fun x => { x with cqTail := if last then 0 else x.cqTail + 1, phase := if last then !x.phase else x.phase, used := x.used + 1, unsent := x.unsent + 1 }) s
  let y := sqOf s q
  if y.st = .running ∧ y.ien ∧ y.unsent > y.coalCount.toNat then queueMessage q s else s

/-- Post a mailbox completion (R335): the data in MBX_DATA, the entry in MBX_CPL with PHASE 0. -/
def postMbx (d : Desc) (cid : BitVec 16) (c : Cpl) (s : State) : State :=
  let e := cplBytes cid 0 c
  let s := mbxWrite d.hostAddr.toNat c.data s
  evt pgMgt 2 { s with mgt := { s.mgt with mbxBusy := false, mbxCpl := #v[wordAt e 0, wordAt e 4, wordAt e 8, wordAt e 12] } }

/-- COMMAND_COMPLETION (R329): the completion of a command that has ended is posted; an abandoned one is discarded and counted, by PCIE and by queue 1 (R322, R46). While no data may move it waits. -/
def execCommandCompletion (id : CmdId) (s : State) : Res :=
  match cmdOf s id with
  | none => .next s
  | some c =>
    match c.stage with
    | .fetched => .next s
    | .waiting => .next s
    | .decided k =>
      let done := { s with pcie := { s.pcie with cmds := dropCmd id s.pcie.cmds } }
      match id.src with
      | .mbx => .next (postMbx c.desc id.cid k done)
      | .sq q =>
        if c.orphan then .next (queueDiscard 1 1 { done with pcie := { done.pcie with discardCpl := satAdd 32 done.pcie.discardCpl 1 } })
        else if pcieMoves s then .next (qPass 1 1 (postQueue q.val c.desc id.cid k done))
        else .next s

/-- CQ_COAL_TIMEOUT (R331): the oldest entry posted since the last message has waited Q_COAL.TIME µs. -/
def execCqCoalTimeout (q : Fin 4) (s : State) : Res :=
  let x := sqOf s q.val
  if x.st = .running ∧ x.ien ∧ x.coalTime ≠ 0 ∧ 0 < x.unsent then .next (queueMessage q.val s) else .next s

/-- A write of EVT_ACK (R332). -/
def evtAck (v : Word32) (s : State) : State :=
  if bitOf v 0 && summary s && s.pcie.evtIen then sendVector s.pcie.evtVec.toNat s else s

/-! ## The mailbox (R335) -/

/-- The mailbox's descriptor (Table HIF-5), with SGL 0. -/
def mbxDescOf (s : State) : Desc :=
  let l := (s.mgt.mbxDesc.toList.map fun w => leBytes 4 w.toNat).flatten
  { opcode := BitVec.ofNat 8 (leAt l 0 1), flags := BitVec.ofNat 8 (leAt l 1 1), cid := BitVec.ofNat 16 (leAt l 2 2), addr := BitVec.ofNat 64 (leAt l 8 8),
    hostAddr := BitVec.ofNat 64 (leAt l 16 8), length := wordAt l 24, source := BitVec.ofNat 16 (leAt l 28 2), cls := BitVec.ofNat 8 (leAt l 30 1),
    oparg := slice l 32 32, reservedZero := decide (leAt l 4 4 = 0) && decide (leAt l 31 1 = 0) }

/-- MBX_GO: the command held in MBX_DESC starts, after checks 1 to 3 of R328, SGL 0 and MBX_RANGE. -/
def mbxGo (iface : Iface) (v : Word32) (s : State) : State :=
  if !(bitOf v 0) then s
  else if s.mgt.mbxBusy then errStat iface pgMgt 0x0C0 2 s
  else
    let d := mbxDescOf s
    let code := match descCheck d with
      | some 0x01 => some 0x01
      | r => if d.flags.getLsbD 1 then some 0x02
             else match r with
             | some k => some k
             | none => if movesData d && decide (d.hostAddr.toNat + d.length.toNat > 2048) then some 0x0D else none
    let c : Cmd := { id := { src := .mbx, cid := d.cid }, desc := d, stage := match code with | some k => .decided { result := BitVec.ofNat 8 k } | none => .fetched }
    { s with mgt := { s.mgt with mbxBusy := true }, pcie := { s.pcie with cmds := s.pcie.cmds ++ [c] } }

/-! ## BAR2 (R320) -/

/-- BAR2_READ: `n` bytes from offset `a`; `fs` is what the array gives for disturbed words. From PARK_REQUEST on the store is closed to it (R269). A poisoned completion carries bytes the spec does not give (log 2), and so does one that meets a parked or fenced store. -/
def execBar2Read (a n : Nat) (fs : List (Nat × WordCheck)) (s : State) : Res :=
  if !(portOpen .pcie s) then .next (closedAccess .pcie s) else
  let poisoned := fun (t : State) => hostEmit (.readData ((List.range n).map (Config.freeByte t.free)) true) { t with free := t.free + 1 }
  let s := issue .hostAccess pgPcie pgSto ((a + n + 15) / 16 - a / 16) (qPass 1 n (qPass 0 1 s))
  if s.sto.parked || s.sto.parking || s.ast.storeBad || pageFenced s pgSto then .next (poisoned s)
  else if (partOf s.sto (a / 65536)).isNone then
    let s := { s with pcie := { s.pcie with bar2Unbacked := satAdd 32 s.pcie.bar2Unbacked 1 } }
    .next (hostEmit (.readData (List.replicate n 0xFF) false) (evt pgPcie 2 s))
  else
    let b := a / 16 * 16
    let r := readWords fs ((a + n + 15) / 16 - a / 16) b s
    if r.1.bad.isSome then .next (poisoned r.2)
    else .next (hostEmit (.readData (((maskReserved s b r.1.bytes).drop (a - b)).take n) false) r.2)

/-- BAR2_WRITE: discarded, and reported as an Unsupported Request. -/
def execBar2Write (_a : Nat) (_data : List Byte) (s : State) : Res :=
  if !(portOpen .pcie s) then .next (closedAccess .pcie s) else .next (hostEmit .unsupported s)

/-! ## Link and resets (R322) -/

/-- PCIE_RESET: a link that was up and goes down raises PCIE_LINK_DOWN. All but a fundamental reset need a link that is up. -/
def execPcieReset (k : PcieReset) (s : State) : Res :=
  if k != .fundamental && !s.pcie.linkUp then .next s else
  let flr := k == .flr
  .next (reportIf (s.pcie.linkUp && !flr) 0x0A2 pgPcie (pcieReset flr s))

/-- PCIE_LINK_UP: the link has trained with `width` lanes (1 or 2) at generation `speed`. DEDUCED (log 132): the PHY PLL is then locked and CLK_PCIE within its limits. -/
def execPcieLinkUp (width : BitVec 2) (speed : BitVec 3) (s : State) : Res :=
  .next { s with pcie := { s.pcie with linkUp := true, width := width, speed := speed },
                 clkg := { s.clkg with pll := setBit s.clkg.pll 3 true, monOk := setBit s.clkg.monOk 3 true } }

/-- PCIE_CONFIG_WRITE: Bus Master Enable, MSI-X Enable and Function Mask, and the power state; messages that no longer wait are sent. Before the end of P2 the request completes with Configuration Request Retry Status (Table RST-7). -/
def execPcieConfigWrite (bme msixEn msixMask d3 : Bool) (s : State) : Res :=
  if !s.pcie.linkUp || s.pwr.off || decide (s.sys.phase < 3) then .next s else
  .next (sendPending { s with pcie := { s.pcie with bme := bme, msixEn := msixEn, msixMask := msixMask, d3 := d3 } })

/-- CTRL.CNT_CLR (Table HIF-12). -/
def pcieCntClr (s : State) : State := { s with pcie := { s.pcie with bar2Unbacked := 0, discardCpl := 0 } }

/-- A write to the MSI-X table: word `w` of entry `v`; a vector that is no longer masked sends its pending message. -/
def msixWrite (v w : Nat) (x : Word32) (s : State) : State :=
  let f := fun (e : Msix) =>
    match w with
    | 0 => { e with addr := x &&& 0xFFFFFFFC }
    | 1 => { e with upper := x }
    | 2 => { e with data := x }
    | _ => { e with ctrl := x &&& 1 }
  sendPending { s with pcie := { s.pcie with msix := vUpd s.pcie.msix v f } }

/-- A host write to a register of page PCIE (Table HIF-12). -/
def pcieRegWrite (iface : Iface) (off : Nat) (v : Word32) (s : State) : State :=
  if 0x800 ≤ off ∧ off < 0xA00 then msixWrite ((off - 0x800) / 16) (off % 16 / 4) v s
  else if 0x100 ≤ off ∧ off < 0x200 then queueRegWrite iface ((off - 0x100) / 0x40) ((off - 0x100) % 0x40) off v s
  else
    match off with
    | 0x008 => if bitOf v 0 then pcieCntClr s else s
    | 0x048 => { s with pcie := { s.pcie with evtIen := bitOf v 8, evtVec := BitVec.ofNat 5 (bits v 0 5) } }
    | 0x04C => evtAck v s
    | _ => s

end Sys2Proof.Machine
end

