-- ==== Sys2Proof/Machine/Power.lean ====
section
/-! DEFINITION. Supplies, feeds, hold-up charging and the power-fail sequence (R470 to R492). -/

namespace Sys2Proof.Machine

/-- Change PWR. -/
def updPwr (f : Pwr → Pwr) (s : State) : State := { s with pwr := f s.pwr }

/-! ## Feeds (R478 to R482, Table PWR-6) -/

/-- The state of a feed: FEED_B where `b` is true. -/
def feedSt (s : State) (b : Bool) : FeedSt := if b then s.pwr.feedB else s.pwr.feedA

/-- Set the state of a feed. -/
def setFeed (b : Bool) (f : FeedSt) (s : State) : State := updPwr (fun p => if b then { p with feedB := f } else { p with feedA := f }) s

/-- Set the measured voltage of a feed, in 10 mV units. -/
def setFeedV (b : Bool) (v : BitVec 12) (s : State) : State := updPwr (fun p => if b then { p with voltB := v.toNat } else { p with voltA := v.toNat }) s

/-- A feed is trusted (R481). -/
def feedTrusted (s : State) (b : Bool) : Bool := if b then !s.pwr.untrustedB else !s.pwr.untrustedA

/-- A measurement holds the charger (R298, CHG_STAT.MEAS_STOP). -/
def measStop (s : State) : Bool :=
  match s.jrn.meas with
  | .sinking _ => true | .timing _ => true | .idle => false | .due => false

/-- The charger follows the feeds: it starts with an ACTIVE feed and stops without one (R484). -/
def chargeFollow (s : State) : State :=
  if !(carried s) || s.pwr.pfRun then chargerOff s else if measStop s then s else chargerOn s

/-- FEED_WINDOW_ENTER: a FAILED feed comes inside its qualification window. -/
def execFeedWindowEnter (b : Bool) (v : BitVec 12) (s : State) : Res :=
  let s := setFeedV b v s
  if feedSt s b = .failed then .next (setFeed b .qualifying s) else .next s

/-- FEED_WINDOW_LEAVE. -/
def execFeedWindowLeave (b : Bool) (v : BitVec 12) (s : State) : Res :=
  let s := setFeedV b v s
  if feedSt s b = .qualifying then .next (setFeed b .failed s) else .next s

/-- PARKED with every rail on its external regulator ends in a chip reset when a feed has qualified (R490). -/
def feedReturns (s : State) : State := if s.sys.mode = .parked ∧ s.pwr.bridge = 0 ∧ !s.pwr.off then chipReset .feedReturn s else s

/-- FEED_QUALIFIED (Table PWR-6). -/
def execFeedQualified (b : Bool) (s : State) : Res :=
  if feedSt s b ≠ .qualifying then .next s
  else if !(carried s) && feedTrusted s b then
    .next (feedReturns (chargeFollow (evt pgPwr 1 (setFeed b .active s))))
  else .next (feedReturns (report0 0x012 pgPwr (evt pgPwr 1 (setFeed b .standby s))))

/-- One feed fails (Table PWR-6); `gap` is that of a switch-over in CLK_TB cycles. While the power-fail sequence runs there is no switch-over (R480). -/
def feedFails (b : Bool) (gap : Nat) (s : State) : State :=
  match feedSt s b with
  | .failed => s
  | .qualifying => setFeed b .failed s
  | .standby => evt pgPwr 2 (setFeed b .failed s)
  | .active =>
    let s := setFeed b .failed s
    if feedSt s (!b) = .standby ∧ feedTrusted s (!b) ∧ !s.pwr.pfRun then
      let t := now s
      let s := updPwr (fun p => { p with switches := satAdd 32 p.switches 1, switchTime := t, switchGap := min gap 64 }) (setFeed (!b) .active s)
      report0 0x011 pgPwr (evt pgPwr 0 s)
    else pfStart 1 (chargerOff s)

/-- FEED_FAIL: one feed fails, or both in the same cycle, which leaves the active feed without a STANDBY feed (R480); a STANDBY feed that fails raises STBY_FAIL (Table PWR-6). -/
def execFeedFail (a b : Bool) (gap : Nat) (va vb : BitVec 12) (s : State) : Res :=
  let s := if a then setFeedV false va s else s
  let s := if b then setFeedV true vb s else s
  if a && b then
    let act := carried s
    let spare := feedSt s false == .standby || feedSt s true == .standby
    let s := evtIf spare pgPwr 2 (setFeed true .failed (setFeed false .failed s))
    .next (if act then pfStart 1 (chargerOff s) else s)
  else if a then .next (feedFails false gap s)
  else if b then .next (feedFails true gap s)
  else .next s

/-- The active and standby feeds are exchanged (R482). -/
def feedSwap (s : State) : State :=
  let s := updPwr (fun p => { p with feedA := p.feedB, feedB := p.feedA, switches := satAdd 32 p.switches 1 }) s
  evt pgPwr 0 s

/-- The feed that is not ACTIVE is STANDBY and trusted. -/
def swapReady (s : State) : Bool :=
  (s.pwr.feedA == .active && s.pwr.feedB == .standby && feedTrusted s true) || (s.pwr.feedB == .active && s.pwr.feedA == .standby && feedTrusted s false)

/-- Assay marks a feed untrusted (R481): if it is ACTIVE, the module switches to the other feed where that is STANDBY. -/
def feedUntrust (b : Bool) (s : State) : State :=
  let s := evt pgPwr 3 (updPwr (fun p => if b then { p with untrustedB := true } else { p with untrustedA := true }) s)
  if feedSt s b = .active ∧ swapReady s then feedSwap s else s

/-- A PWR command ends with a result (R492). -/
def pwrEnd (code : Nat) (s : State) : State := evt pgPwr (if code = 0 then 8 else 9) (updPwr (fun p => { p with result := code }) s)

/-- A write of PWR.CMD inside a key sequence (R482, R491, R492). -/
def pwrCmd (v : Word32) (s : State) : State :=
  let op := bits v 28 4
  let s := updPwr (fun p => { p with cmd := BitVec.ofNat 4 op }) s
  if s.pwr.pfRun then pwrEnd 5 s
  else if op = 1 then (if swapReady s then pwrEnd 0 (feedSwap s) else pwrEnd 1 s)
  else if op = 2 then
    (match s.sys.mode with
     | .safe => pfStart 6 (pwrEnd 0 s) | .service => pfStart 6 (pwrEnd 0 s) | .split => pfStart 6 (pwrEnd 0 s) | .incomplete => pfStart 6 (pwrEnd 0 s)
     | .starting => pwrEnd 2 s | .run => pwrEnd 2 s | .parked => pwrEnd 2 s)
  else pwrEnd 4 s

/-- CTRL.CNT_CLR (Table PWR-12). -/
def pwrCntClr (s : State) : State := updPwr (fun p => { p with switches := 0 }) s

/-! ## Rails and charging -/

/-- A rail of Table PWR-4, by number: VCORE, VIO, VANA. -/
def setRail (r : Nat) (mv : Nat) (s : State) : State :=
  updPwr (fun p => { p with rails := match r with | 0 => { p.rails with vcore := mv } | 1 => { p.rails with vio := mv } | _ => { p.rails with vana := mv } }) s

/-- BROWNOUT (R474): an external rail has stayed below its brown-out threshold for the detection time. -/
def execBrownout (r : Fin 3) (s : State) : Res := .next (pfStart (2 + r.val) s)

/-- RAIL_RANGE (R474): the internal node of a rail is at `mv`, and leaves its monitored range where `out` says so. -/
def execRailRange (r : Fin 3) (mv : BitVec 12) (out : Bool) (s : State) : Res :=
  let s := setRail r.val mv.toNat s
  .next (if out then report0 (0x014 + r.val) pgPwr (evt pgPwr 6 s) else s)

/-- BRIDGE_TAKEOVER (R471): the bridge converter carries a rail, and its node stands at `mv`. -/
def execBridgeTakeover (r : Fin 3) (mv : BitVec 12) (s : State) : Res :=
  .next (evt pgPwr 5 (updPwr (fun p => { p with bridge := setBit p.bridge r.val true }) (setRail r.val mv.toNat s)))

/-- CHARGE_DONE (R484): HOLD has reached its target. -/
def execChargeDone (s : State) : Res := if s.pwr.charging then .next (evt pgPwr 7 (chargerOff s)) else .next s

/-- CHARGE_RESUME (R484): HOLD has fallen below the threshold at which charging resumes. -/
def execChargeResume (s : State) : Res := if measStop s then .next s else .next (chargerOn s)

/-! ## The power-fail sequence (R487 to R491, Table PWR-11) -/

/-- POWER_FAIL_START: causes 0x01 to 0x04 of Table PWR-10 arise in one cycle; the lowest is FIRST (R487). Causes FAULT_RESET and HOST_SHUTDOWN arise from the collector's reaction and from PWR.CMD. -/
def execPowerFailStart (causes : BitVec 4) (s : State) : Res :=
  .next ((List.range 4).foldl (fun u i => if causes.getLsbD i then pfStart (i + 1) u else u) s)

/-- The sequence ends in PARKED: a cause other than FAULT_RESET has arisen (R488, R489). -/
def endsParked (s : State) : Bool := s.pwr.pfSet &&& 0x2F != 0

/-- Sealing has ended, or was skipped because the engine recovers (R305, R489). -/
def sealingOver (s : State) : Bool := s.jrn.st == .sealed || s.jrn.st == .recovering

/-- ENTER_PARKED (Table PWR-11, step 8): the mode becomes PARKED, with no record (R488); scanning stops and the identity secrets are erased (R446). A RESET_N that fell meanwhile acts now (R508). -/
def execEnterParked (s : State) : Res :=
  if s.pwr.pfRun && endsParked s && sealingOver s && s.sto.parked && s.sys.mode != .parked then
    let s := scanHalt (tearCopy { s with sys := { s.sys with mode := .parked }, hmk := { s.hmk with idSk := [] } })
    .next (if s.rst.pinAfterPark then chipReset .pin s else s)
  else .next s

/-- The rails are down and the power-on reset is asserted; an INSTALL or SYNC that runs is cut (R105). -/
def railsDown (s : State) : State := updPwr (fun p => { p with off := true, rails := { vcore := 0, vio := 0, vana := 0 }, bridge := 0, charging := false }) (tearCopy s)

/-- RAIL_SHUTDOWN (Table PWR-11, steps 9 and 10): after PARKED, if the bridge converter carries a rail. -/
def execRailShutdown (s : State) : Res := if s.sys.mode = .parked ∧ s.pwr.bridge ≠ 0 then .next (railsDown s) else .next s

/-- BRIDGE_LOCKOUT (R489): HOLD falls through the lock-out before step 10 has ended; the rails collapse at once. -/
def execBridgeLockout (s : State) : Res := if s.pwr.pfRun ∧ s.pwr.bridge ≠ 0 then .next (railsDown s) else .next s

/-- POWER_ON_RESET_RELEASE (R473): after the rails were down, they have been in their monitored ranges for 2 ms; a violated power-up order is recorded. -/
def execPowerOnResetRelease (vcoreEarly vioLate : Bool) (s : State) : Res :=
  if s.pwr.off then .next (updPwr (fun p => { p with rails := {}, bridge := 0, vcoreEarly := vcoreEarly, vioLate := vioLate }) (chipReset .powerOn s)) else .next s

end Sys2Proof.Machine
end

