-- ==== Sys2Proof/Machine/Assay.lean ====
section
/-! DEFINITION. Assay: the start-up and periodic sets, pin tests, store segments and the outcomes of failures (R388 to R405). -/

namespace Sys2Proof.Machine

/-- Change the Assay controller. -/
def updAst (f : Ast → Ast) (s : State) : State := { s with ast := f s.ast }

/-- AST.STATUS.LIMITS_OK (R389): VCORE within 0.76 V to 0.84 V, CLK_SYS and CLK_TB present. -/
def limitsOk (s : State) : Bool :=
  decide (760 ≤ s.pwr.rails.vcore) && decide (s.pwr.rails.vcore ≤ 840) && s.clkg.monOk.getLsbD 0 && s.clkg.monOk.getLsbD 1

/-! ## Outcomes (R395 to R397, Table AST-2) -/

/-- FAIL_INFO.ITEM (Table AST-5). -/
def itemNo : AssayItem → Nat
  | .port p => p | .logicRef => 0 | .rail => 0 | .hold => 0 | .feed b => if b then 1 else 0
  | .tile p => p | .pin i => i | .bank b => b | .cell _ w => w | .whole => 0

/-- A part of group A (Table AST-2). -/
def groupA (test : Nat) (x : AssayItem) : Bool :=
  test == 3 || test == 4 || test == 5 || test == 6 ||
  (match x with
   | .port p => test == 1 && logicPage p
   | .logicRef => test == 11 || test == 12
   | .rail => test == 11 || test == 12
   | .whole => test == 1 || test == 11 || test == 12
   | .hold => false | .feed _ => false | .tile _ => false | .pin _ => false | .bank _ => false | .cell _ _ => false)

/-- A pin is marked unusable until the next chip reset (R396), and PIN_UNUSABLE is raised for it. -/
def markPin (test i : Nat) (s : State) : State :=
  if i < 112 ∧ tilePresent s.variant (pinTile i) then
    report (0x140 + i) (r32 test) i pgAst (evt pgAst 2 (updAst (fun a => { a with unusable := setBit a.unusable i true }) s))
  else s

/-- A tile is marked unusable with every pin of it (group I). -/
def markTile (test p : Nat) (s : State) : State :=
  let s := evt pgAst 2 (updAst (fun a => { a with unusableTiles := setBit a.unusableTiles p true }) s)
  (List.range (if p < 6 then 16 else 8)).foldl (fun u n => markPin test (tilePin p n) u) s

/-- The first failure is kept (FAIL_INFO), FAIL is raised. -/
def noteFail (test : Nat) (x : AssayItem) (s : State) : State :=
  evt pgAst 1 (updAst (fun a => { a with failInfo := match a.failInfo with | some f => some f | none => some (test, itemNo x) }) s)

/-- The boot window enters NO_IMAGE because Assay found its path faulty (R394, group C). -/
def bootBlocked (s : State) : State := report0 0x08F pgBoot { s with boot := { s.boot with st := .noImage, error := true, lock := false } }

/-- The outcome of a failure (Table AST-2); in the periodic set a group A failure also raises ASSAY_SAFETY (R397). -/
def failOutcome (test : Nat) (x : AssayItem) (periodic : Bool) (s : State) : State :=
  let s := noteFail test x s
  let fail := report0 0x054 pgAst
  if groupA test x then
    let s := fail (updAst (fun a => { a with runBlock := true }) s)
    if periodic then report0 0x057 pgAst s else s
  else match x with
    | .port p =>
      if test = 7 then bootBlocked (fail s)
      else fail (fence p true { s with fab := { s.fab with stuck := setBit s.fab.stuck p true } })
    | .hold =>
      let s := { s with pwr := { s.pwr with holdUntrusted := true } }
      recompute (fail (report0 0x08B pgJrn (evt pgJrn 5 (updJrn (fun j => { j with shortRaised := true }) s))))
    | .feed b => fail (feedUntrust b s)
    | .tile p => markTile test p (fail s)
    | .pin i => markPin test i s
    | .bank b => fail (isolateBank b s)
    | .cell pg w =>
      let k := if pg = pgJrn then w / 4096 else 0
      let s := if pg = pgJrn then updAst (fun a => { a with jrnUnits := setBit a.jrnUnits k true }) s else s
      fail (isolateCell pg k false s)
    | .whole =>
      if test = 2 then
        bootBlocked (fail (report0 0x083 pgSto (updAst (fun a => { a with storeBad := true }) s)))
      else if test = 9 then fail (updAst (fun a => { a with bscanBad := true }) s)
      else fail s
    | .logicRef => fail s
    | .rail => fail s

/-- A test is SKIPPED (R389, R395): one of group A counts as failed for RUN_BLOCK. -/
def skipTest (test : Nat) (x : AssayItem) (s : State) : State :=
  let s := updAst (fun a => { a with skips := satAdd 32 a.skips 1, runBlock := a.runBlock || groupA test x }) s
  report0 0x056 pgAst (evt pgAst 3 s)

/-! ## The start-up set (R388 to R394) -/

/-- Coverage of Table AST-1 in 0.1 % units. -/
def coverage (test : Nat) : Nat :=
  match test with
  | 1 => 990 | 2 => 995 | 9 => 980 | 11 => 990 | 15 => 990 | 16 => 980
  | _ => if 1 ≤ test ∧ test ≤ 16 then 1000 else 0

/-- The result of a start-up test: 3 SKIPPED, 2 FAIL, 0 NOT_RUN where no tile's part ran, 4 DEFERRED, 1 PASS. What P0 found in queues 4 to 7 stands under test 7 (R394). -/
def testResult (r : StartSet) (deferred : Bool) (old : Nat) (test : Nat) : Nat :=
  if old = 3 ∨ r.skips.contains test then 3
  else if old = 2 ∨ (r.fails.any fun f => f.1 == test) then 2
  else if test = 16 ∧ deferred then 4
  else if r.notRun.any fun f => f.1 == test then 0
  else 1

/-- The start-up set runs (R388): its results, its failures, and the reset sequence to every tile at its end (R392). Test 16 is deferred while the boot window holds a slot (R393). -/
def startupSet (r : StartSet) (s : State) : State :=
  let deferred := s.boot.lock
  let old := s.ast.results
  let s := updAst (fun a => { a with
    results := Vector.ofFn fun i => { result := testResult r deferred (vGet old i.val {}).result (i.val + 1), us := ((r.us[i.val]?).getD 0) },
    notRun14 := r.notRun.foldl (fun m f => if f.1 = 14 then setBit m f.2 true else m) 0,
    notRun15 := r.notRun.foldl (fun m f => if f.1 = 15 then setBit m f.2 true else m) 0,
    deferred := deferred, deferBanks := if deferred then 0xFFFFFFFF else 0, retry := none, set := 0, test := 0 }) s
  let s := r.skips.foldl (fun u t => if (vGet old (t - 1) {}).result = 3 then u else skipTest t .whole u) s
  let s := r.fails.foldl (fun u f => failOutcome f.1 f.2 false u) s
  let s := (List.range 8).foldl (fun u p => if tilePresent u.variant p then sendResetSeq p u else u) s
  evt pgAst 0 s

/-- The test of queues 4 to 7 that the store controller makes before their first use (R394), reported under test 7; bit k of `bad` is queue 4 + k. A failure in queue 4 or 5 has the outcome of group C, one in queue 6 or 7 that of the boot window. -/
def bootQueueTest (bad : BitVec 4) (s : State) : State :=
  if bad = 0 then s
  else
    let q := if bad.getLsbD 0 then 4 else if bad.getLsbD 1 then 5 else if bad.getLsbD 2 then 6 else 7
    let s := updAst (fun a => { a with results := vUpd a.results 6 (fun r => { r with result := 2 }) }) (noteFail 7 (.port q) s)
    report0 0x054 pgAst
      (bootBlocked (if bad.getLsbD 0 || bad.getLsbD 1 then report0 0x083 pgSto (updAst (fun a => { a with storeBad := true }) s) else s))

/-- ASSAY_RETRY (R389, R503): a test that could not begin is retried after 1 ms; after 20 ms, or when retries have added 150 ms to the set, it is SKIPPED. -/
def execAssayRetry (test : Nat) (s : State) : Res :=
  if s.sys.phase ≠ 2 ∨ test < 1 ∨ test > 16 ∨ (vGet s.ast.results (test - 1) {}).result = 3 then .next s
  else
    let ms := match s.ast.retry with | some (t, n) => if t = test then n else 0 | none => 0
    if ms ≥ 20 ∨ s.ast.retryMs ≥ 150 then
      .next (skipTest test .whole (updAst (fun a => { a with retry := none, results := vUpd a.results (test - 1) (fun r => { r with result := 3 }) }) s))
    else .next (updAst (fun a => { a with retry := some (test, ms + 1), retryMs := a.retryMs + 1 }) s)

/-! ## The periodic set (R398) -/

/-- The periodic set runs (R388). -/
def periodicOn (s : State) : Bool := decide (s.sys.phase = 15) && s.sys.mode != .parked && s.ast.perEn

/-- A test may begin now (R389). -/
def periodicOk (s : State) : Bool := periodicOn s && limitsOk s

/-- Field pins of a tile that test 13 covers: those that are configured. -/
def configured (s : State) (p n : Nat) : Bool := cfgMode (vGet (linkOf s p).cfg n 0) != 0

/-- A unit of a field tile that the periodic set tests: a path of a configured pin, or the driver of a pin in MODE 0. -/
def unitTested (s : State) (p u : Nat) : Bool :=
  let n := if u < 32 then u / 2 else u - 32
  !(s.ast.unusable.getLsbD (16 * p + n)) && (if u < 32 then configured s p n else decide (u < 48) && !(configured s p n))

/-- The next unit of a field tile, from `u` on and round again. -/
def nextUnit (s : State) (p u : Nat) : Option Nat := ((List.range 48).map fun k => (u + k) % 48).find? (unitTested s p)

/-- A Timetable test of the pin, or of the test source that feeds it, occupies this period (R401). -/
def inSlot (s : State) (pin : Nat) : Bool :=
  s.tbl.slots.any fun k => k.claim.index == pin || ((s.tbl.claims.getD []).any fun c => c.kind == 1 && c.index == pin && c.use == 1 && c.source == k.claim.index)

/-- The type under test (R400): that of an input, and 1 and 2 in turn for a pin in any other mode. -/
def typeTested (s : State) (p n : Nat) : Nat :=
  let v := vGet (linkOf s p).cfg n 0
  if cfgMode v = 1 then (if bits v 4 2 = 1 then 1 else 2) else 1 + s.ast.rounds % 2

/-- The next pin and path that PER_POS reports: of the present field tile after `p`, in turn. -/
def noteNext (p : Nat) (s : State) : State :=
  match ((List.range 6).map fun k => (p + 1 + k) % 6).find? fun q => tilePresent s.variant q with
  | none => s
  | some q =>
    match nextUnit s q (vGet s.ast.unit q 0) with
    | none => s
    | some u => updAst (fun a => { a with pin := 16 * q + (if u < 32 then u / 2 else u - 32), pathB := decide (u < 32) && u % 2 == 1 }) s

/-- A link can carry Assay ordered sets to its tile. -/
def tileReachable (s : State) (p : Nat) : Bool := tilePresent s.variant p && (linkOf s p).up && !(linkFenced p s) && !(s.ast.unusableTiles.getLsbD p)

/-- The controller begins a test on a tile (R399). -/
def beginTest (p : Nat) (t : PinTest) (test : Nat) (s : State) : State :=
  updAst (fun a => { a with tests := vSet a.tests p (some { t with seq := a.seq }), seq := a.seq + 1, test := test }) (issue .assay pgAst (pgTile p) 1 s)

/-- PIN_TEST_SLOT (R398, R400): a slot of field tile `p`. -/
def execPinTestSlot (p : Fin 6) (s : State) : Res :=
  let p := p.val
  if !(periodicOk s) || !(tileReachable s p) || (vGet s.ast.tests p none).isSome then .next s
  else match nextUnit s p (vGet s.ast.unit p 0) with
    | none => .next s
    | some u =>
      let n := if u < 32 then u / 2 else u - 32
      let s := noteNext p (updAst (fun a => { a with unit := vSet a.unit p ((u + 1) % 48) }) s)
      if inSlot s (16 * p + n) then .next s
      else if u < 32 then .next (beginTest p { op := 1, pin := n, path := if u % 2 = 0 then .a else .b, typ := typeTested s p n, seq := 0 } 13 s)
      else .next (beginTest p { op := 2, pin := n, path := .a, typ := 1, seq := 0 } 14 s)

/-- REF_TEST_SLOT (R398): the reference DAC of the logic side (none), whose test passes or fails, or that of a tile side, which is tested through an ordered set. -/
def execRefTestSlot (t : Option (Fin 8 × Chan)) (pass : Bool) (s : State) : Res :=
  if !(periodicOk s) then .next s
  else match t with
    | none => .next (if pass then s else failOutcome 11 .logicRef true s)
    | some (p, c) =>
      if !(tileReachable s p.val) || (vGet s.ast.tests p.val none).isSome then .next s
      else .next (beginTest p.val { op := 4, pin := 0, path := c, typ := 0, seq := 0 } 11 s)

/-- MONITOR_TEST_SLOT (R398, R403): one threshold of a monitor, whose duplicate watches meanwhile. -/
def execMonitorTestSlot (x : AssayItem) (pass : Bool) (s : State) : Res :=
  if !(periodicOk s) || pass then .next s
  else match x with
    | .rail => .next (failOutcome 12 x true s)
    | .hold => .next (failOutcome 12 x true s)
    | .feed _ => .next (failOutcome 12 x true s)
    | .tile _ => .next (failOutcome 12 x true s)
    | .port _ => .next s | .logicRef => .next s | .pin _ => .next s | .bank _ => .next s | .cell _ _ => .next s | .whole => .next s

/-- SOT_TEST_SLOT (R398): one side of a safety output tile. -/
def execSotTestSlot (p : Fin 2) (c : Chan) (s : State) : Res :=
  let p := 6 + p.val
  if !(periodicOk s) || !(tileReachable s p) || (vGet s.ast.tests p none).isSome then .next s
  else .next (beginTest p { op := 3, pin := 0, path := c, typ := 0, seq := 0 } 15 s)

/-! ## Ordered sets (R399, Table AST-4) -/

/-- A need of R391 for a test at a tile: the supply of its drivers in the Normal band. -/
def needMet (s : State) (p op : Nat) (c : Chan) : Bool := !(op == 2 || op == 3) || (sideOf s p c).band == .normal

/-- ASSAY_ORDERED_SET: the ordered set the controller holds reaches the tile; one whose CRC is wrong is ignored and sent again in the next period. -/
def execAssayOrderedSet (p : Fin 8) (rx : Rx) (s : State) : Res :=
  let p := p.val
  match vGet s.ast.tests p none, rx with
  | none, _ => .next s
  | some _, .corrupt => .next s
  | some _, .raw _ => .next s
  | some _, .lost => .next s
  | some t, .good =>
    if t.op = 5 then .next (updAst (fun a => { a with tile := vSet a.tile p none, tests := vSet a.tests p none }) s)
    else match vGet s.ast.tile p none with
      | some x => if x.seq = t.seq then .next s
                  else if x.result = 0 then .next s
                  else .next (updAst (fun a => { a with tile := vSet a.tile p (some { op := t.op, pin := t.pin, path := t.path, typ := t.typ, seq := t.seq, result := 4 }) }) s)
      | none =>
        let refused := (sideOf s p t.path).supply == .qualifying || !(needMet s p t.op t.path)
        .next (updAst (fun a => { a with tile := vSet a.tile p (some { op := t.op, pin := t.pin, path := t.path, typ := t.typ, seq := t.seq, result := if refused then 4 else 0 }),
                                         tests := vSet a.tests p (some { t with started := !refused }) }) s)

/-- The periodic number of a test by its OP (Tables AST-3 and AST-4). -/
def testOfOp (op : Nat) : Nat := match op with | 1 => 13 | 2 => 14 | 3 => 15 | _ => 11

/-- Every configured and usable field pin has completed both paths. -/
def roundComplete (s : State) : Bool :=
  (List.range 96).all fun i => !(tilePresent s.variant (i / 16)) || s.ast.unusableTiles.getLsbD (i / 16) || s.ast.unusable.getLsbD i || !(configured s (i / 16) (i % 16)) ||
    (s.ast.doneA.getLsbD i && s.ast.doneB.getLsbD i)

/-- A test of a tile has completed: the pin's abort counter is cleared (R402), and a round of test 13 may have ended. -/
def testDone (p : Nat) (t : PinTest) (s : State) : State :=
  let i := 16 * p + t.pin
  match t.op with
  | 1 =>
    let s := updAst (fun a => { a with
      aborts := smErase a.aborts i,
      doneA := if t.path = .a then setBit a.doneA i true else a.doneA, doneB := if t.path = .b then setBit a.doneB i true else a.doneB }) s
    if roundComplete s then evt pgAst 5 (updAst (fun a => { a with rounds := satAdd 16 a.rounds 1, doneA := 0, doneB := 0 }) s) else s
  | 2 => updAst (fun a => { a with aborts := smErase a.aborts i, notRun14 := setBit a.notRun14 p false }) s
  | 3 => updAst (fun a => { a with notRun15 := setBit a.notRun15 p false }) s
  | _ => s

/-- ASSAY_RESULT (R399): a tile answers; `ended` says that its test has just ended, with PASS where true and the failing step otherwise. The answer reaches the controller unless the frame is spoilt; a final answer is acknowledged. -/
def execAssayResult (p : Fin 8) (ended : Option (Bool × Nat)) (rx : Rx) (s : State) : Res :=
  let p := p.val
  match vGet s.ast.tile p none with
  | none => .next s
  | some x =>
    let x' : TileTest := match ended with
      | some (ok, step) => if x.result = 0 then { x with result := if ok then 1 else 2, step := if ok then 0 else step } else x
      | none => x
    let s := if x.result = 0 ∧ x'.result ≠ 0 then restorePath p x s else s
    let s := updAst (fun a => { a with tile := vSet a.tile p (some x') }) s
    match vGet s.ast.tests p none, rx with
    | some t, .good =>
      if t.op = 5 ∨ t.seq ≠ x'.seq ∨ x'.result = 0 then .next s
      else
        let ack := updAst (fun a => { a with tests := vSet a.tests p (some { t with op := 5 }), test := 0 }) s
        match x'.result with
        | 1 => .next (testDone p t ack)
        | 2 => .next (failOutcome (testOfOp t.op) (if t.op = 1 ∨ t.op = 2 then .pin (16 * p + t.pin) else .tile p) true (testDone p t ack))
        | _ => .next ack
    | some _, .corrupt => .next s
    | some _, .raw _ => .next s
    | some _, .lost => .next s
    | none, _ => .next s

/-- PIN_TEST_ABORT (R401): the live path's comparator of a field pin under test changes. -/
def execPinTestAbort (p : Fin 6) (pin : Fin 16) (s : State) : Res := .next (abortTest p.val pin.val s)

/-- ASSAY_LIMIT_LOST (R389): a limit is lost while a test runs: a start-up test, or a periodic test of the item named; on a tile the pin is restored (R403). -/
def execAssayLimitLost (test : Nat) (x : AssayItem) (s : State) : Res :=
  if s.sys.phase = 2 then
    if test < 1 ∨ test > 16 then .next s
    else .next (skipTest test .whole (updAst (fun a => { a with results := vUpd a.results (test - 1) (fun r => { r with result := 3 }) }) s))
  else if !(periodicOn s) then .next s
  else match x with
    | .tile p =>
      (match vGet s.ast.tests p none with
       | none => .next s
       | some t =>
         let s := match vGet s.ast.tile p none with
           | some y => if y.result = 0 then restorePath p y s else s
           | none => s
         .next (skipTest (testOfOp t.op) x (updAst (fun a => { a with tests := vSet a.tests p none, tile := vSet a.tile p none, test := 0 }) s)))
    | _ => .next (skipTest test x s)

/-! ## Store segments (R404) -/

/-- Segments of a bank (R398): two lines each, counting the reserved ingots. -/
def bankSegments (v : Variant) : Nat := bankLines v / 2

/-- The segment index at which the last address-bit position has been tested (R393). -/
def topSegment (v : Variant) : Nat := match v with | .gw968 => 131072 | .gw488 => 65536

/-- Physical word address of word `j` of segment `i` of a bank (R247). -/
def segWord (bank i j : Nat) : Nat := ((2 * i + j / 4) * 32 + bank) * 4 + j % 4

/-- The eight words of a segment are restored from the save buffer (R405): `ws` is what its disturbed words give; an uncorrectable word is written as a poisoned word and raises STO_UNC. -/
def restoreWords (bank i : Nat) (ws : List (Nat × WordCheck)) : Nat → State → State
  | 0, s => s
  | k + 1, s =>
    let r := readRetry pgAst 0 (((ws.find? fun e => e.1 == k).map Prod.snd).getD .good) s
    let w := segWord bank i k
    let s := if r.1.check = .uncorrectable then
        reportAs { src := 0x081, synd := r.1.synd, detail := w, page := pgAst, injected := r.1.injected }
          (updSto (fun t => if t.poison.contains w then t else { t with poison := t.poison ++ [w] }) r.2)
      else r.2
    restoreWords bank i ws k s

/-- A bank's segment has been tested: the next one is due, and a round may have ended. -/
def segmentDone (bank : Nat) (s : State) : State :=
  let i := vGet s.ast.segs bank 0
  let last := decide (i + 1 ≥ bankSegments s.variant)
  let s := updAst (fun a => { a with
    segs := vSet a.segs bank (if last then 0 else i + 1), segDone := if last then setBit a.segDone bank true else a.segDone,
    deferBanks := if i = topSegment s.variant then setBit a.deferBanks bank false else a.deferBanks }) s
  let s := if s.ast.deferred && s.ast.deferBanks == 0 then updAst (fun a => { a with deferred := false }) s else s
  if s.ast.segDone = 0xFFFFFFFF then evt pgAst 6 (updAst (fun a => { a with segDone := 0, passes := satAdd 14 a.passes 1 }) s) else s

/-- STORE_SEGMENT (R404): a segment of a bank, while the boot window holds no slot (R268) and the save buffer can be read. A segment that is aborted is repeated at the bank's next slot; one that finds a fault leaves the bank under R250. -/
def execStoreSegment (bank : Fin 32) (aborted : Bool) (pass : Bool) (ws : List (Nat × WordCheck)) (s : State) : Res :=
  let b := bank.val
  if !(periodicOk s) || !s.ast.stoEn || s.boot.lock || !(s.clkg.monOk.getLsbD 2) || !s.sto.mapOk || s.sto.parking || s.sto.parked ||
      s.sto.dead.getLsbD b || s.ast.storeBad || cellIsolated s pgAst 0 then .next s
  else
    let s := restoreWords b (vGet s.ast.segs b 0) ws 8 (issue .assay pgAst pgSto 8 s)
    if aborted then .next s
    else if pass then .next (segmentDone b s)
    else .next (segmentDone b (failOutcome 16 (.bank b) true s))

/-- CTRL.CNT_CLR (Table AST-5). -/
def astCntClr (s : State) : State := updAst (fun a => { a with abortTotal := 0, skips := 0 }) s

/-- A host write to a register of page AST (Table AST-5), with the key of R19 already applied: the value holds the RWK fields that take effect. -/
def astRegWrite (iface : Iface) (off : Nat) (v : Word32) (s : State) : State :=
  match off with
  | 0x008 =>
    let s := if bitOf v 2 then astCntClr s else s
    let clears := (s.ast.perEn && !(bitOf v 0)) || (s.ast.stoEn && !(bitOf v 1))
    if clears && s.sys.mode != .service then errStat iface pgAst off 1 s
    else updAst (fun a => { a with perEn := bitOf v 0, stoEn := bitOf v 1 }) s
  | 0x040 => updAst (fun a => { a with testSel := BitVec.ofNat 5 (bits v 0 5) }) s
  | 0x060 => updAst (fun a => { a with stoInt := BitVec.ofNat 8 (bits v 16 8), pinSlot := BitVec.ofNat 16 (bits v 0 16) }) s
  | _ => s

end Sys2Proof.Machine
end

