-- ==== Sys2Proof/Machine/Lengthman.lean ====
section
/-! DEFINITION. The Lengthman standby watch: power, sampling rounds, the retained log, WAKE_OUT, alignment, the merge into the journal and its registers (R453 to R469). -/

namespace Sys2Proof.Machine

/-- Change the Lengthman. -/
def updLmn (f : Lmn → Lmn) (s : State) : State := { s with lmn := f s.lmn }

/-- CLK_TB cycles in which a write has crossed queue 25 at the latest: 4 ticks of 1/32,768 s (R469). -/
def lmnCross : Nat := 12208

/-- RATE in force: 0 acts as 1, above 100 as 100 (Table LMN-5). -/
def lmnHz (r : BitVec 7) : Nat := min 100 (max 1 r.toNat)

/-- P of R457. -/
def lmnPeriod (hz : Nat) : Nat := (32768 + hz - 1) / hz

/-- The counter moved on (R464). -/
def lmnAfter (s : State) (ticks : Nat) : Nat := (s.lmn.counter + ticks) % 2 ^ 48

/-- Ticks from counter value `a` to counter value `b`. -/
def lmnSince (a b : Nat) : Nat := (b + 2 ^ 48 - a) % 2 ^ 48

/-- LSEQ of an entry (Table LMN-3). -/
def entryLseq (e : LmnEntry) : Nat := ((e.word >>> 48).setWidth 32).toNat

/-- LTIME of an entry (Table LMN-3). -/
def entryTime (e : LmnEntry) : Nat := (e.word.setWidth 48).toNat

/-- The log index of an entry: the ring holds LSEQ modulo 256 (R461, R462, log 33). -/
def entryIndex (e : LmnEntry) : Nat := entryLseq e % 256

/-- The check outcome of an entry's stored word. -/
def entryCheck (e : LmnEntry) : WordCheck := if e.bad then .uncorrectable else .good

/-! ## Loss of state (Table LMN-2, first row) -/

/-- LMN_POWER_ON (R454): the configuration, the counter and the log are at their reset values, COLD is set, and queues 24 and 25 are severed while the logic side has power (R44). -/
def execLmnPowerOn (s : State) : Res :=
  let s := resetHdr pgLmn (lmnLost s)
  .next (if s.pwr.off then s else severQueue 25 false true (severQueue 24 true false s))

/-! ## Configuration (R469) -/

/-- WCFG as a record. -/
def watchCfg (v : Word32) (w : Watch) : Watch :=
  let n := { w with wake := bitOf v 7, log := bitOf v 6, trig := BitVec.ofNat 2 (bits v 4 2), filt5 := bitOf v 3, inv := bitOf v 2, en := bitOf v 0 }
  if n.en && w.en && n.filt5 == w.filt5 && n.inv == w.inv then n else { n with samples := [], level := none }

/-- Assert WAKE_OUT at a counter value; asserted already, nothing changes (R463). -/
def wakeAssert (at_ : Nat) (test : Bool) (s : State) : State :=
  if s.lmn.wakeOut then s else updLmn (fun l => { l with wakeOut := true, wakeAt := at_, wakeTest := test, wakeAligned := false }) s

/-- A write that has crossed takes effect. -/
def lmnApply (w : LmnWrite) (s : State) : State :=
  if w.off = 0x008 then (if bitOf w.v 0 && s.lmn.attended then wakeAssert s.lmn.counter true s else s)
  else if w.off = 0x060 then updLmn (fun l => { l with rate := BitVec.ofNat 7 (bits w.v 0 7) }) s
  else updLmn (fun l => { l with watch := vUpd l.watch ((w.off - 0x040) / 4) (watchCfg w.v) }) s

/-- A write of WCFG, RATE or CTRL.WAKE_TEST enters queue 25 (R469): while the queue is severed it is lost, and a full queue discards it with ERR_STAT.VALUE. -/
def lmnWrite (iface : Iface) (off : Nat) (v : Word32) (s : State) : State :=
  if (xq s 25).st != .joined then queueDiscard 25 1 s
  else if 4 ≤ (s.lmn.writes.filter fun w => decide (now s < w.at_ + lmnCross)).length then errStat iface pgLmn off 2 s
  else updLmn (fun l => { l with writes := l.writes ++ [{ off := off, v := v, at_ := now s }] }) s

/-- How many of the waiting writes have crossed, of which the sender says `n`: none stays longer than R469 allows. -/
def lmnCrossed (n : Nat) (s : State) : Nat :=
  max n (s.lmn.writes.filter fun w => decide (w.at_ + lmnCross ≤ now s)).length

/-! ## Rounds (R455 to R459) -/

/-- Held entries in the order of their log indexes (R462). -/
def logByIndex (l : List LmnEntry) : List LmnEntry := (List.range 256).filterMap fun i => l.find? fun e => entryIndex e == i

/-- The background read of every 256th round (R462): a corrected word is written back, an uncorrectable one stays. -/
def logBackground (chk : WordCheck) (s : State) : State :=
  let l := logByIndex s.lmn.log
  if s.lmn.rounds % 256 = 0 ∧ !l.isEmpty then
    match l[s.lmn.rounds / 256 % l.length]? with
    | none => s
    | some e =>
      let chk := if e.bad then WordCheck.uncorrectable else chk
      let s := (readPort pgLmn chk s).2
      if chk = .uncorrectable then updLmn (fun m => { m with log := m.log.map fun x => if x.word == e.word then { x with bad := true } else x }) s else s
  else s

/-- A round may start after `ticks` more ticks: none runs, and P ticks have passed since the last began (R457). -/
def roundDue (ticks : Nat) (s : State) : Bool :=
  s.lmn.round.isNone &&
  (match s.lmn.lastStart with
   | none => true
   | some (t, hz) => (t + lmnPeriod hz) % 2 ^ 48 == lmnAfter s ticks)

/-- LMN_ROUND_START (R457): a round starts after `ticks` ticks; the first `crossed` waiting writes have crossed and take effect; `chk` is what a background read due in this round meets. -/
def execLmnRoundStart (ticks crossed : Nat) (chk : WordCheck) (s : State) : Res :=
  if roundDue ticks s then
    let n := lmnCrossed crossed s
    let ws := s.lmn.writes.take n
    let s := updLmn (fun l => { l with counter := lmnAfter s ticks, writes := l.writes.drop n }) s
    let s := ws.foldl (fun t w => lmnApply w t) s
    let s := updLmn (fun l => { l with round := some { start := l.counter, attended := l.attended }, lastStart := some (l.counter, lmnHz l.rate), rounds := l.rounds + 1 }) s
    .next (logBackground chk s)
  else .next s

/-- The majority of samples, where N are held (R458). -/
def filterLevel (n : Nat) (l : List Bool) : Option Bool :=
  if l.length < n then none else some (decide ((l.filter id).length * 2 > n))

/-- N of R458. -/
def watchN (w : Watch) : Nat := if w.filt5 then 5 else 3

/-- One more sample of an input that is enabled. -/
def watchSample (pin : Bool) (w : Watch) : Watch :=
  if w.en then
    let l := ((pin != w.inv) :: w.samples).take (watchN w)
    { w with samples := l, level := filterLevel (watchN w) l }
  else w

/-- A change that an input's TRIG selects (R458, R459). -/
def watchSelected (old new_ : Watch) : Bool :=
  match old.level, new_.level with
  | some a, some b => a != b && (if b then new_.trig.getLsbD 0 else new_.trig.getLsbD 1)
  | _, _ => false

/-- A mask over the inputs. -/
def watchMask (f : Nat → Bool) : Nat := ((List.range 8).map fun i => if f i then 2 ^ i else 0).sum

/-- The entry of Table LMN-3. -/
def logWord (ltime lseq level valid changed woke : Nat) (loss vlow : Bool) : BitVec 128 :=
  BitVec.ofNat 128 (ltime % 2 ^ 48 + lseq % 2 ^ 32 * 2 ^ 48 + level * 2 ^ 80 + valid * 2 ^ 88 + changed * 2 ^ 96 + woke * 2 ^ 104 +
    (if loss then 2 ^ 112 else 0) + (if vlow then 2 ^ 113 else 0))

/-- Write an entry (R461, R462): with 256 held it replaces the one of lowest LSEQ. -/
def logWrite (start changed woke : Nat) (s : State) : State :=
  let l := s.lmn
  let full := decide (256 ≤ l.log.length)
  let w := fun i => vGet l.watch i {}
  let level := watchMask fun i => (w i).level == some true
  let valid := watchMask fun i => (w i).level.isSome
  let e : LmnEntry := { word := logWord start l.lseq level valid changed woke full (l.vLowSeen || l.vLow) }
  updLmn (fun l => { l with log := (if full then l.log.drop 1 else l.log) ++ [e], lseq := (l.lseq + 1) % 2 ^ 32,
                            lost := if full then satAdd 16 l.lost 1 else l.lost, vLowSeen := false }) s

/-- LMN_ROUND_DECISION (R459): in tick 16 of a round the levels sensed are filtered; a round of WATCHING writes an entry and drives WAKE_OUT, unless alignment has come meanwhile (R455); one of ATTENDED raises events. -/
def execLmnRoundDecision (pins : BitVec 8) (s : State) : Res :=
  match s.lmn.round with
  | none => .next s
  | some r =>
    let old := s.lmn.watch
    let new_ := Vector.ofFn fun i : Fin 8 => watchSample (pins.getLsbD i.val) (vGet old i.val {})
    let sel := fun i => watchSelected (vGet old i {}) (vGet new_ i {})
    let logs := (List.range 8).any fun i => sel i && (vGet new_ i {}).log
    let wakes := (List.range 8).any fun i => sel i && (vGet new_ i {}).wake
    let at_ := (r.start + 16) % 2 ^ 48
    let passed := lmnSince r.start s.lmn.counter
    let s := updLmn (fun l => { l with watch := new_, round := none, counter := if passed < 16 then at_ else l.counter }) s
    if r.attended then .next (evtIf wakes pgLmn 3 (evtIf logs pgLmn 2 s))
    else
      let drive := wakes && !s.lmn.attended && !s.lmn.wakeOut
      let s := if logs then logWrite r.start (watchMask sel) (if drive then watchMask fun i => sel i && (vGet new_ i {}).wake else 0) s else s
      .next (if drive then wakeAssert ((r.start + 17) % 2 ^ 48) false s else s)

/-- The 33 ticks of WAKE_OUT have passed at counter value `c` (R463). -/
def wakeHeld (s : State) (c : Nat) : Bool := decide (33 ≤ lmnSince s.lmn.wakeAt c) && decide (lmnSince s.lmn.wakeAt c < 2 ^ 47)

/-- WAKE_RELEASE (R463): after `ticks` ticks both moments have passed, and WAKE_OUT is released. -/
def execWakeRelease (ticks : Nat) (s : State) : Res :=
  if s.lmn.wakeOut && (s.lmn.wakeTest || s.lmn.wakeAligned) && wakeHeld s (lmnAfter s ticks) then
    .next (updLmn (fun l => { l with counter := lmnAfter s ticks, wakeOut := false, wakeTest := false, wakeAligned := false }) s)
  else .next s

/-! ## Alignment (R462 to R464, R466) -/

/-- An entry that can be read and carries VLOW. -/
def entryVlow (e : LmnEntry) : Bool := !e.bad && e.word.getLsbD 113

/-- LMN_ALIGNMENT (R464): `ticks` ticks later the Lengthman captures L_a; the pair is held, WATCHING becomes ATTENDED, and what could not be reported before is raised. It is made once in each start-up, from P1 on, and again after a Standby reset, over queues that are JOINED (Table LMN-2). -/
def execLmnAlignment (ticks : Nat) (s : State) : Res :=
  if s.lmn.aligned || decide (s.sys.phase = 0) || !s.tb.running || (xq s 24).st != .joined || (xq s 25).st != .joined then .next s
  else
    let c := lmnAfter s ticks
    let free := s.lmn.wakeOut && wakeHeld s c
    let s := updLmn (fun l => { l with
      attended := true, aligned := true, cold := l.lostState, lostState := false, counter := c, alignL := c, alignT := (now s + 2 ^ 64 - 2) % 2 ^ 64,
      wakeAligned := true, wakeOut := l.wakeOut && !free, wakeTest := l.wakeTest && !free }) s
    let s := evt pgLmn 0 s
    let lostAny := decide (s.lmn.lost ≠ 0)
    let s := evtIf lostAny pgLmn 4 (reportIf lostAny 0x0B1 pgLmn s)
    .next (reportIf (s.lmn.log.any entryVlow) 0x0B2 pgLmn s)

/-- LOGIC_DEAD (R454). -/
def execLogicDead (s : State) : Res := .next (updLmn (fun l => { l with attended := false }) s)

/-- VSTBY_LOW (R462): VSTBY crosses the Low threshold, falling where `low`; in ATTENDED a fall raises LMN_VSTBY_LOW directly. -/
def execVstbyLow (low : Bool) (s : State) : Res :=
  let fall := low && !s.lmn.vLow
  let s := updLmn (fun l => { l with vLow := low, vLowSeen := l.vLowSeen || low }) s
  .next (if fall && s.lmn.attended then report0 0x0B2 pgLmn (evt pgLmn 5 s) else s)

/-! ## Hand-over to the journal (R310, R465 to R467) -/

/-- The Station-clock equivalent of a counter value, in two's complement (R465). -/
def lmnStation (s : State) (l : Nat) : Nat :=
  (s.lmn.alignT + 2 ^ 64 - lmnSince l s.lmn.alignL * 390625 / 128) % 2 ^ 64

/-- The payload of Table LMN-4. -/
def lmnPayload (s : State) (e : LmnEntry) : List Byte :=
  leBytes 16 e.word.toNat ++ leBytes 6 s.lmn.alignL ++ zeros 2 ++ leBytes 4 s.jrn.starts.toNat ++ zeros 4

/-- One entry is merged (R466), as BACKGROUND traffic (Table ARC-3): an uncorrectable one raises LMN_WC_UNC and counts as merged. -/
def mergeEntry (e : LmnEntry) (s : State) : State :=
  let r := readRetry pgLmn 0 (entryCheck e) (issue .lmnMerge pgLmn pgJrn 1 s)
  match r.1.check with
  | .uncorrectable => reportRead 0 0x0B0 pgLmn (entryIndex e) r.1 r.2
  | .good => sysRecord (lmnStation r.2 (entryTime e)) 0 0x0006 0x01 (lmnPayload r.2 e) r.2
  | .single _ => sysRecord (lmnStation r.2 (entryTime e)) 0 0x0006 0x01 (lmnPayload r.2 e) r.2
  | .adjacent _ => sysRecord (lmnStation r.2 (entryTime e)) 0 0x0006 0x01 (lmnPayload r.2 e) r.2

/-- The engine reads the held entries through queue 24 and merges them (R310, R466). -/
def lmnMerge (s : State) : State :=
  match s.lmn.log.getLast? with
  | none => s
  | some e =>
    if s.lmn.aligned && (xq s 24).st == .joined then
      let s := s.lmn.log.foldl (fun t e => mergeEntry e t) (qPass 24 s.lmn.log.length s)
      updJrn (fun j => { j with merge := some (j.admitted, entryLseq e) }) s
    else s

/-- Every record admitted up to number `n` is SEALED. -/
def sealedUpTo (s : State) (n : Nat) : Bool := (s.jrn.waiting ++ s.jrn.buf).all fun b => decide (n < b.no)

/-- The merge is SEALED, or nothing was merged (Table RST-4, P6). -/
def mergeSealed (s : State) : Bool := match s.jrn.merge with | none => true | some (n, _) => sealedUpTo s n

/-- LMN_CLEAR (R467). -/
def execLmnClear (s : State) : Res :=
  match s.jrn.merge with
  | none => .next s
  | some (n, top) =>
    if sealedUpTo s n && (xq s 25).st == .joined then
      let s := updJrn (fun j => { j with merge := none }) s
      .next (evt pgLmn 1 (updLmn (fun l => { l with log := l.log.filter fun e => decide (2 ^ 31 ≤ (top + 2 ^ 32 - entryLseq e) % 2 ^ 32), lost := 0 }) s))
    else .next s

/-! ## Registers (R468) -/

/-- ENTRY_SEL captures a held entry, 0 newest; beyond HELD it captures 0. The word passes the log's read port; where the code rejects it nothing is delivered, and what ENTRY0 to ENTRY3 then hold is a free value. -/
def entrySelect (age : BitVec 8) (s : State) : State :=
  let s := updLmn (fun l => { l with entrySel := age }) s
  match s.lmn.log.reverse[age.toNat]? with
  | none => updLmn (fun l => { l with entry := 0 }) s
  | some e =>
    let r := readPort pgLmn (entryCheck e) s
    if r.1.check = .uncorrectable then
      let n := r.2.free
      let w := (List.range 4).foldl (fun (a : BitVec 128) i => a ||| ((Config.freeValue (n + i)).setWidth 128 <<< (32 * i))) 0
      updLmn (fun l => { l with entry := w }) { r.2 with free := n + 4 }
    else updLmn (fun l => { l with entry := e.word }) r.2

/-- In P5 the Lengthman loads the effective values of calibration item 0x0B (R456). -/
def lmnCalLoad (s : State) : State :=
  updLmn (fun l => { l with senseCal := Vector.ofFn fun i : Fin 8 => match smGet s.tch.cal (0x0B * 256 + i.val) with | some c => c.e | none => 0 }) s

end Sys2Proof.Machine
end

