-- ==== Sys2Proof/Machine/Startup.lean ====
section
/-! DEFINITION. Start-up phases, RST.CMD, the ends of region and block resets, RESET_N and the chip reset (R497 to R513). -/

namespace Sys2Proof.Machine

/-- Change SYS. -/
def updSys (f : Sys → Sys) (s : State) : State := { s with sys := f s.sys }

/-- A phase ends `us` µs after reset release: PHASE_ENDn, PHASE_CHG, and the next phase (R501). -/
def phaseEnds (n us : Nat) (s : State) : State :=
  evt pgSys 4 (updSys (fun y => { y with phase := if n = 7 then 15 else n + 1, phaseEnd := vSet y.phaseEnd n (min us (2 ^ 20 - 1)) }) s)

/-- Start-up is in phase `n`. -/
def startIn (s : State) (n : Nat) : Bool := s.sys.phase == n && s.sys.mode == .starting && !s.pwr.off

/-! ## P0 to P7 (Tables RST-5 and RST-6) -/

/-- STARTUP_P0: the straps are sampled once, in the cycle of reset release (R500); `pll` says which PLLs have locked, `mon` which clocks their monitors see, `queuesBad` what the test of queues 4 to 7 finds (R394), `us` when. With CLK_SYS, CLK_TB and CLK_STO locked the queues are tested, SFDP is served (Table STO-16, step 2) and the phase ends; otherwise start-up stays in it. While RESET_N is low the module stays in reset (R508). -/
def execStartupP0 (strap : BitVec 2) (pll : BitVec 4) (xinOk xinExt : Bool) (mon : PhaseZeroTests) (us : Nat) (s : State) : Res :=
  if !(startIn s 0) || s.rst.pinLow then .next s
  else
    let s := if s.sys.sampled then s
      else updSys (fun y => { y with sampled := true, strap := strap, strapErr := strap == 3, splitStrap := strap == 2 }) s
    let s := { s with clkg := { s.clkg with pll := pll, xinOk := xinOk, xinExt := xinExt, monOk := mon.mon } }
    if pll.getLsbD 0 && pll.getLsbD 1 && pll.getLsbD 2 then .next (phaseEnds 0 us (bootQueueTest mon.queuesBad { s with boot := { s.boot with sfdp := true } })) else .next s

/-- The work of P1 (Table RST-5): the known-answer test, the ROM measurement, the collector's own check, the Touchmark judgement, the manifest, the root, and calibration items 0x01 and 0x02. -/
def p1Work (fcrOk kat : Bool) (s : State) : State :=
  let s := setMeas 0 Config.romHash (katRun kat s)
  let s := if fcrOk then { s with fcr := { s.fcr with errnCheck := false } } else s
  let s := tchJudge s
  let m := if s.tch.flags.getLsbD 1 then manifestCheck s else (true, s)
  let s := updSys (fun y => { y with manifestBad := !m.1 }) m.2
  calLoad (fun item _ => item == 1 || item == 2) (calNote (takeRoot s))

/-- STARTUP_P1: the phase's work is done once; the phase ends when a feed is ACTIVE, or 150 ms after reset release. A ROM that fails its self-check keeps start-up here, with a line of `line` bytes on the console (Table RST-6). -/
def execStartupP1 (romOk fcrOk kat : Bool) (line us : Nat) (s : State) : Res :=
  if !(startIn s 1) then .next s
  else if !s.tch.marginDone && !romOk then .next (uartLine line s)
  else
    let s := if s.tch.marginDone then s else p1Work fcrOk kat s
    if feedActive s || decide (150000 ≤ us) then .next (phaseEnds 1 us s) else .next s

/-- STARTUP_P2: the Assay start-up set has run (R388, R503). -/
def execStartupP2 (r : StartSet) (us : Nat) (s : State) : Res :=
  if startIn s 2 then .next (phaseEnds 2 us (startupSet r s)) else .next s

/-- The injections of the Double-header have run (R168, R170): `bad` has a bit for each group that failed. -/
def dhdInjected (bad : BitVec 64) (s : State) : State :=
  { s with dhd := { s.dhd with injDone := true, injFail := s.dhd.injFail ||| bad, cmpFail := s.dhd.cmpFail || bad != 0, lockstep := !s.dhd.cmpFail && bad == 0 } }

/-- STARTUP_P3: the injections of the Double-header and of the Tablet have ended; the masks name those that failed (R168 to R170). -/
def execStartupP3 (groups : BitVec 64) (items : BitVec 9) (us : Nat) (s : State) : Res :=
  if startIn s 3 then
    let s := evt pgDhd 1 (dhdInjected groups s)
    .next (phaseEnds 3 us { s with tab := { s.tab with injDone := true, injFail := items, cmpFail := items != 0 } })
  else .next s

/-- A user calibration copy keeps the format of R429, and its entries name existing instances once within the user range. -/
def userCalOk (l : List Byte) : Bool :=
  let e := leAt l 6 2
  leAt l 4 2 == 1 && decide (e ≤ 128) && decide (1 ≤ leAt l 8 4) && decide (leAt l 12 1 ≤ 3) && slice l 13 3 == zeros 3 && slice l 20 44 == zeros 44 &&
    decide (64 + 8 * e + 7856 ≤ leAt l 16 4)

/-- The entries of a user calibration copy: key of the instance, and value. -/
def userCalEntries (l : List Byte) : List (Nat × Int) :=
  (List.range (leAt l 6 2)).map fun i => let o := 64 + 8 * i; (leAt l o 1 * 256 + leAt l (o + 1) 1, int16 (leAt l (o + 4) 2))

/-- Every entry names an existing item and instance once, with VALUE inside the user range, and its reserved bytes are 0. -/
def userCalFits (l : List Byte) : Bool :=
  let es := userCalEntries l
  (List.range es.length).all (fun i =>
    let o := 64 + 8 * i
    let e := lGet es i (0, 0)
    leAt l (o + 2) 2 == 0 && leAt l (o + 6) 2 == 0 && !((es.drop (i + 1)).any fun f => f.1 == e.1) &&
    (match calItem (e.1 / 256) with
     | some c => decide (e.1 % 256 < c.inst) && decide (e.2.natAbs ≤ c.user)
     | none => false))

/-- A user calibration copy is verified (R429): its image where it is valid, and whether there is a copy at all. -/
def checkUserCal (copy : Nat) (s : State) : (Option (List Byte) × Bool) × State :=
  let r := readImage (cfgAddr (14 + copy)) (ascii "GWUC") 16 65536 s
  match r.1 with
  | none => ((none, true), r.2)
  | some l =>
    if l.isEmpty then
      let h := readItem (cfgAddr (14 + copy)) 4 r.2
      ((none, h.1 == some (ascii "GWUC")), h.2)
    else if !(userCalOk l) then ((none, true), r.2)
    else
      let v := verifyOwner 4 copy (leAt l 12 1) l r.2
      (if v.1 = .ok ∧ userCalFits l then some l else none, true, v.2) |> fun x => ((x.1, x.2.1), x.2.2)

/-- The user values of P4 (R429): the valid copy of higher GENERATION, copy 0 where they are equal. -/
def takeUserCal (s : State) : State :=
  let a := checkUserCal 0 s
  let b := checkUserCal 1 a.2
  let s := b.2
  let use := fun (c : Nat) (l : List Byte) =>
    setMeas 3 (sha256 (l.take (l.length - 7856))) { s with tch := { s.tch with userCal := BitVec.ofNat 2 (c + 1), userVals := (userCalEntries l).foldl (fun m e => smSet m e.1 e.2) [] } }
  match a.1.1, b.1.1 with
  | some x, some y => if leAt y 8 4 > leAt x 8 4 then use 1 y else use 0 x
  | some x, none => use 0 x
  | none, some y => use 1 y
  | none, none => { s with tch := { s.tch with userCal := if a.1.2 || b.1.2 then 3 else 0, userVals := [] } }

/-- STARTUP_P4, once the ingot map has been recovered, or the store has failed its test: the work of Table HMK-8, the installation of R106, and the boot record. `readBack` says whether the evaluators read back as written. -/
def execStartupP4 (kat readBack : Bool) (us : Nat) (s : State) : Res :=
  if startIn s 4 && (s.sto.mapOk || s.ast.storeBad) then
    let s := takePatch (takeIdentity (katRun kat s))
    .next (phaseEnds 4 us (takeUserCal (startupInstall readBack s)))
  else .next s

/-- A populated, usable tile is up (Table RST-5, P5): its link, FRESH, snapshot and configuration CRC. -/
def tileUp (s : State) (p : Nat) : Bool :=
  let l := linkOf s p
  let t := vGet s.tiles p {}
  let side := fun (x : Stream) (d : Side) => x.lastAt.isSome && !x.last.fresh && d.timeAt.isSome
  l.up && l.cfgWait == 0 && !l.cfgMismatch && side l.a t.a && (isField p || side l.b t.b)

/-- The tiles that P5 brings up. -/
def tilesWanted (s : State) : List Nat := (List.range 8).filter fun p => tilePresent s.variant p && !(s.ast.unusableTiles.getLsbD p)

/-- STARTUP_P5: the calibration is loaded (R428, R456); the phase ends when every usable tile is up, or 20 ms after it began, and a tile that is not up raises LINK_DOWN (R502). -/
def execStartupP5 (us : Nat) (s : State) : Res :=
  if startIn s 5 then
    let s := if s.sys.calLoaded then s else lmnCalLoad (calLoad (fun item _ => item != 1 && item != 2) (updSys (fun y => { y with calLoaded := true }) s))
    let down := (tilesWanted s).filter fun p => !(tileUp s p)
    if down.isEmpty || decide (vGet s.sys.phaseEnd 4 0 + 20000 ≤ us) then
      .next (phaseEnds 5 us (down.foldl (fun t p => tileReport p 0 0 (evt (pgTile p) 0 t)) s))
    else .next s
  else .next s

/-- STARTUP_P6: the journal is recovered, the START record admitted and the Lengthman log merged; `fs` is what reading the ring meets. The phase ends once the merge is SEALED, at the latest 20 ms after P5. -/
def execStartupP6 (fs : List (Nat × WordCheck)) (us : Nat) (s : State) : Res :=
  if startIn s 6 then
    let s :=
      if s.jrn.st = .recovering then
        (let t := recoverJournal fs (if s.lmn.aligned then s.lmn.log.length else 0) s
         if t.jrn.st = .running then lmnMerge (updSys (fun y => { y with starts := t.jrn.starts }) t) else t)
      else s
    if (s.jrn.st != .recovering && mergeSealed s) || decide (vGet s.sys.phaseEnd 5 0 + 20000 ≤ us) then .next (phaseEnds 6 us s) else .next s
  else .next s

/-- The first mode (R497). -/
def firstMode (s : State) : Mode :=
  if s.sys.splitFlag || s.sys.splitStrap then .split
  else if s.sys.manifestBad then .incomplete
  else if s.sys.strap = 1 then .service
  else .safe

/-- STARTUP_P7 (R497): the first mode is in force, STARTED is raised, the periodic Assay set starts and a SYNC that the selection asked for begins. -/
def execStartupP7 (us : Nat) (s : State) : Res :=
  if startIn s 7 then
    let m := firstMode s
    let s := phaseEnds 7 us s
    let s := evt pgSys 1 (evt pgSys 0 (setMode m s))
    let s := { s with dhd := { s.dhd with split := m == .split, wdogAt := now s }, tab := { s.tab with split := m == .split }, ast := { s.ast with set := 2 } }
    .next (startSync (if s.sys.manifestBad then enterIncomplete s else s))
  else .next s

/-! ## RST.CMD (R507, R510) -/

/-- A RST command ends with a result: CMD_DONE where it is accepted (Table RST-11). -/
def rstEnd (code : Nat) (s : State) : State := evt pgRst (if code = 0 then 0 else 1) { s with rst := { s.rst with cmdResult := BitVec.ofNat 8 code } }

/-- REGION of RST.CMD. -/
def regionOf : Nat → Option Region
  | 0 => some .logic | 1 => some .storage | 2 => some .host | 3 => some .field | 4 => some .standby
  | _ => none

/-- What RST.CMD names: none for BAD_TARGET (R510). -/
def resetTarget (op region page : Nat) (s : State) : Option ResetTarget :=
  if op = 2 then (regionOf region).map .region
  else if pagePresent s.variant page && regionIndex page != 5 && !(decide (0x30 ≤ page)) then some (.block page) else none

/-- R510: the modes in which the host may ask for a reset. Blocks of the Host and Standby regions are not listed (log 36). -/
def resetAllowed (t : ResetTarget) (m : Mode) : Bool :=
  match t with
  | .region .logic => notRunMode m
  | .region .field => notRunMode m
  | .region .storage => m == .service
  | .region .host => true
  | .region .standby => true
  | .block pg =>
    if regionIndex pg = 0 ∨ regionIndex pg = 3 then notRunMode m else if regionIndex pg = 1 then m == .service else false

/-- A write of RST.CMD that the key sequence admits (R506, R507, R510, log 34). -/
def rstCmdWrite (v : Word32) (s : State) : State :=
  let op := bits v 28 4
  let s := { s with rst := { s.rst with cmd := v &&& 0xF00700FF } }
  if op = 1 ∧ s.sys.mode = .parked then chipReset .host (rstEnd 0 s)
  else if s.pwr.pfRun then rstEnd 5 s
  else if s.sys.phase ≠ 15 then rstEnd 1 s
  else if op = 1 then rstEnd 1 s
  else if op ≠ 2 ∧ op ≠ 3 then rstEnd 4 s
  else
    match resetTarget op (bits v 16 3) (bits v 0 8) s with
    | none => rstEnd 2 s
    | some t =>
      if !(resetAllowed t s.sys.mode) then rstEnd 1 s
      else if !s.rst.running.isEmpty then rstEnd 3 s
      else startReset t false (rstEnd 0 s)

/-! ## The course of a region or block reset (R509, R511) -/

/-- STORAGE_RESET_DRAINED (R511): every record admitted is SEALED, and the resets that waited take hold. -/
def execStorageResetDrained (s : State) : Res :=
  if s.jrn.waiting.isEmpty && s.jrn.buf.isEmpty then
    let ws := s.rst.running.filter fun r => r.waiting
    let s := { s with rst := { s.rst with running := s.rst.running.map fun r => { r with waiting := false } } }
    .next (ws.foldl (fun t r => takeReset r.target t) s)
  else .next s

/-- The pages a reset reaches. -/
def targetPages : ResetTarget → List Nat
  | .region r => regionPages r
  | .block pg => [pg]

/-- The fences of a reset's pages are removed, but for those an Assay failure keeps (R29, Table AST-2) and those of another reset that still runs (R30). -/
def unfencePages (l : List Nat) (s : State) : State :=
  l.foldl (fun t p => if t.fab.stuck.getLsbD p || pageInReset p t then t else unfence p t) s

/-- The checks and the work that end a reset of a page's block: the Double-header repeats its injection (R163), the loader installs the active copy (Table ILK-16), the journal recovers (R312). -/
def pageRestart (l : List Nat) (bad : BitVec 64) (readBack : Bool) (fs : List (Nat × WordCheck)) (s : State) : State :=
  let s := if l.contains pgDhd then dhdInjected bad s else s
  let s := if l.contains pgIlkA || l.contains pgIlkB || l.contains pgIlkl then
      startSync (reinstallActive readBack s)
    else s
  let s := if l.contains pgJrn then (let t := recoverJournal fs 0 s; if t.jrn.st = .running then updSys (fun y => { y with starts := t.jrn.starts }) t else t) else s
  updJrn (fun j => { j with closed := j.closed && s.rst.running.any fun r => r.waiting }) s

/-- A reset may end: it does not wait under R511, and a store controller it reaches has recovered its map. -/
def resetMayEnd (r : ResetRun) (s : State) : Bool :=
  !r.waiting && (!((targetPages r.target).contains pgSto) || s.sto.mapOk || s.ast.storeBad)

/-- A region reset that ends raises REGION_RESET (Table FCR-2). -/
def regionEnded (t : ResetTarget) (s : State) : State :=
  match t with
  | .region g => report 0x019 0 (regionNo g) pgRst s
  | .block _ => s

/-- RESET_END (R509): the oldest reset that runs ends; `bad` names comparator groups whose repeated injection failed, `readBack` says whether the evaluators read back as written, and `fs` is what reading the journal ring meets. -/
def execResetEnd (bad : BitVec 64) (readBack : Bool) (fs : List (Nat × WordCheck)) (s : State) : Res :=
  match s.rst.running with
  | [] => .next s
  | r :: rest =>
    if resetMayEnd r s then
      let s := unfencePages (targetPages r.target) { s with rst := { s.rst with running := rest } }
      .next (regionEnded r.target (evt pgRst 2 (pageRestart (targetPages r.target) bad readBack fs s)))
    else .next s

/-! ## RESET_N and the chip reset (R507, R508) -/

/-- RESET_N has been low for `ns` ns (R508): less than 1 µs is ignored. A valid low level seals and parks as Table FCR-6 lays down, with cause code 0x05; while the power-fail sequence runs, the sequence goes on and the reset follows PARKED. -/
def execResetN (ns : Nat) (s : State) : Res :=
  if ns < 1000 || s.rst.pinLow then .next s
  else if s.pwr.pfRun && s.sys.mode != .parked then .next { s with rst := { s.rst with pinLow := true, pinAfterPark := true } }
  else .next (pfStart 0x05 { s with rst := { s.rst with pinLow := true, pinAfterPark := true, chip := some (.pin, now s) } })

/-- RESET_N_RELEASE (R508): the module may start. -/
def execResetNRelease (s : State) : Res := .next { s with rst := { s.rst with pinLow := false } }

/-- The chip reset on its way may be asserted: sealing has ended and the store is parked, or 3 ms have passed (Table FCR-6). Under R489 another cause than FAULT_RESET leads to PARKED first. -/
def chipAsserts (at_ : Nat) (atLimit : Bool) (s : State) : Bool :=
  ((s.jrn.st == .sealed && s.sto.parked) || (atLimit && (decide (at_ + 3 * tbMs ≤ now s) || !s.tb.running))) &&
  (s.pwr.pfSet &&& 0x2F == 0 || s.sys.mode == .parked)

/-- CHIP_RESET (R507): the chip reset that RESET_N or the collector has asked for is asserted. -/
def execChipReset (atLimit : Bool) (s : State) : Res :=
  match s.rst.chip with
  | none => .next s
  | some (c, t) => if chipAsserts t atLimit s then .next (chipReset c (tearCopy s)) else .next s

end Sys2Proof.Machine
end

