-- ==== Sys2Proof/Machine/RegRead.lean ====
section
/-! DEFINITION. What the registers read: one function per page of Table HIF-2, written from the register table of its chapter, and the read with its effects (R22, R313, R319, R336, R338, R349). -/

namespace Sys2Proof.Machine

/-- Several fields of one register. -/
def regOf (l : List Word32) : Word32 := l.foldl (· ||| ·) 0

/-- Bits [32k + 31 : 32k] of a mask. -/
def maskWord {n : Nat} (m : BitVec n) (k : Nat) : Word32 := (m >>> (32 * k)).setWidth 32

/-- Word k of a byte area. -/
def areaWord (l : List Byte) (k : Nat) : Word32 := wordAt l (4 * k)

/-- A register whose bit i is a condition on i. -/
def bitReg (n : Nat) (f : Nat → Bool) : Word32 := regOf ((List.range n).map fun i => flag i (f i))

/-! ## Pages 0x00 to 0x05 -/

/-- PHASE_END0 to PHASE_END7, and the rest of Table RST-10. -/
def readSys (off : Nat) (s : State) : Word32 :=
  if 0x068 ≤ off ∧ off ≤ 0x084 then fld 0 20 (vGet s.sys.phaseEnd ((off - 0x068) / 4) 0) else
  match off with
  | 0x00C => regOf [flag 11 s.sys.modePend.isSome, flag 10 (runCheck s).isNone, flag 9 s.sys.splitStrap, flag 8 s.sys.splitFlag, fld 4 4 s.sys.phase, fld 0 4 (modeCode s.sys.mode)]
  | 0x040 => fld 0 4 s.sys.modeReq.toNat
  | 0x044 => fld 0 8 s.sys.modeResult.toNat
  | 0x048 => regOf [bitReg 2 (fun k => tilePresent s.variant (6 + k)) <<< 16, bitReg 6 (tilePresent s.variant) <<< 8, flag 0 (s.variant == .gw968)]
  | 0x04C => s.sys.epoch
  | 0x060 => s.sys.starts
  | 0x064 => regOf [flag 2 s.sys.strapErr, fld 0 2 s.sys.strap.toNat]
  | _ => 0

/-- Table RST-11. -/
def readRst (off : Nat) (s : State) : Word32 :=
  let n := fun (k : Nat) => vGet s.rst.counts k 0
  match off with
  | 0x00C => flag 0 (!s.rst.running.isEmpty)
  | 0x040 => regOf [fld 16 9 s.rst.causeSource.toNat, fld 0 4 s.rst.causeCode.toNat]
  | 0x044 => s.rst.cmd
  | 0x048 => fld 0 8 s.rst.cmdResult.toNat
  | 0x04C => regOf [fld 24 8 (min 255 (n 3)), fld 16 8 (min 255 (n 2)), fld 8 8 (min 255 (n 1)), fld 0 8 (min 255 (n 0))]
  | 0x050 => regOf [fld 16 4 (min 15 (n 4)), fld 8 8 s.rst.lastPage.toNat, flag 4 s.rst.lastFromFcr, flag 3 s.rst.lastBlock, fld 0 3 s.rst.lastRegion.toNat]
  | _ => 0

/-- Feed state codes of Table PWR-12. -/
def feedCode : FeedSt → Nat
  | .failed => 0 | .qualifying => 1 | .standby => 2 | .active => 3

/-- Table PWR-12. -/
def readPwr (off : Nat) (s : State) : Word32 :=
  let p := s.pwr
  match off with
  | 0x00C => regOf [flag 13 p.pfRun, flag 12 p.holdUntrusted, flag 11 (p.bridge != 0), flag 10 p.charging, flag 9 p.untrustedB, flag 8 p.untrustedA,
      fld 6 2 (if p.feedA = .active then 0 else if p.feedB = .active then 1 else 3), fld 2 2 (feedCode p.feedB), fld 0 2 (feedCode p.feedA)]
  | 0x040 => fld 0 12 p.voltA
  | 0x044 => fld 0 12 p.voltB
  | 0x048 => fld 0 12 p.rails.vcore
  | 0x04C => fld 0 12 p.rails.vio
  | 0x050 => fld 0 12 p.rails.vana
  | 0x054 => regOf [flag 8 (measStop s), if p.charging then fld 0 8 (Config.chargeMa (now s)).toNat else 0]
  | 0x058 => fld 28 4 p.cmd.toNat
  | 0x05C => fld 0 8 p.result
  | 0x060 => r32 p.switches
  | 0x06C => fld 0 7 p.switchGap
  | 0x070 => regOf [fld 8 6 p.pfSet.toNat, fld 0 8 p.pfFirst]
  | 0x074 => regOf [flag 1 p.vioLate, flag 0 p.vcoreEarly]
  | _ => 0

/-- STATE of XQ_INFO (Table ARC-15). -/
def qCode : QState → Nat
  | .joined => 0 | .severed => 1 | .rejoining => 2 | .absent => 3

/-- XQ_INFO.OCC: the entries held, from the producer's pointer as the consumer has it; those of queue 25 are the writes that have not crossed (R469). -/
def queueOcc (s : State) (i : Nat) : Nat :=
  let q := xq s i
  if i = 25 then s.lmn.writes.length else xqBetween i q.wSeen q.rptr

/-- Tables ARC-9 to ARC-15. -/
def readClkg (off : Nat) (s : State) : Word32 :=
  let c := s.clkg
  match off with
  | 0x040 => regOf [flag 9 c.xinExt, flag 8 c.xinOk, fld 0 4 c.pll.toNat]
  | 0x044 => fld 0 7 c.monOk.toNat
  | 0x048 => fld 0 3 c.measDomain.toNat
  | 0x04C => regOf [flag 31 c.measValid, fld 0 24 c.measFreq.toNat]
  | 0x050 => bitReg 26 fun i => (xq s i).st == .severed || (xq s i).st == .rejoining
  | 0x054 => fld 0 5 c.xqSel.toNat
  | 0x058 =>
    let i := c.xqSel.toNat
    if i < 26 then (let q := xq s i; regOf [fld 20 8 (queueOcc s i), flag 19 q.consRst, flag 18 q.prodRst, fld 16 2 (qCode q.st), fld 0 16 q.discards.toNat]) else 0
  | _ => 0

/-- Table TB-4; the captured values of R349 are `loQuantity`. -/
def readTbase (off : Nat) (s : State) : Word32 :=
  if 0x100 ≤ off ∧ off < 0x500 then
    let c := chanOf s ((off - 0x100) / 0x20)
    match (off - 0x100) % 0x20 with
    | 0x00 => flag 0 c.en
    | 0x04 => c.interval
    | 0x18 => regOf [flag 31 c.wrPend.isSome, flag 17 c.merged, flag 16 c.late, fld 0 8 c.matchCnt.toNat]
    | _ => 0
  else
    match off with
    | 0x00C => regOf [fld 8 8 s.tb.snapSeq.toNat, flag 1 s.tb.viewOk, flag 0 s.tb.running]
    | 0x050 => bitReg 32 fun n => (chanOf s n).late
    | _ => 0

/-- T_CFG as it reads. -/
def tmrCfg (t : Tmr) : Word32 :=
  regOf [fld 16 16 t.prescale.toNat, flag 12 t.dbgFreeze, fld 8 3 t.master.toNat, fld 2 2 t.slave.toNat, flag 1 t.oneshot]

/-- Table TB-5; COUNT is read by `timerCountRead`. -/
def readTmr (off : Nat) (s : State) : Word32 :=
  if 0x100 ≤ off ∧ off < 0x200 then
    let t := tmrOf s ((off - 0x100) / 0x20)
    match (off - 0x100) % 0x20 with
    | 0x00 => tmrCfg t
    | 0x04 => t.reload
    | 0x10 => regOf [flag 31 t.wrPend.isSome, flag 1 (tmrFrozen s t), flag 0 t.run]
    | _ => 0
  else if off = 0x00C then regOf [(bitReg 8 fun n => tmrFrozen s (tmrOf s n)) <<< 8, bitReg 8 fun n => (tmrOf s n).run]
  else 0

/-! ## The Interlocking -/

/-- STATE of Table ILK-18. -/
def evalCode : EvalState → Nat
  | .noTable => 0 | .loading => 1 | .halted => 2 | .scanning => 3

/-- Tables ILK-18 to ILK-27. -/
def readIlk (c : Chan) (off : Nat) (s : State) : Word32 :=
  let k := chanIlk s c
  match off with
  | 0x00C => regOf [flag 8 (c == .b), fld 2 3 k.phase, fld 0 2 (evalCode k.st)]
  | 0x040 => k.lastEpoch
  | 0x044 => regOf [fld 5 3 k.tripPhase, fld 0 5 k.tripCause]
  | 0x048 => k.tripEpoch
  | 0x04C => match k.mismatch with | some b => regOf [flag 31 true, fld 0 14 b] | none => 0
  | 0x050 => match k.divInfo with | some b => regOf [flag 31 true, fld 0 14 b] | none => 0
  | 0x054 => r32 k.divCount
  | 0x058 => fld 0 3 k.phaseSel.toNat
  | 0x05C => fld 0 20 (vGet k.phaseLast k.phaseSel.toNat 0)
  | 0x060 => fld 0 20 (vGet k.phaseMax k.phaseSel.toNat 0)
  | 0x064 => fld 0 11 k.blocksExec
  | 0x068 => k.tblCrc
  | _ => 0

/-- Tables ILK-28 to ILK-35. -/
def readIlkl (off : Nat) (s : State) : Word32 :=
  let l := s.ilkl
  let t := curTable s
  if 0x058 ≤ off ∧ off ≤ 0x074 then (match t with | some t => areaWord t.hash ((off - 0x058) / 4) | none => 0) else
  match off with
  | 0x00C => regOf [flag 8 l.trip, flag 7 (tableIn s), flag 6 (vGet l.copyOk 1 false), flag 5 (vGet l.copyOk 0 false), fld 4 1 (l.active.getD 0),
      match l.run with | some r => fld 0 3 r.op | none => 0]
  | 0x040 => regOf [flag 8 l.cmdCopy, fld 0 4 l.cmdOp.toNat]
  | 0x044 => fld 0 8 l.result
  | 0x048 => match t with | some t => r32 t.gen | none => 0
  | 0x04C => match t with | some t => fld 0 11 t.scanUs | none => 0
  | 0x050 => match t with | some t => fld 0 20 t.cost | none => 0
  | 0x054 => match t with | some t => regOf [fld 16 1 t.minVariant, fld 0 11 t.blocks.length] | none => 0
  | 0x078 => regOf [fld 8 3 l.causePhase, fld 5 2 l.causeChan, fld 0 5 l.cause]
  | 0x07C => l.tripEpoch
  | 0x088 => l.tripSet
  | 0x08C => r32 l.tripCount
  | 0x090 => match t with | some t => fld 0 16 (2 * t.scanUs + 50) | none => 0
  | _ => 0

/-- Table DHD-9. -/
def readTab (off : Nat) (s : State) : Word32 :=
  let t := s.tab
  match off with
  | 0x00C => regOf [flag 7 t.split, fld 4 3 t.phase, flag 3 t.cmpFail, flag 2 t.injDone]
  | 0x040 => r32 t.framesAB
  | 0x044 => r32 t.framesBA
  | 0x048 => match t.failInfo with | some v => v ||| flag 31 true | none => 0
  | 0x04C => t.failEpoch
  | 0x050 => fld 0 9 t.injFail.toNat
  | 0x054 => regOf [fld 16 16 (min 0xFFFF t.pinjRounds), fld 0 7 t.pinjBit]
  | _ => 0

/-- Table DHD-8. -/
def readDhd (off : Nat) (s : State) : Word32 :=
  let d := s.dhd
  match off with
  | 0x00C => regOf [fld 8 2 (if d.split then 0 else 2), flag 4 d.split, flag 3 d.cmpFail, flag 2 d.frozen, flag 1 d.injDone, flag 0 (lockstepReport s)]
  | 0x040 => match d.mism with | some (p, g, _, _) => regOf [flag 31 true, flag 30 p, fld 0 6 g] | none => 0
  | 0x044 => match d.mism with | some (_, _, a, _) => fld 0 16 a.toNat | none => 0
  | 0x048 => match d.mism with | some (_, _, _, b) => fld 0 16 b.toNat | none => 0
  | 0x05C => regOf [fld 16 16 (min 0xFFFF d.pinjRounds), fld 4 6 d.pinjGroup, fld 0 4 d.pinjBit]
  | 0x060 => fld 0 20 d.tickLast
  | 0x064 => fld 0 20 d.tickMin
  | 0x068 => fld 0 20 d.tickMax
  | 0x06C => fld 0 16 d.haltRefused
  | _ => 0

/-- OWN_INFO of the resource OWN_SEL names (Table TBL-7). -/
def ownInfo (s : State) : Word32 :=
  let kind := bits s.tbl.ownSel 8 3
  let index := bits s.tbl.ownSel 0 7
  let o := ownerOf s kind index
  let entry := if o = .table then (claimEntry (s.tbl.claims.getD []) kind index).getD 0 else 0
  regOf [fld 8 16 entry, flag 2 (o == .table && hostAccess s kind index), fld 0 2 (ownerCode o)]

/-- Table TBL-7. -/
def readTbl (off : Nat) (s : State) : Word32 :=
  let t := s.tbl
  if 0x074 ≤ off ∧ off ≤ 0x07C then bitReg 32 fun i => t.xsHeld.getLsbD (32 * ((off - 0x074) / 4) + i) else
  match off with
  | 0x00C => regOf [flag 3 (t.xsHeld != 0), flag 2 (t.claimBusy || checkRunsNow s), flag 1 t.active, flag 0 t.claims.isSome]
  | 0x040 => regOf [fld 8 10 t.frame, fld 0 8 t.period]
  | 0x044 => t.hclaim
  | 0x048 => regOf [flag 31 t.hclaimDone, fld 0 8 t.hclaimResult]
  | 0x04C => t.ownSel
  | 0x050 => ownInfo s
  | 0x054 => match t.conflict with | some (e, c, _) => regOf [flag 31 true, fld 8 16 e, fld 0 8 c] | none => 0
  | 0x058 => match t.conflict with | some (_, _, k, i, o) => regOf [fld 16 2 o, fld 8 3 k, fld 0 7 i] | none => 0
  | 0x05C => bitReg 32 fun c => ownerOf s 2 c != .free
  | 0x060 => bitReg 32 fun c => ownerOf s 2 c == .host
  | 0x064 => regOf [(bitReg 8 fun n => ownerOf s 3 n == .host) <<< 8, bitReg 8 fun n => ownerOf s 3 n != .free]
  | 0x068 => match t.fail with | some f => regOf [flag 31 true, fld 16 3 f.use, fld 8 7 f.pin, fld 0 4 f.code] | none => 0
  | 0x080 => r32 t.done
  | 0x084 => r32 t.voids
  | 0x088 => r32 t.demandRb
  | 0x08C => regOf [flag 31 t.overdueValid, fld 16 8 t.overdueCnt, fld 8 7 t.overduePin, fld 0 3 t.overdueUse]
  | 0x090 => regOf [flag 31 t.captValid, fld 24 7 t.captPin, flag 23 t.captEdge, flag 22 t.captCoarse, flag 21 t.captTimeout, fld 8 8 t.captSeq.toNat, fld 0 8 t.captDelay]
  | _ => 0

/-! ## Tiles -/

/-- FRAME_ERR of a stream. -/
def frameErr (t : Stream) : Word32 := regOf [fld 16 16 (min 0xFFFF t.aliveErr), fld 0 16 (min 0xFFFF t.crcErr)]

/-- EDGE_INFO. -/
def edgeInfo (l : Link) : Word32 := regOf [fld 16 16 (min 0xFFFF l.lost), fld 0 6 l.fifo.length]

/-- Tables FT-9 and FT-18. -/
def readFt (p off : Nat) (s : State) : Word32 :=
  let l := linkOf s p
  let f := l.a.last
  if 0x040 ≤ off ∧ off ≤ 0x07C then vGet l.cfg ((off - 0x040) / 4) 0 else
  match off with
  | 0x00C => regOf [flag 11 (cfgMatches p l), flag 10 f.tileOvl, flag 9 f.tempOff, flag 8 f.wdogHold, fld 6 2 (bandCode f.band), flag 5 f.needRearm,
      fld 3 2 (supplyCode f.supply), flag 2 f.fresh, flag 1 l.up, flag 0 (tilePresent s.variant p)]
  | 0x080 => regOf [fld 16 16 f.stB.toNat, fld 0 16 f.stA.toNat]
  | 0x084 => regOf [fld 16 16 f.rb.toNat, fld 0 16 f.valid.toNat]
  | 0x088 => regOf [fld 16 16 f.ovl.toNat, fld 0 16 f.applied.toNat]
  | 0x08C => fld 0 12 f.volt.toNat
  | 0x094 => fld 0 10 l.dly
  | 0x098 => frameErr l.a
  | 0x09C => edgeInfo l
  | 0x0A0 => fld 0 8 f.temp.toNat
  | 0x0A4 => cfgCrcShown p l
  | 0x0A8 => f.cfgCrc
  | _ => 0

/-- Tables FT-16 and FT-19. TEMP reports the hotter side (R222). -/
def readSot (p off : Nat) (s : State) : Word32 :=
  let l := linkOf s p
  let a := l.a.last
  let b := l.b.last
  if 0x040 ≤ off ∧ off ≤ 0x05C then vGet l.cfg ((off - 0x040) / 4) 0 else
  match off with
  | 0x00C => regOf [flag 12 (cfgMatches p l), flag 11 (a.tempOff || b.tempOff), flag 10 b.wdogHold, flag 9 a.wdogHold, fld 7 2 (bandCode (linkBand p l)),
      flag 6 (a.needRearm || b.needRearm), fld 4 2 (supplyCode (linkSupply p l)), flag 3 b.fresh, flag 2 a.fresh, flag 1 l.up, flag 0 (tilePresent s.variant p)]
  | 0x060 => regOf [fld 24 8 b.stB.toNat, fld 16 8 a.stB.toNat, fld 8 8 b.applied.toNat, fld 0 8 a.applied.toNat]
  | 0x064 => regOf [fld 16 8 (a.supp ||| b.supp).toNat, fld 8 8 b.stA.toNat, fld 0 8 a.stA.toNat]
  | 0x068 => regOf [fld 16 12 b.volt.toNat, fld 0 12 a.volt.toNat]
  | 0x070 => fld 0 10 l.dly
  | 0x074 => frameErr l.a
  | 0x078 => frameErr l.b
  | 0x07C => edgeInfo l
  | 0x080 => fld 0 8 (if a.temp.toInt ≥ b.temp.toInt then a.temp else b.temp).toNat
  | 0x084 => cfgCrcShown p l
  | 0x088 => a.cfgCrc
  | 0x08C => b.cfgCrc
  | _ => 0

/-! ## Check units, the store, the boot window -/

/-- Table FCR-10. -/
def readCrc (n off : Nat) (s : State) : Word32 :=
  let u := crcOf s n
  match off with
  | 0x008 => flag 1 u.cmpEn
  | 0x00C => regOf [fld 4 2 u.err.toNat, flag 3 (decide (n < 2)), flag 2 u.isMatch, flag 1 u.done, flag 0 u.busy]
  | 0x040 => fld 0 30 u.addr.toNat
  | 0x044 => fld 0 30 u.length.toNat
  | 0x048 => u.expect
  | 0x04C => u.result
  | _ => 0

/-- Table STO-19. BW_RD and BW_WR measure traffic in time and are free values of the register read. -/
def readSto (off : Nat) (s : State) : Word32 :=
  let t := s.sto
  match off with
  | 0x008 => flag 0 t.scrubEn
  | 0x00C => regOf [flag 10 ((vGet t.spare 1 none).isSome), flag 9 ((vGet t.spare 0 none).isSome), flag 8 (vGet t.ptPending 0 false || vGet t.ptPending 1 false), flag 7 t.ptDefault, fld 6 1 t.ptCopy, flag 5 t.degraded,
      flag 4 ((vGet t.migr 0 none).isSome || (vGet t.migr 1 none).isSome), flag 3 t.parked, flag 2 t.mapOk, flag 1 (vGet t.ptOk 1 false), flag 0 (vGet t.ptOk 0 false)]
  | 0x040 => t.ptGen
  | 0x044 => regOf [flag 8 t.ptCmdCopy, fld 0 4 t.ptOp.toNat]
  | 0x048 => fld 0 8 t.ptResult
  | 0x04C => fld 0 4 t.partSel.toNat
  | 0x050 => partInfo t
  | 0x054 => fld 0 16 t.scrubPeriod.toNat
  | 0x058 => regOf [fld 16 16 (min 0xFFFF t.scrubPasses), fld 0 14 t.scrubIngot]
  | 0x05C => r32 t.corr
  | 0x060 => r32 t.uncorr
  | 0x064 => match t.uncorrAddr with | some (r, a) => regOf [flag 31 true, flag 30 r, fld 0 30 a] | none => 0
  | 0x068 => t.bankIso
  | 0x06C => fld 0 19 (vGet t.migrPos t.migrDie 0)
  | 0x070 => regOf [fld 16 6 (32 - (t.atomics.map fun a => a.targets.length).sum), fld 0 5 t.atomics.length]
  | _ => 0

/-- STATE of Table STO-20. -/
def bootStCode : BootState → Nat
  | .selecting => 0 | .loading => 1 | .serving => 2 | .released => 3 | .noImage => 4

/-- Table STO-20. -/
def readBoot (off : Nat) (s : State) : Word32 :=
  let b := s.boot
  match off with
  | 0x00C => regOf [fld 8 3 (bootStCode b.st), flag 7 b.hashErr, flag 6 b.ifmode, flag 5 b.slot, flag 4 b.trial, flag 3 (bootWip b), flag 2 b.okB, flag 1 b.okA, flag 0 b.lock]
  | 0x040 => b.cmd
  | 0x044 => fld 0 8 b.result
  | 0x048 => regOf [flag 20 b.record.prefer, fld 16 2 (match b.record.trial with | none => 3 | some x => if x then 1 else 0), fld 8 4 b.record.tries, flag 6 b.record.ifmode, fld 0 5 b.record.dummy]
  | 0x04C => b.record.minSvn
  | 0x050 => match b.manifest with | some m => m.svn | none => 0
  | 0x054 => match b.manifest with | some m => r32 m.imageLen | none => 0
  | 0x058 => fld 0 16 (min 0xFFFF b.firstByteUs)
  | 0x064 => r32 b.miss
  | 0x068 => match b.hashFail with | some n => regOf [flag 31 true, fld 0 11 n] | none => 0
  | _ => 0

/-! ## The Brake van and the host interfaces -/

/-- STATE of Table JRN-13. -/
def jrnCode : JrnState → Nat
  | .recovering => 0 | .running => 1 | .sealing => 2 | .sealed => 3

/-- Table JRN-13. -/
def readJrn (off : Nat) (s : State) : Word32 :=
  let j := s.jrn
  match off with
  | 0x00C => regOf [flag 7 j.provisional, flag 6 (j.meas != .idle), flag 5 j.cValid, flag 4 (j.k == 4194304), flag 3 (j.st != .recovering && decide (occHost j + occSys j ≤ j.k)), fld 0 3 (jrnCode j.st)]
  | 0x058 => lo32 j.sealWatch
  | 0x05C => hi32 j.sealWatch
  | 0x060 => fld 0 6 j.window.toNat
  | 0x064 => fld 0 6 j.lossy.toNat
  | 0x068 => fld 0 23 (occHost j)
  | 0x06C => fld 0 23 (occSys j)
  | 0x070 => fld 0 23 j.k
  | 0x074 => fld 0 12 j.holdV
  | 0x078 => fld 0 16 j.cMeas
  | 0x07C => fld 0 16 j.esr
  | 0x080 => fld 0 24 j.eAvail
  | 0x084 => fld 0 16 j.holdPeriod.toNat
  | 0x088 => r32 j.qfull
  | 0x08C => r32 j.drops
  | 0x090 => r32 j.dropBytes
  | 0x094 => r32 j.uncov
  | 0x098 => regOf [fld 16 16 (min 0xFFFF j.damaged), fld 0 3 j.outcome]
  | 0x09C => fld 0 16 j.sealMaxUs
  | 0x0A0 => j.anchorNo
  | _ => 0

/-- STATE of Table HIF-9. -/
def sqCode : SqState → Nat
  | .disabled => 0 | .running => 1 | .draining => 2 | .error => 3

/-- A queue block of Table HIF-12; the bases are `loQuantity`. -/
def readQueue (q r : Nat) (s : State) : Word32 :=
  let x := sqOf s q
  match r with
  | 0x10 => qCfg x
  | 0x14 => fld 0 12 x.tail.toNat
  | 0x18 => fld 0 12 x.cqHead.toNat
  | 0x1C => regOf [fld 16 9 (inflightOf s q), fld 4 4 x.err.toNat, fld 0 2 (sqCode x.st)]
  | 0x20 => regOf [fld 8 8 x.coalTime.toNat, fld 0 8 x.coalCount.toNat]
  | 0x24 => regOf [fld 16 12 x.cqTail.toNat, fld 0 12 x.head.toNat]
  | _ => 0

/-- A word of the MSI-X table. -/
def readMsix (off : Nat) (s : State) : Word32 :=
  let e := vGet s.pcie.msix ((off - 0x800) / 16) {}
  match off % 16 / 4 with
  | 0 => e.addr
  | 1 => e.upper
  | 2 => e.data
  | _ => e.ctrl

/-- Device ID of the fitted variant (Table HIF-3). -/
def deviceId (v : Variant) : Nat := match v with | .gw968 => 0x0968 | .gw488 => 0x0488

/-- Table HIF-12. -/
def readPcie (off : Nat) (s : State) : Word32 :=
  let p := s.pcie
  if 0x800 ≤ off ∧ off < 0xA00 then readMsix off s
  else if 0x100 ≤ off ∧ off < 0x200 then readQueue ((off - 0x100) / 0x40) ((off - 0x100) % 0x40) s
  else if 0x060 ≤ off ∧ off ≤ 0x07C then bitReg 32 fun i => evtPend s (32 * ((off - 0x060) / 4) + i) != 0
  else
    match off with
    | 0x00C => regOf [flag 7 p.msixEn, flag 6 p.bme, fld 4 2 p.width.toNat, fld 1 3 p.speed.toNat, flag 0 p.linkUp]
    | 0x040 => regOf [fld 16 16 Config.vendorId.toNat, fld 0 16 (deviceId s.variant)]
    | 0x044 => fld 0 9 (inflight s)
    | 0x048 => regOf [flag 8 p.evtIen, fld 0 5 p.evtVec.toNat]
    | 0x050 => r32 p.bar2Unbacked
    | 0x054 => r32 p.discardCpl
    | 0xC00 => p.pba
    | _ => 0

/-- Table HIF-15. -/
def readMgt (off : Nat) (s : State) : Word32 :=
  let m := s.mgt
  if 0x080 ≤ off ∧ off ≤ 0x0BC then vGet m.mbxDesc ((off - 0x080) / 4) 0
  else if 0x0C4 ≤ off ∧ off ≤ 0x0D0 then vGet m.mbxCpl ((off - 0x0C4) / 4) 0
  else if 0x800 ≤ off then smGetD m.mbxData ((off - 0x800) / 4) 0
  else
    match off with
    | 0x00C => regOf [flag 1 m.mbxBusy, flag 0 m.mode3]
    | 0x040 => r32 m.frames
    | 0x044 => r32 m.crcErrs
    | 0x048 => r32 m.aborts
    | 0x04C => fld 0 8 m.lastStat.toNat
    | 0x050 => r32 s.uart.drop
    | _ => 0

/-! ## The fault collector and the blocks beside it -/

/-- SRC_STAT of a source (Table FCR-11). -/
def srcStat (s : State) (n : Nat) : Word32 :=
  let x := srcOf s n
  regOf [fld 24 8 x.c, fld 4 2 (effClass x), fld 2 2 x.pending, flag 1 (decide (0 < x.promo)), flag 0 ((srcDef s.variant n).isSome && srcExists s.variant n)]

/-- Sources 32k to 32k + 31 PENDING at a class. -/
def pendWord (s : State) (cls k : Nat) : Word32 := bitReg 32 fun q => (srcOf s (32 * k + q)).pending == cls

/-- Table FCR-11. -/
def readFcr (off : Nat) (s : State) : Word32 :=
  let f := s.fcr
  if 0x060 ≤ off ∧ off ≤ 0x09C then pendWord s 2 ((off - 0x060) / 4)
  else if 0x0A0 ≤ off ∧ off ≤ 0x0DC then pendWord s 3 ((off - 0x0A0) / 4)
  else if 0x0E8 ≤ off ∧ off ≤ 0x104 then areaWord f.hqData ((off - 0x0E8) / 4)
  else if 0x108 ≤ off ∧ off ≤ 0x124 then (match f.ff with | some e => areaWord (histBytes e) ((off - 0x108) / 4) | none => 0)
  else
    match off with
    | 0x00C => regOf [flag 8 f.ff.isSome, flag 7 f.errn, flag 6 (fatalPend s), flag 5 (contPend s)]
    | 0x040 => fld 0 9 f.srcSel.toNat
    | 0x044 => if (srcDef s.variant f.srcSel.toNat).isSome && srcExists s.variant f.srcSel.toNat then srcCfgWord (srcOf s f.srcSel.toNat) else 0
    | 0x048 => srcStat s f.srcSel.toNat
    | 0x04C => r32 (srcOf s f.srcSel.toNat).cnt
    | 0x050 => fld 0 9 f.ackSource.toNat
    | 0x054 => fld 0 9 f.promoSource.toNat
    | 0x0E0 => f.total
    | 0x0E4 => fld 0 5 f.hqSel.toNat
    | _ => 0

/-- The largest abort counter (R402). -/
def abortMax (a : Ast) : Nat := a.aborts.foldl (fun m e => max m e.2) 0

/-- Table AST-5. -/
def readAst (off : Nat) (s : State) : Word32 :=
  let a := s.ast
  if 0x04C ≤ off ∧ off ≤ 0x058 then maskWord a.unusable ((off - 0x04C) / 4) else
  match off with
  | 0x008 => regOf [flag 1 a.stoEn, flag 0 a.perEn]
  | 0x00C => regOf [flag 10 (limitsOk s), flag 9 a.deferred, flag 8 a.runBlock, fld 5 2 a.set, fld 0 5 a.test]
  | 0x040 => fld 0 5 a.testSel.toNat
  | 0x044 =>
    let n := a.testSel.toNat
    if 1 ≤ n ∧ n ≤ 16 then (let r := vGet a.results (n - 1) {}; regOf [fld 28 4 r.result, fld 10 18 (min 262143 r.us), fld 0 10 (coverage n)]) else 0
  | 0x048 => match a.failInfo with | some (t, i) => regOf [flag 31 true, fld 20 5 t, fld 0 20 i] | none => 0
  | 0x05C => fld 0 8 a.unusableTiles.toNat
  | 0x060 => regOf [fld 16 8 a.stoInt.toNat, fld 0 16 a.pinSlot.toNat]
  | 0x064 => regOf [fld 16 16 (min 0xFFFF a.rounds), flag 7 a.pathB, fld 0 7 a.pin]
  | 0x068 => regOf [fld 16 5 (min 31 (abortMax a)), fld 0 16 (min 0xFFFF a.abortTotal)]
  | 0x06C => regOf [fld 18 14 (min 16383 a.passes), fld 0 18 (a.segs.toList.foldl min 262143)]
  | 0x070 => r32 a.skips
  | _ => 0

/-- STATE of a row (Table TCH-10). -/
def rowCode : RowSt → Nat
  | .blank => 0 | .good => 1 | .marginal => 2 | .invalid => 3

/-- ROW_STATE of a main row. -/
def rowState (s : State) (n : Nat) : Word32 :=
  let x := shadowOf s n
  regOf [flag 8 x.ovr.isSome, fld 4 4 (x.spare.getD 0), flag 3 x.spare.isSome, fld 0 3 (rowCode x.st)]

/-- Table TCH-10. -/
def readTch (off : Nat) (s : State) : Word32 :=
  let t := s.tch
  let c := smGet t.cal t.calSel.toNat
  if 0x044 ≤ off ∧ off ≤ 0x050 then vGet t.data ((off - 0x044) / 4) 0
  else if 0x058 ≤ off ∧ off ≤ 0x064 then maskWord t.rdData ((off - 0x058) / 4)
  else
    match off with
    | 0x00C => regOf [flag 14 t.noSpare, flag 13 (!t.moves.isEmpty), flag 12 (progWindow s), flag 11 t.run.isSome, flag 10 t.marginDone, fld 8 2 t.userCal.toNat, flag 7 t.calDefault,
        flag 6 (t.shadow.any fun e => e.2.ovr.isSome), flag 5 t.incomplete, flag 4 t.manOk, fld 0 4 t.flags.toNat]
    | 0x040 => t.cmd
    | 0x054 => fld 0 8 t.result
    | 0x068 => t.rdStat
    | 0x06C => fld 0 9 t.rowSel.toNat
    | 0x070 => rowState s t.rowSel.toNat
    | 0x074 => regOf [fld 16 7 (blankEntries s).length, bitReg 16 fun i => !(spareFree s i)]
    | 0x078 => regOf [fld 24 8 (min 255 t.progFails), fld 16 8 t.badEntry, fld 8 8 (min 255 t.nInvalid), fld 0 8 (min 255 t.nMarginal)]
    | 0x07C => regOf [flag 31 t.manChecked, fld 28 3 t.manReason, fld 0 9 t.manRow]
    | 0x080 => fld 0 16 t.calSel.toNat
    | 0x084 => match c with | some v => regOf [flag 31 v.dflt, flag 30 v.clamped, fld 0 16 (BitVec.ofInt 16 v.e).toNat] | none => 0
    | 0x088 => match c with | some v => regOf [fld 16 16 (BitVec.ofInt 16 v.u).toNat, fld 0 16 (BitVec.ofInt 16 v.f).toNat] | none => 0
    | _ => 0

/-- Table HMK-14. -/
def readHmk (off : Nat) (s : State) : Word32 :=
  let h := s.hmk
  if 0x04C ≤ off ∧ off ≤ 0x068 then (if h.idOk then areaWord h.idPk ((off - 0x04C) / 4) else 0)
  else if 0x070 ≤ off ∧ off ≤ 0x08C then areaWord h.measData ((off - 0x070) / 4)
  else
    match off with
    | 0x00C => regOf [fld 9 3 (hmkOp h), fld 7 2 h.rootGen.toNat, flag 6 h.rootOk, flag 5 h.katOk, flag 4 h.idOk, flag 3 h.patchCopy, flag 2 h.patch, fld 0 2 (h.atts.length - 1)]
    | 0x040 => regOf ((List.range 4).map fun k => let x := vGet h.slots k {}; regOf [flag (4 * k + 2) x.key.isSome, fld (4 * k) 2 (match x.st with | .empty => 0 | .active => 1 | .revoked => 2 | .invalid => 3)])
    | 0x06C => fld 0 3 h.measSel.toNat
    | 0x090 => h.patchGen
    | 0x094 => match h.reject with | some v => v ||| flag 31 true | none => 0
    | 0x098 => r32 h.verifies
    | 0x09C => r32 h.rejects
    | 0x0A0 => h.attests
    | 0x0A4 => fld 0 16 (min 0xFFFF h.verifyMaxUs)
    | _ => 0

/-- WCFG as it reads. -/
def watchWord (w : Watch) : Word32 := regOf [flag 7 w.wake, flag 6 w.log, fld 4 2 w.trig.toNat, flag 3 w.filt5, flag 2 w.inv, flag 0 w.en]

/-- Table LMN-5. -/
def readLmn (off : Nat) (s : State) : Word32 :=
  let l := s.lmn
  let w := fun (i : Nat) => vGet l.watch i {}
  if 0x040 ≤ off ∧ off ≤ 0x05C then watchWord (w ((off - 0x040) / 4))
  else if 0x08C ≤ off ∧ off ≤ 0x098 then maskWord l.entry ((off - 0x08C) / 4)
  else
    match off with
    | 0x00C => regOf [flag 13 l.aligned, flag 12 (!l.writes.isEmpty), flag 11 l.cold, flag 10 l.wakeOut, flag 9 l.vLow, fld 0 9 l.log.length]
    | 0x060 => fld 0 7 l.rate.toNat
    | 0x064 => regOf [(bitReg 8 fun i => (w i).level.isSome) <<< 8, bitReg 8 fun i => (w i).level == some true]
    | 0x080 => r32 l.lseq
    | 0x084 => fld 0 16 (min 0xFFFF l.lost)
    | 0x088 => fld 0 8 l.entrySel.toNat
    | _ => 0

/-! ## The EPOCH window (R338, R339, Table HIF-13) -/

/-- The buffer an interface has pinned. -/
def pinnedBuf (s : State) (i : Iface) : Option EpochBuf :=
  match vGet s.ep.pins (ifaceNo i) none with
  | some k => vGet s.ep.bufs k none
  | none => none

/-- Pages EP00 to EP15 beyond their headers. -/
def readEp (i : Iface) (p off : Nat) (s : State) : Word32 :=
  if p = 0x30 ∧ off = 0x00C then regOf [flag 31 (pinnedBuf s i).isSome, fld 0 2 (ifaceNo i)] else
  match pinnedBuf s i with
  | none => 0
  | some b =>
    if p = 0x30 then
      (if 0x100 ≤ off ∧ off ≤ 0xBCC then wordAt b.body (off - 0x100)
       else match off with
        | 0x040 => b.epoch
        | 0x04C => b.crc
        | _ => 0)
    else if 0x31 ≤ p ∧ p ≤ 0x38 ∧ 0x040 ≤ off ∧ off ≤ 0x084 then wordAt (lGet b.frames (p - 0x31) []) (off - 0x040)
    else 0

/-! ## Any register -/

/-- The header registers of Table HIF-1, except CTRL and STATUS; ERR_INJ reads 0 on a page without a port because nothing is ever written there. -/
def readHdr (p off : Nat) (s : State) : Word32 :=
  let h := hdr s p
  match off with
  | 0x000 => pageId s.variant p
  | 0x004 => 0x00000100
  | 0x010 => h.evtRaw
  | 0x014 => h.evtEn
  | 0x018 => evtPend s p
  | 0x01C => regOf [flag 31 (h.injCount != 0), fld 16 12 h.injMask.toNat, fld 0 4 h.injCount.toNat]
  | 0x020 => regOf [fld 20 12 h.errOff.toNat, fld 18 2 (ifaceNo h.errIface), fld 0 5 h.errStat.toNat]
  | _ => 0

/-- The page's own registers, by the kind of the page. -/
def readPage (i : Iface) (p off : Nat) (s : State) : Word32 :=
  match pageKind s.variant p with
  | .sys => readSys off s
  | .rst => readRst off s
  | .pwr => readPwr off s
  | .clkg => readClkg off s
  | .tbase => readTbase off s
  | .tmr => readTmr off s
  | .ilk => readIlk (if p = 0x08 then .a else .b) off s
  | .ilkl => readIlkl off s
  | .tab => readTab off s
  | .dhd => readDhd off s
  | .tbl => readTbl off s
  | .ft => readFt (p - 0x10) off s
  | .sot => readSot (p - 0x12) off s
  | .crc => readCrc (p - 0x1C) off s
  | .sto => readSto off s
  | .jrn => readJrn off s
  | .boot => readBoot off s
  | .pcie => readPcie off s
  | .mgt => readMgt off s
  | .fcr => readFcr off s
  | .ast => readAst off s
  | .tch => readTch off s
  | .hmk => readHmk off s
  | .lmn => readLmn off s
  | .ep => readEp i p off s
  | .absent => 0

/-- The 64-bit quantity whose low half stands at an offset (R22), none elsewhere. SEAL_WATCH is not one: both its halves read the value in force (Table JRN-13). -/
def loQuantity (i : Iface) (p off : Nat) (s : State) : Option Nat :=
  match pageKind s.variant p with
  | .sys => if off = 0x050 then some s.sys.epochTime else none
  | .tbase =>
    if off = 0x040 then some s.tb.counter
    else if off = 0x048 then some s.tb.snapTime
    else if 0x100 ≤ off ∧ off < 0x500 ∧ off % 0x20 = 0x08 then some (chanOf s ((off - 0x100) / 0x20)).cmp.toNat
    else if 0x100 ≤ off ∧ off < 0x500 ∧ off % 0x20 = 0x10 then some (chanOf s ((off - 0x100) / 0x20)).matchTime.toNat
    else none
  | .ilkl => if off = 0x080 then some s.ilkl.tripTime else none
  | .dhd => if off = 0x04C then some s.dhd.mismTime else if off = 0x054 then some s.dhd.injFail.toNat else none
  | .tbl => if off = 0x06C then some (match s.tbl.fail with | some f => f.time | none => 0) else none
  | .boot => if off = 0x05C then some s.boot.served else none
  | .jrn => if off = 0x040 then some s.jrn.nextSeq else if off = 0x048 then some s.jrn.sealedSeq else if off = 0x050 then some s.jrn.oldestSeq else none
  | .pcie =>
    if 0x100 ≤ off ∧ off < 0x200 ∧ off % 0x40 = 0 then some (sqOf s ((off - 0x100) / 0x40)).sqBase.toNat
    else if 0x100 ≤ off ∧ off < 0x200 ∧ off % 0x40 = 0x08 then some (sqOf s ((off - 0x100) / 0x40)).cqBase.toNat
    else none
  | .ep => if p = 0x30 ∧ off = 0x044 then some (match pinnedBuf s i with | some b => b.time | none => 0) else none
  | .fcr => if off = 0x128 then some (watermark s) else none
  | .hmk => if off = 0x044 then some ((shadowOf s 16).value.toNat % 2 ^ 64) else none
  | .lmn => if off = 0x068 then some s.lmn.counter else if off = 0x070 then some s.lmn.alignL else if off = 0x078 then some s.lmn.alignT else none
  | .pwr => if off = 0x064 then some s.pwr.switchTime else none
  | _ => none

/-- A high half: its low half stands one register below. -/
def isHiHalf (i : Iface) (p off : Nat) (s : State) : Bool := decide (4 ≤ off) && (loQuantity i p (off - 4) s).isSome

/-! ## Read ports (R344, R345, R365, R366, R387) -/

/-- The read port a register read goes through: the page whose ERR_INJ acts on it, and its sources of a corrected and of an uncorrectable word. -/
def readPortOf (i : Iface) (p off : Nat) (s : State) : Option (Nat × Option Nat × Option Nat) :=
  match pageKind s.variant p with
  | .tbase => if off = 0x040 ∨ off = 0x048 ∨ (0x100 ≤ off ∧ off < 0x500 ∧ off % 0x20 = 0x10) then some (pgTbase, none, none) else none
  | .tmr => if 0x100 ≤ off ∧ off < 0x200 ∧ off % 0x20 = 0x08 then some (pgTmr, none, none) else none
  | .mgt => if 0x800 ≤ off then some (pgMgt, none, some 0x0A6) else none
  | .ep =>
    if (pinnedBuf s i).isNone ∨ off < 0x040 then none
    else if (p = 0x30 ∧ (off ≤ 0x04C ∨ (0x100 ≤ off ∧ off ≤ 0xBCC))) ∨ (0x31 ≤ p ∧ p ≤ 0x38 ∧ off ≤ 0x084) then some (0x30, some 0x043, some 0x044)
    else none
  | _ => none

/-- A report where the port has a source for it and a word was read. -/
def reportPort (src : Option Nat) (page addr : Nat) (r : ReadOut) (s : State) : State :=
  if r.isolated then s else
  match src with
  | some n => reportAs { src := n, synd := r.synd, detail := addr, page := page, injected := r.injected } s
  | none => s

/-- A register read goes through its read port: false where the word is uncorrectable. -/
def throughPort (i : Iface) (p off : Nat) (s : State) : Bool × State :=
  match readPortOf i p off s with
  | none => (true, s)
  | some (pg, corr, unc) =>
    let r := readRetry pg 0 .good s
    let addr := if 0x800 ≤ off ∧ pg = pgMgt then (off - 0x800) / 16 else if p = 0x30 ∧ 0x100 ≤ off then (off - 0x100) / 16 else off / 16
    match r.1.check with
    | .good => (true, r.2)
    | .uncorrectable => (false, reportPort unc pg addr r.1 r.2)
    | .single _ => (true, reportPort corr pg addr r.1 r.2)
    | .adjacent _ => (true, reportPort corr pg addr r.1 r.2)

/-! ## The read -/

/-- A value read, and whether the word behind it is uncorrectable. -/
structure RegVal where
  v : Word32
  unc : Bool := false
  deriving DecidableEq, Repr

/-- EPOCH_OPEN (R336, R57): the latest buffer is pinned for the interface, in place of any it holds; 0 where no scan has committed. -/
def epochOpen (i : Iface) (s : State) : Word32 × State :=
  match s.ep.latest with
  | none => (0, s)
  | some k =>
    match vGet s.ep.bufs k none with
    | none => (0, s)
    | some b => (b.epoch, { s with ep := { s.ep with pins := vSet s.ep.pins (ifaceNo i) (some k) } })

/-- EPOCH_CLOSE (R336). -/
def epochClose (i : Iface) (s : State) : State := releasePin (ifaceNo i) s

/-- The count that TIME captures (R349): the counter 2 to 4 CLK_TB cycles after the read reached the page. Which of the three the spec leaves open (log 2). -/
def timeCapture (q : Nat) (s : State) : Nat × State :=
  if s.tb.running then (let r := drawFree s; (q + 2 + r.1.toNat % 3, r.2)) else (q, s)

/-- The value of a register and what reading it changes (R22, R336, R349, R362). -/
def regReadValue (i : Iface) (p off : Nat) (s : State) : Word32 × State :=
  match loQuantity i p off s with
  | some q =>
    let c := if p = pgTbase ∧ off = 0x040 then timeCapture q s else (q, s)
    (lo32 c.1, { c.2 with latch := smSet c.2.latch (latchKey i p (off + 4)) (hi32 c.1) })
  | none =>
    if isHiHalf i p off s then (smGetD s.latch (latchKey i p off) 0, s)
    else if p = pgSys ∧ off = 0x058 then epochOpen i s
    else if p = pgTmr ∧ 0x100 ≤ off ∧ off < 0x200 ∧ off % 0x20 = 0x08 then timerCountRead i ((off - 0x100) / 0x20) s
    else if p = pgSto ∧ (off = 0x074 ∨ off = 0x078) then (let r := drawFree s; (r.1 &&& 0xFFFF, r.2))
    else (readPage i p off s, s)

/-- Any access to a page cancels its key (R19). -/
def cancelKey (p : Nat) (s : State) : State := updHdr p (fun h => { h with key := none }) s

/-- A read of the register at an offset of a page, by an interface: any access to the page cancels its key (R19); offsets 0x000 to 0x027 are the header (R313); a fenced block answers a value the spec does not give (log 32). -/
def regRead (i : Iface) (p off : Nat) (s : State) : RegVal × State :=
  if !(pagePresent s.variant p) then ({ v := 0 }, s)
  else
    let s := cancelKey p s
    if pageFenced s p then (let r := drawFree s; ({ v := r.1 }, r.2))
    else if off < 0x028 ∧ off ≠ 0x008 ∧ off ≠ 0x00C then ({ v := readHdr p off s }, s)
    else if 0x028 ≤ off ∧ off < 0x040 then ({ v := 0 }, s)
    else
      let t := throughPort i p off s
      if t.1 then (let r := regReadValue i p off t.2; ({ v := r.1 }, r.2)) else ({ v := 0, unc := true }, t.2)

/-- What a read answers, with HQ_DATA's capture of an uncorrectable word (R387). -/
def regReadFull (i : Iface) (p off : Nat) (s : State) : RegVal × State :=
  let r := regRead i p off s
  if p = pgFcr ∧ 0x0E8 ≤ off ∧ off ≤ 0x104 ∧ s.fcr.hqUnc then ({ r.1 with unc := true }, r.2) else r

end Sys2Proof.Machine
end

