-- ==== Sys2Proof/Machine/RegWrite.lean ====
section
/-! DEFINITION. The write of one register by a host interface: the key sequence, the page header, the access codes of each field, and what the page does with the value (R19 to R21, R242, R313, R315, R345, R385). -/

namespace Sys2Proof.Machine

/-! ## The page's own registers -/

/-- CTRL of an evaluator page (Table ILK-17). -/
def ilkCtrlWrite (c : Chan) (v : Word32) (s : State) : State :=
  let s := if bitOf v 0 then updIlk c (fun k => { k with phaseMax := Vector.replicate 6 0 }) s else s
  if bitOf v 1 then updIlk c (fun k => { k with divCount := 0, divInfo := none }) s else s

/-- Pages ILKA and ILKB. -/
def writeIlk (c : Chan) (off : Nat) (v : Word32) (s : State) : State :=
  match off with
  | 0x008 => ilkCtrlWrite c v s
  | 0x058 => updIlk c (fun k => { k with phaseSel := BitVec.ofNat 3 (bits v 0 3) }) s
  | _ => s

/-- Page TBL. -/
def writeTbl (off : Nat) (v : Word32) (s : State) : State :=
  match off with
  | 0x008 =>
    let s := if bitOf v 1 then xsClr s else s
    if bitOf v 0 then tblCntClr s else s
  | 0x044 => hclaimWrite v (s.tbl.claimBusy || checkRunsNow s) { s with free := s.free + 1 }
  | 0x04C => { s with tbl := { s.tbl with ownSel := v } }
  | _ => s

/-- Pages FT0 to FT5, SOT0 and SOT1: the position, and the offset of SUPPLY_CTRL. -/
def writeTile (i : Iface) (p rearm off : Nat) (v : Word32) (s : State) : State :=
  if off = 0x008 then tileCtrlWrite p v s
  else if 0x040 ≤ off ∧ off < 0x040 + 4 * cfgSlots p then cfgRegWrite i p ((off - 0x040) / 4) off v s
  else if off = rearm then rearmWrite p v s
  else s

/-- Page STO. -/
def writeSto (off : Nat) (v : Word32) (s : State) : State :=
  match off with
  | 0x008 =>
    let s := updSto (fun t => { t with scrubEn := bitOf v 0 }) s
    if bitOf v 1 then stoCntClr s else s
  | 0x044 => ptCmdWrite v s
  | 0x04C => updSto (fun t => { t with partSel := BitVec.ofNat 4 (bits v 0 4) }) s
  | 0x054 => updSto (fun t => { t with scrubPeriod := BitVec.ofNat 16 (bits v 0 16) }) s
  | _ => s

/-- Page JRN. -/
def writeJrn (i : Iface) (off : Nat) (v : Word32) (s : State) : State :=
  match off with
  | 0x008 =>
    let s := if bitOf v 0 then jrnCntClr s else s
    if bitOf v 1 then measNow s else s
  | 0x058 => sealWatchWrite i false v s
  | 0x05C => sealWatchWrite i true v s
  | 0x060 => updJrn (fun j => { j with window := BitVec.ofNat 6 (bits v 0 6) }) s
  | 0x064 => updJrn (fun j => { j with lossy := BitVec.ofNat 6 (bits v 0 6) }) s
  | 0x084 => updJrn (fun j => { j with holdPeriod := BitVec.ofNat 16 (bits v 0 16) }) s
  | _ => s

/-- CTRL.CNT_CLR of page MGT0. -/
def mgtCntClr (s : State) : State := { s with mgt := { s.mgt with frames := 0, crcErrs := 0, aborts := 0 }, uart := { s.uart with drop := 0 } }

/-- Page MGT0. -/
def writeMgt (i : Iface) (off : Nat) (v : Word32) (s : State) : State :=
  if 0x080 ≤ off ∧ off ≤ 0x0BC then { s with mgt := { s.mgt with mbxDesc := vSet s.mgt.mbxDesc ((off - 0x080) / 4) v } }
  else if 0x800 ≤ off then
    (let k := (off - 0x800) / 4
     { s with mgt := { s.mgt with mbxData := if v = 0 then smErase s.mgt.mbxData k else smSet s.mgt.mbxData k v } })
  else
    match off with
    | 0x008 => if bitOf v 0 then mgtCntClr s else s
    | 0x0C0 => mbxGo i v s
    | _ => s

/-- ACK (R377). -/
def ackWrite (v : Word32) (s : State) : State :=
  let s := { s with fcr := { s.fcr with ackSource := BitVec.ofNat 9 (bits v 0 9) } }
  if bitOf v 31 then ackAll s else ackSource (bits v 0 9) s

/-- PROMO_CLR (R387): refused in RUN with MODE. -/
def promoWrite (i : Iface) (v : Word32) (s : State) : State :=
  if s.sys.mode = .run then errStat i pgFcr 0x054 1 s
  else
    let s := { s with fcr := { s.fcr with promoSource := BitVec.ofNat 9 (bits v 0 9) } }
    if bitOf v 31 then promoClrAll s else promoClr (bits v 0 9) s

/-- CTRL of page FCR. -/
def fcrCtrlWrite (i : Iface) (v : Word32) (s : State) : State :=
  let s := if bitOf v 0 then fcrCntClr s else s
  if bitOf v 1 then errnTest i s else s

/-- Page FCR. -/
def writeFcr (i : Iface) (off : Nat) (v : Word32) (s : State) : State :=
  match off with
  | 0x008 => fcrCtrlWrite i v s
  | 0x040 => { s with fcr := { s.fcr with srcSel := BitVec.ofNat 9 (bits v 0 9) } }
  | 0x044 => srcCfgWrite i v s
  | 0x050 => ackWrite v s
  | 0x054 => promoWrite i v s
  | 0x0E4 => hqSel (bits v 0 5) s
  | _ => s

/-- Page TCH. -/
def writeTch (off : Nat) (v : Word32) (s : State) : State :=
  if 0x044 ≤ off ∧ off ≤ 0x050 then { s with tch := { s.tch with data := vSet s.tch.data ((off - 0x044) / 4) v } }
  else
    match off with
    | 0x008 => if bitOf v 0 then { s with tch := { s.tch with progFails := 0 } } else s
    | 0x040 => tchCommand v s
    | 0x06C => { s with tch := { s.tch with rowSel := BitVec.ofNat 9 (bits v 0 9) } }
    | 0x080 => { s with tch := { s.tch with calSel := BitVec.ofNat 16 (bits v 0 16) } }
    | _ => s

/-- Page HMK. -/
def writeHmk (off : Nat) (v : Word32) (s : State) : State :=
  match off with
  | 0x008 => if bitOf v 0 then hmkCntClr s else s
  | 0x06C => measSel v s
  | _ => s

/-- Page LMN (R468, R469). -/
def writeLmn (i : Iface) (off : Nat) (v : Word32) (s : State) : State :=
  if off = 0x088 then entrySelect (BitVec.ofNat 8 (bits v 0 8)) s else lmnWrite i off v s

/-- Only the owner may write a compare channel (kind 2) or a timer (kind 3) (R242). -/
def ownedWrite (i : Iface) (pg kind n off : Nat) (f : State → State) (s : State) : State :=
  if hostMayWrite s kind n then f s else errStat i pg off 3 s

/-- What a page does with a value written to one of its own registers: `v` holds the fields that take effect. -/
def pageWrite (i : Iface) (p off : Nat) (v : Word32) (s : State) : State :=
  match pageKind s.variant p with
  | .sys => if off = 0x040 then modeReqWrite v s else if off = 0x05C then epochClose i s else s
  | .rst => if off = 0x044 then rstCmdWrite v s else s
  | .pwr => if off = 0x008 then (if bitOf v 0 then pwrCntClr s else s) else if off = 0x058 then pwrCmd v s else s
  | .clkg => if off = 0x048 then measSelWrite v s else if off = 0x054 then { s with clkg := { s.clkg with xqSel := BitVec.ofNat 5 (bits v 0 5) } } else s
  | .tbase => ownedWrite i pgTbase 2 ((off - 0x100) / 0x20) off (chanRegWrite i ((off - 0x100) / 0x20) ((off - 0x100) % 0x20) off v) s
  | .tmr => ownedWrite i pgTmr 3 ((off - 0x100) / 0x20) off (tmrRegWrite i ((off - 0x100) / 0x20) ((off - 0x100) % 0x20) off v) s
  | .ilk => writeIlk (if p = 0x08 then .a else .b) off v s
  | .ilkl => if off = 0x040 then loaderCmd v s else s
  | .tab => if bitOf v 0 then tabCntClr s else s
  | .dhd => (fun t => if bitOf v 1 then mismClr t else t) (if bitOf v 0 then tickClr s else s)
  | .tbl => writeTbl off v s
  | .ft => writeTile i (p - 0x10) 0x090 off v s
  | .sot => writeTile i (p - 0x12) 0x06C off v s
  | .crc => crcRegWrite i (p - 0x1C) off v s
  | .sto => writeSto off v s
  | .jrn => writeJrn i off v s
  | .boot => if off = 0x008 then bootCtrlWrite v s else bootCmdWrite v s
  | .pcie => pcieRegWrite i off v s
  | .mgt => writeMgt i off v s
  | .fcr => writeFcr i off v s
  | .ast => astRegWrite i off v s
  | .tch => writeTch off v s
  | .hmk => writeHmk off v s
  | .lmn => writeLmn i off v s
  | .ep => s
  | .absent => s

/-! ## The header -/

/-- The pages whose chapters name a read port for ERR_INJ (R385). -/
def injectable (k : PageKind) (p : Nat) : Bool :=
  match k with
  | .tbase => true | .tmr => true | .ilk => true | .ilkl => true | .tab => true | .dhd => true | .tbl => true | .ft => true | .sot => true
  | .crc => true | .sto => true | .jrn => true | .boot => true | .pcie => true | .mgt => true | .fcr => true | .ast => true | .tch => true
  | .hmk => true | .lmn => true
  | .ep => p == 0x30
  | .sys => false | .rst => false | .pwr => false | .clkg => false | .absent => false

/-- A write of ERR_INJ (R385). -/
def injWrite (i : Iface) (p : Nat) (keyed : Bool) (v : Word32) (s : State) : State :=
  if !(injectable (pageKind s.variant p) p) then errStat i p 0x01C 2 s
  else if !keyed then errStat i p 0x01C 0 s
  else if !(notRunMode s.sys.mode) then errStat i p 0x01C 1 s
  else updHdr p (fun h => { h with injMask := BitVec.ofNat 12 (bits v 16 12), injCount := BitVec.ofNat 4 (bits v 0 4) }) s

/-- A write of WKEY (R19, Table HIF-1). -/
def wkeyWrite (i : Iface) (p : Nat) (v : Word32) (s : State) : State :=
  if v = 0x0000A5C3 then updHdr p (fun h => { h with key := some i }) s else errStat i p 0x024 0 s

/-- A write of EVT_EN: bits with no event ignore it. -/
def evtEnWrite (p : Nat) (v : Word32) (s : State) : State :=
  summaryEdge (summary s) (updHdr p (fun h => { h with evtEn := v &&& evtMask (pageKind s.variant p) }) s)

/-! ## Fields and keys -/

/-- The offset in Machine/RegMask.lean that stands for a register: queue blocks, compare channels and timers by their first instance. -/
def canonOff (k : PageKind) (off : Nat) : Nat :=
  match k with
  | .pcie => if 0x100 ≤ off ∧ off < 0x200 then 0x100 + off % 0x40 else off
  | .tbase => if 0x100 ≤ off ∧ off < 0x500 then 0x100 + off % 0x20 else off
  | .tmr => if 0x100 ≤ off ∧ off < 0x200 then 0x100 + off % 0x20 else off
  | _ => off

/-- The writable fields of a register of a page; CHn_STAT holds W1C bits beside EVT_RAW's and ERR_STAT's (Table TB-4). -/
def fieldsOf (k : PageKind) (off : Nat) : WMask :=
  if k = .tbase ∧ canonOff k off = 0x118 then { wo := 0x00030000 } else regMask k (canonOff k off)

/-- A write to one of the page's own registers (R19, R21): outside a key sequence RWK fields keep their values. The queue registers see their reserved bits, which R330 judges. -/
def fieldWrite (i : Iface) (p off : Nat) (keyed : Bool) (v : Word32) (s : State) : State :=
  let k := pageKind s.variant p
  let m := fieldsOf k off
  let free := m.rw ||| m.wo
  if m.rwk = 0 then (if free = 0 then s else pageWrite i p off (if k = .pcie then v else v &&& free) s)
  else if keyed then pageWrite i p off (v &&& (free ||| m.rwk)) s
  else if free = 0 then errStat i p off 0 s
  else
    let held := readPage i p off s &&& m.rwk
    let s := if v &&& m.rwk = held then s else errStat i p off 0 s
    pageWrite i p off ((v &&& free) ||| held) s

/-- A write of one register of a present, unfenced page, whose key has just been cancelled by this access: `keyed` says that this interface held it (R19). -/
def presentWrite (i : Iface) (p off : Nat) (keyed : Bool) (v : Word32) (s : State) : State :=
  if pageKind s.variant p = .ep ∧ ¬ (p = 0x30 ∧ (off = 0x024 ∨ off = 0x01C)) then errStat i p off 2 s
  else
    match off with
    | 0x010 => updHdr p (fun h => { h with evtRaw := h.evtRaw &&& ~~~v }) s
    | 0x014 => evtEnWrite p v s
    | 0x01C => injWrite i p keyed v s
    | 0x024 => wkeyWrite i p v s
    | _ => fieldWrite i p off keyed v s

/-- A write to an absent page is discarded and noted where the writing interface reports it (R315). -/
def absentWrite (i : Iface) (s : State) : State :=
  match i with
  | .pcie => evt pgPcie 3 s
  | .mgt => evt pgMgt 3 s
  | .debug => s

/-- A doorbell that put a queue in ERROR was discarded (Table HIF-9). -/
def newQueueError (s t : State) : Bool := (List.range 4).any fun q => (sqOf t q).st == .error && (sqOf s q).st != .error

/-- A write of the register at an offset of a page by an interface (log 32 for a fenced page). -/
def regWrite (i : Iface) (p off : Nat) (v : Word32) (s : State) : State :=
  if !(pagePresent s.variant p) then absentWrite i s
  else if pageFenced s p then s
  else if off = 0x020 ∧ pageKind s.variant p ≠ .ep then updHdr p (fun h => { h with key := none, errStat := h.errStat &&& ~~~(v.setWidth 5) }) s
  else presentWrite i p off ((hdr s p).key == some i) v (cancelKey p s)

/-- Whether such a write is discarded, wholly or in some field: the page is absent or fenced, the access is recorded in ERR_STAT, or a doorbell is refused. -/
def writeDiscarded (i : Iface) (p off : Nat) (v : Word32) (s : State) : Bool :=
  if !(pagePresent s.variant p) || pageFenced s p then true
  else if off = 0x020 then pageKind s.variant p == .ep
  else
    let t := presentWrite i p off ((hdr s p).key == some i) v (updHdr p (fun h => { h with key := none, errStat := 0 }) s)
    (hdr t p).errStat != 0 || newQueueError s t

/-- A write of one register, partly enabled: BAR0 discards it and sets WIDTH (R319). -/
def widthWrite (p off : Nat) (s : State) : State :=
  if !(pagePresent s.variant p) then absentWrite .pcie s
  else if pageFenced s p then s
  else errStat .pcie p off 4 (updHdr p (fun h => { h with key := none }) s)

end Sys2Proof.Machine
end

