-- ==== Sys2Proof/Machine/Access.lean ====
section
/-! DEFINITION. How the three host interfaces reach the registers (R316, R319, R333 to R342, R506): PCIe BAR0, management SPI frames, REG_ACCESS of the debug port; the TAP and the console. -/

namespace Sys2Proof.Machine

/-- The data of a read whose word is uncorrectable: 0 on management SPI (Table HIF-11) and in HQ_DATA (R387); otherwise the spec gives none (log 2). -/
def uncValue (i : Iface) (p : Nat) (r : RegVal × State) : RegVal × State :=
  if !r.1.unc || i == .mgt || p == pgFcr then r
  else (let d := drawFree r.2; ({ r.1 with v := d.1 }, d.2))

/-- The page that stands for an interface's port at the Host region's crossbar; the debug port has no page of its own (log 117). -/
def portPage : Iface → Nat
  | .pcie => pgPcie | .mgt => pgMgt | .debug => 0x26

/-- A register access as fabric traffic (Table ARC-3): debug access, an EPOCH-window read, or a host access of one word. -/
def accessTraffic (i : Iface) (p : Nat) (s : State) : State :=
  issue (match i with | .debug => .debugAccess | .pcie => if 0x30 ≤ p then .epochRead else .hostAccess | .mgt => if 0x30 ≤ p then .epochRead else .hostAccess)
    (portPage i) p 1 s

/-! ## Management SPI (R333, R334) -/

/-- The byte address of register k of a burst: its page and offset. -/
def burstPage (a k : Nat) : Nat := (a + 4 * k) % 2 ^ 20 / 4096
/-- See `burstPage`. -/
def burstOff (a k : Nat) : Nat := (a + 4 * k) % 4096 / 4 * 4

/-- ABSENT (Table HIF-11). -/
def absentBit (s : State) (p : Nat) : BitVec 8 := if pagePresent s.variant p then 0 else 16

/-- Registers k to k + n − 1 of a READ, in order: the data and the STAT bits. -/
def mgtReads (a : Nat) : Nat → Nat → BitVec 8 → State → (List Word32 × BitVec 8) × State
  | 0, _, st, s => (([], st), s)
  | n + 1, k, st, s =>
    let p := burstPage a k
    let r := regReadFull .mgt p (burstOff a k) (accessTraffic .mgt p s)
    let q := mgtReads a n (k + 1) (st ||| absentBit s p ||| (if r.1.unc then 8 else 0)) r.2
    ((r.1.v :: q.1.1, q.1.2), q.2)

/-- Registers of a WRITE, in order: the STAT bits. -/
def mgtWrites (a : Nat) : List Word32 → Nat → BitVec 8 → State → BitVec 8 × State
  | [], _, st, s => (st, s)
  | v :: t, k, st, s =>
    let p := burstPage a k
    let st := st ||| absentBit s p ||| (if writeDiscarded .mgt p (burstOff a k) v s then 4 else 0)
    mgtWrites a t (k + 1) st (regWrite .mgt p (burstOff a k) v (accessTraffic .mgt p s))

/-- The module's answer from SYNC on: SYNC, STAT, RDATA, RCRC. -/
def mgtResp (st : BitVec 8) (data : List Word32) : List Byte :=
  let body := [0xA5, st] ++ (data.map fun w => leBytes 4 w.toNat).flatten
  body ++ leBytes 4 (crc32c body).toNat

/-- A frame whose accesses have been made: it is counted, its STAT kept, its answer driven. -/
def mgtDone (mode3 : Bool) (st : BitVec 8) (data : List Word32) (s : State) : State :=
  { s with mgt := { s.mgt with mode3 := mode3, frames := satAdd 32 s.mgt.frames 1, lastStat := st, resp := mgtResp st data } }

/-- A READ of `n` registers from byte address `a`. -/
def mgtServeRead (mode3 : Bool) (a n : Nat) (s : State) : State :=
  let r := mgtReads a n 0 0 s
  mgtDone mode3 r.1.2 r.1.1 r.2

/-- A WRITE of registers from byte address `a`. -/
def mgtServeWrite (mode3 : Bool) (a : Nat) (l : List Word32) (s : State) : State :=
  let r := mgtWrites a l 0 0 s
  mgtDone mode3 r.1 [] r.2

/-- A KEYED_WRITE: WKEY of the register's page, then the register (R316). -/
def mgtServeKeyed (mode3 : Bool) (a : Nat) (v : Word32) (s : State) : State :=
  let p := burstPage a 0
  let d0 := writeDiscarded .mgt p 0x024 0x0000A5C3 s
  let s1 := regWrite .mgt p 0x024 0x0000A5C3 (accessTraffic .mgt p s)
  let d1 := writeDiscarded .mgt p (burstOff a 0) v s1
  mgtDone mode3 (absentBit s p ||| (if d0 || d1 then 4 else 0)) [] (regWrite .mgt p (burstOff a 0) v s1)

/-- A frame refused before any access: FRAMES and LAST_STAT keep their values. -/
def mgtRefused (mode3 : Bool) (st : BitVec 8) (crc : Bool) (s : State) : State :=
  let s := { s with mgt := { s.mgt with mode3 := mode3, resp := mgtResp st [] } }
  if crc then report0 0x0A5 pgMgt (evt pgMgt 0 { s with mgt := { s.mgt with crcErrs := satAdd 32 s.mgt.crcErrs 1 } }) else s

/-- COUNT of a frame. -/
def mgtCount (f : MgtFrame) : Nat := f.opb.toNat / 16 + 1
/-- OP of a frame. -/
def mgtOp (f : MgtFrame) : Nat := f.opb.toNat % 16
/-- HCRC as R333 computes it. -/
def mgtHcrc (f : MgtFrame) : Word32 := crc32c (f.opb :: leBytes 3 f.addr.toNat)
/-- The DATA field: COUNT words. -/
def mgtData (f : MgtFrame) : List Word32 := (List.range (mgtCount f)).map fun k => lGet f.data k 0
/-- DCRC as R333 computes it. -/
def mgtDcrc (f : MgtFrame) : Word32 := crc32c ((mgtData f).map fun w => leBytes 4 w.toNat).flatten

/-- A WRITE or KEYED_WRITE carries DATA and DCRC. -/
def mgtWritesData (f : MgtFrame) : Bool := mgtOp f == 2 || mgtOp f == 3

/-- FRAME_ERR for another reason than DCRC: OP unknown, a reserved address bit set, or KEYED_WRITE with COUNT above 1. -/
def mgtMalformed (f : MgtFrame) : Bool :=
  mgtOp f == 0 || decide (mgtOp f > 3) || decide (f.addr.toNat % 4 ≠ 0) || decide (f.addr.toNat ≥ 2 ^ 20) || (mgtOp f == 3 && decide (mgtCount f > 1))

/-- A whole frame (R334): nothing is accessed until HCRC, and for writes DCRC, have been checked. While register access is closed no SYNC is driven. -/
def mgtFrame (f : MgtFrame) (s : State) : State :=
  if !(portOpen .mgt s) then closedAccess .mgt { s with mgt := { s.mgt with resp := [] } }
  else if f.hcrc ≠ mgtHcrc f then mgtRefused f.mode3 1 true s
  else if mgtWritesData f && f.dcrc != mgtDcrc f then mgtRefused f.mode3 2 true s
  else if mgtMalformed f then mgtRefused f.mode3 2 false s
  else
    match mgtOp f with
    | 1 => mgtServeRead f.mode3 f.addr.toNat (mgtCount f) s
    | 2 => mgtServeWrite f.mode3 f.addr.toNat (mgtData f) s
    | _ => mgtServeKeyed f.mode3 f.addr.toNat (lGet f.data 0 0) s

/-- A whole frame was clocked: CLK_MGT has toggled (Table ARC-10), and its words have passed queue 2 and those of its answer queue 3 (Table ARC-6). -/
def mgtClocked (f : MgtFrame) (s : State) : State :=
  qPass 3 (mgtCount f) (qPass 2 (3 + if mgtWritesData f then mgtCount f + 1 else 0) { s with clkg := { s.clkg with monOk := setBit s.clkg.monOk 5 true } })

/-- MGT_READ: a frame whose OP is READ, or is unknown. -/
def execMgtRead (f : MgtFrame) (s : State) : Res := if mgtWritesData f then .next s else .next (mgtFrame f (mgtClocked f s))

/-- MGT_WRITE. -/
def execMgtWrite (f : MgtFrame) (s : State) : Res := if mgtOp f = 2 then .next (mgtFrame f (mgtClocked f s)) else .next s

/-- MGT_KEYED_WRITE. -/
def execMgtKeyedWrite (f : MgtFrame) (s : State) : Res := if mgtOp f = 3 then .next (mgtFrame f (mgtClocked f s)) else .next s

/-- What a frame had done when CS rose early (R334): writes whose DCRC was complete are made; the read effects of a READ may have been. -/
def abortAccess (a : MgtAbort) (s : State) : State :=
  match a with
  | .early => s
  | .write f => if mgtWritesData f then mgtFrame f s else s
  | .read f made => if made && mgtOp f == 1 then mgtFrame f s else s

/-- MGT_CS_ABORT. -/
def execMgtCsAbort (a : MgtAbort) (s : State) : Res :=
  let s := abortAccess a s
  .next (evt pgMgt 1 { s with mgt := { s.mgt with aborts := satAdd 32 s.mgt.aborts 1, resp := [] } })

/-! ## The debug port (R340, R341) -/

/-- Select a TAP instruction: the pins are driven from the boundary register in EXTEST and CLAMP, and high impedance in HIGHZ. -/
def selectIr (ir : TapIr) (s : State) : State :=
  { s with dbg := { s.dbg with ir := ir, pinsScan := ir == .extest || ir == .clamp, pinsHighz := ir == .highz } }

/-- EXTEST, CLAMP and HIGHZ are refused in RUN, and where Assay has found boundary scan faulty (Table AST-2, group F): BYPASS is selected instead. -/
def selectScan (ir : TapIr) (s : State) : State := selectIr (if s.sys.mode = .run ∨ s.ast.bscanBad then .bypass else ir) s

/-- TAP_EXTEST; `shift` is what the boundary register is updated with while the instruction stands, if anything is. -/
def execTapExtest (shift : Option (List Bool)) (s : State) : Res :=
  let s := selectScan .extest s
  .next (match shift with
    | some l => if s.dbg.ir = .extest then { s with dbg := { s.dbg with boundary := l } } else s
    | none => s)

/-- TAP_SAMPLE_PRELOAD: the register shifts out what the pins showed and is preloaded. -/
def execTapSamplePreload (l : List Bool) (s : State) : Res :=
  let s := selectIr .samplePreload s
  .next { s with dbg := { s.dbg with boundary := l } }

/-- TAP_IDCODE. -/
def execTapIdcode (s : State) : Res := .next (selectIr .idcode s)
/-- TAP_CLAMP. -/
def execTapClamp (s : State) : Res := .next (selectScan .clamp s)
/-- TAP_HIGHZ. -/
def execTapHighz (s : State) : Res := .next (selectScan .highz s)
/-- TAP_BYPASS: the instruction, or a code that is none. -/
def execTapBypass (s : State) : Res := .next (selectIr .bypass s)
/-- TAP_RESET (R337, R340): Test-Logic-Reset. -/
def execTapReset (s : State) : Res := .next (releasePin 2 (selectIr .idcode s))

/-- IDCODE (Table HIF-14). -/
def idcode (v : Variant) : Word32 := regOf [fld 28 4 Config.siliconRev.toNat, fld 12 16 (deviceId v), fld 1 11 Config.tapManufacturer.toNat, flag 0 true]

/-- The outcome of an operation in the capture register. -/
def dbgDone (a : BitVec 20) (err : Bool) (s : State) : State := { s with dbg := { s.dbg with addr := a, error := err } }

/-- An operation that is not carried out sets ERROR. -/
def dbgRefused (s : State) : State := { s with dbg := { s.dbg with error := true } }

/-- A read through the debug port. -/
def dbgRead (a : BitVec 20) (s : State) : State :=
  let p := burstPage a.toNat 0
  let r := uncValue .debug p (regReadFull .debug p (burstOff a.toNat 0) (accessTraffic .debug p s))
  let s' := r.2
  dbgDone a (r.1.unc || !(pagePresent s.variant p)) { s' with dbg := { s'.dbg with data := r.1.v } }

/-- A write through the debug port. -/
def dbgWrite (a : BitVec 20) (v : Word32) (s : State) : State :=
  let p := burstPage a.toNat 0
  dbgDone a (writeDiscarded .debug p (burstOff a.toNat 0) v s) (regWrite .debug p (burstOff a.toNat 0) v (accessTraffic .debug p s))

/-- A keyed write through the debug port (R316). -/
def dbgKeyed (a : BitVec 20) (v : Word32) (s : State) : State :=
  let p := burstPage a.toNat 0
  let d0 := writeDiscarded .debug p 0x024 0x0000A5C3 s
  let s1 := regWrite .debug p 0x024 0x0000A5C3 (accessTraffic .debug p s)
  dbgDone a (d0 || writeDiscarded .debug p (burstOff a.toNat 0) v s1) (regWrite .debug p (burstOff a.toNat 0) v s1)

/-- An operation of REG_ACCESS: `early` says that it was issued while the last one was still running. -/
def regAccess (early : Bool) (f : State → State) (s : State) : State :=
  let s := selectIr .regAccess s
  if early || !(portOpen .debug s) then dbgRefused s else f s

/-- REG_ACCESS_READ. -/
def execRegAccessRead (a : BitVec 20) (early : Bool) (s : State) : Res := .next (regAccess early (dbgRead a) s)
/-- REG_ACCESS_WRITE. -/
def execRegAccessWrite (a : BitVec 20) (v : Word32) (early : Bool) (s : State) : Res := .next (regAccess early (dbgWrite a v) s)
/-- REG_ACCESS_KEYED_WRITE. -/
def execRegAccessKeyedWrite (a : BitVec 20) (v : Word32) (early : Bool) (s : State) : Res := .next (regAccess early (dbgKeyed a v) s)

/-! ## The console (R342) -/

/-- UART_LINE: a line of `n` bytes is queued, after `sent` queued bytes have left since the last line. The console runs from the start of P1 (Table RST-7). -/
def execUartLine (n sent : Nat) (s : State) : Res :=
  if s.sys.phase = 0 then .next s
  else .next (uartLine n { s with uart := { s.uart with queued := s.uart.queued - sent } })

/-! ## An access by any interface -/

/-- A write over PCIe. -/
def pcieWrite (p off : Nat) (v : Word32) (s : State) : State :=
  if portOpen .pcie s then regWrite .pcie p off v (accessTraffic .pcie p s) else closedAccess .pcie s

/-- A read over PCIe: its completion carries the data, or the poisoned bit. -/
def pcieRead (p off : Nat) (s : State) : State :=
  if portOpen .pcie s then
    let r := uncValue .pcie p (regReadFull .pcie p off (accessTraffic .pcie p s))
    hostEmit (.readData (leBytes 4 r.1.v.toNat) r.1.unc) r.2
  else closedAccess .pcie s

/-- The byte address of a register (R317). -/
def regAddr (p off : Nat) : Nat := p * 4096 + off

/-- One register written through an interface: a DWORD write over PCIe, a WRITE frame of one register in the SPI mode of the last frame, or a REG_ACCESS write (log 39). -/
def ifaceWrite (i : Iface) (p off : Nat) (v : Word32) (s : State) : State :=
  match i with
  | .pcie => pcieWrite p off v s
  | .mgt => if portOpen .mgt s then mgtServeWrite s.mgt.mode3 (regAddr p off) [v] s else closedAccess .mgt s
  | .debug => regAccess false (dbgWrite (BitVec.ofNat 20 (regAddr p off)) v) s

/-- One register written under the key sequence of R19, as each interface makes it (R316). -/
def keyedWrite (i : Iface) (p off : Nat) (v : Word32) (s : State) : State :=
  match i with
  | .pcie => pcieWrite p off v (pcieWrite p 0x024 0x0000A5C3 s)
  | .mgt => if portOpen .mgt s then mgtServeKeyed s.mgt.mode3 (regAddr p off) v s else closedAccess .mgt s
  | .debug => regAccess false (dbgKeyed (BitVec.ofNat 20 (regAddr p off)) v) s

/-- One register read through an interface. -/
def ifaceRead (i : Iface) (p off : Nat) (s : State) : State :=
  match i with
  | .pcie => pcieRead p off s
  | .mgt => if portOpen .mgt s then mgtServeRead s.mgt.mode3 (regAddr p off) 1 s else closedAccess .mgt s
  | .debug => regAccess false (dbgRead (BitVec.ofNat 20 (regAddr p off))) s

end Sys2Proof.Machine
end

