-- ==== Sys2Proof/Machine/Cells.lean ====
section
/-! DEFINITION. Cells (R25 to R27): the failures of a transaction with one, its turn in its block's round-robin, and its isolation. -/

namespace Sys2Proof.Machine

/-- A cell answers CELL_ISOLATED (R26): it is isolated, or it is a store bank that no spare stands in for (R250). -/
def cellAnswersIsolated (page cell : Nat) (s : State) : Bool := cellIsolated s page cell || (page == pgSto && s.sto.dead.getLsbD cell)

/-- What the third failure of a transaction does (R26, R27): a store bank is isolated as R250 lays down, which the map records; any other cell is isolated until a reset that reaches its block. -/
def thirdFailure (page cell : Nat) (unserved : Bool) (s : State) : State :=
  if page = pgSto ∧ cell < 32 then
    isolateBank cell { s with fab := { s.fab with cells := smErase s.fab.cells (cellKey page cell), cellIsolatedResp := false } }
  else isolateCell page cell unserved s

/-- CELL_TRANSACTION_FAIL (R26, R27): `fresh` says that the transaction is a new one, for which the block's round-robin has granted the cell (Table ARC-1), `unserved` that an isolation leaves a safety function unserved. The third failure of one transaction isolates the cell; an isolated cell answers CELL_ISOLATED. -/
def execCellTransactionFail (page cell : Nat) (fresh unserved : Bool) (s : State) : Res :=
  let c := smGetD s.fab.cells (cellKey page cell) {}
  if cellAnswersIsolated page cell s then .next { s with fab := { s.fab with cellIsolatedResp := true } }
  else
    let n := if fresh then 1 else c.fails + 1
    let s := if fresh then { s with fab := { s.fab with turns := smSet s.fab.turns page (cell % 65536) } } else s
    if n ≥ 3 then .next (thirdFailure page cell unserved s)
    else .next { s with fab := { s.fab with cells := smSet s.fab.cells (cellKey page cell) { fails := n }, cellIsolatedResp := false } }

end Sys2Proof.Machine
end

