-- ==== Sys2Proof/Machine/RegCmds.lean ====
section
/-! DEFINITION. The commands that are an access to one register: each is the access its row names, made by the interface that sends it. -/

namespace Sys2Proof.Machine

/-! ## The key sequence and any register (R19, R22) -/

/-- WKEY: a write of a page's WKEY. -/
def execWkey (i : Iface) (page : BitVec 8) (v : Word32) (s : State) : Res := .next (ifaceWrite i page.toNat 0x024 v s)

/-- KEY_TIMEOUT: 64 CLK_SYS cycles have passed since the key sequence of the page was opened. -/
def execKeyTimeout (page : BitVec 8) (s : State) : Res := .next (cancelKey page.toNat s)

/-- REGISTER_WRITE: register `reg` (its offset divided by 4) of a page; `full` says that a PCIe write enables all four bytes (R319). -/
def execRegisterWrite (i : Iface) (page : BitVec 8) (reg : BitVec 10) (v : Word32) (full : Bool) (s : State) : Res :=
  if full || i != .pcie then .next (ifaceWrite i page.toNat (4 * reg.toNat) v s)
  else if portOpen .pcie s then .next (widthWrite page.toNat (4 * reg.toNat) s)
  else .next (closedAccess .pcie s)

/-- LO_HALF_READ: a read of register `reg` of a page; of a low half it latches the high half (R22). -/
def execLoHalfRead (i : Iface) (page : BitVec 8) (reg : BitVec 10) (s : State) : Res := .next (ifaceRead i page.toNat (4 * reg.toNat) s)

/-! ## Clocks and times -/

/-- CLK_MEAS_START: MEAS_SEL with START. -/
def execClkMeasStart (i : Iface) (domain : BitVec 3) (s : State) : Res := .next (ifaceWrite i pgClkg 0x048 (flag 31 true ||| domain.setWidth 32) s)

/-- The offset of a captured register. -/
def timeRegOff : TimeReg → Nat
  | .time => 0x040
  | .snap => 0x048
  | .matchLo n => 0x110 + 0x20 * n.val

/-- TIME_CAPTURE_READ. -/
def execTimeCaptureRead (i : Iface) (r : TimeReg) (s : State) : Res := .next (ifaceRead i pgTbase (timeRegOff r) s)

/-- The offset of a register in its compare channel. -/
def cmpRegOff : CmpReg → Nat
  | .cfg => 0x00 | .interval => 0x04 | .cmpLo => 0x08 | .cmpHi => 0x0C

/-- COMPARE_WRITE. -/
def execCompareWrite (i : Iface) (n : Fin 32) (r : CmpReg) (v : Word32) (s : State) : Res := .next (ifaceWrite i pgTbase (0x100 + 0x20 * n.val + cmpRegOff r) v s)

/-- TIMER_START. -/
def execTimerStart (i : Iface) (n : Fin 8) (s : State) : Res := .next (ifaceWrite i pgTmr (0x10C + 0x20 * n.val) 1 s)
/-- TIMER_STOP. -/
def execTimerStop (i : Iface) (n : Fin 8) (s : State) : Res := .next (ifaceWrite i pgTmr (0x10C + 0x20 * n.val) 2 s)
/-- TIMER_CLEAR. -/
def execTimerClear (i : Iface) (n : Fin 8) (s : State) : Res := .next (ifaceWrite i pgTmr (0x10C + 0x20 * n.val) 4 s)
/-- TIMER_CFG_WRITE. -/
def execTimerCfgWrite (i : Iface) (n : Fin 8) (v : Word32) (s : State) : Res := .next (ifaceWrite i pgTmr (0x100 + 0x20 * n.val) v s)
/-- TIMER_COUNT_READ. -/
def execTimerCountRead (i : Iface) (n : Fin 8) (s : State) : Res := .next (ifaceRead i pgTmr (0x108 + 0x20 * n.val) s)

/-! ## The loader, the evaluators, the Double-header and the Tablet -/

/-- A command in ILKL.CMD (Table ILK-14). -/
def loaderWrite (i : Iface) (op : Nat) (copy : Bool) (s : State) : State := keyedWrite i pgIlkl 0x040 (fld 0 4 op ||| flag 8 copy) s

/-- VERIFY. -/
def execVerify (i : Iface) (copy : Bool) (s : State) : Res := .next (loaderWrite i 1 copy s)
/-- INSTALL. -/
def execInstall (i : Iface) (copy : Bool) (s : State) : Res := .next (loaderWrite i 2 copy s)
/-- SYNC. -/
def execSync (i : Iface) (s : State) : Res := .next (loaderWrite i 3 false s)
/-- CLEAR_TRIP. -/
def execClearTrip (i : Iface) (s : State) : Res := .next (loaderWrite i 4 false s)
/-- TEST_TRIP. -/
def execTestTrip (i : Iface) (s : State) : Res := .next (loaderWrite i 5 false s)
/-- UNLOAD. -/
def execUnload (i : Iface) (s : State) : Res := .next (loaderWrite i 6 false s)
/-- RELOAD. -/
def execReload (i : Iface) (s : State) : Res := .next (loaderWrite i 7 false s)

/-- DIV_CLR. -/
def execDivClr (i : Iface) (c : Chan) (s : State) : Res := .next (ifaceWrite i (pgIlk c) 0x008 2 s)
/-- MAX_CLR. -/
def execMaxClr (i : Iface) (c : Chan) (s : State) : Res := .next (ifaceWrite i (pgIlk c) 0x008 1 s)
/-- MISM_CLR. -/
def execMismClr (i : Iface) (s : State) : Res := .next (ifaceWrite i pgDhd 0x008 2 s)
/-- TICK_CLR. -/
def execTickClr (i : Iface) (s : State) : Res := .next (ifaceWrite i pgDhd 0x008 1 s)
/-- TAB_CNT_CLR. -/
def execTabCntClr (i : Iface) (s : State) : Res := .next (ifaceWrite i pgTab 0x008 1 s)

/-! ## Tiles and the Timetable -/

/-- LINK_RESET. -/
def execLinkReset (i : Iface) (p : Fin 8) (s : State) : Res := .next (ifaceWrite i (pgTile p.val) 0x008 1 s)
/-- FT_CNT_CLR. -/
def execFtCntClr (i : Iface) (p : Fin 8) (s : State) : Res := .next (ifaceWrite i (pgTile p.val) 0x008 2 s)
/-- SUPPLY_REARM. -/
def execSupplyRearm (i : Iface) (p : Fin 8) (s : State) : Res := .next (keyedWrite i (pgTile p.val) (if p.val < 6 then 0x090 else 0x06C) 1 s)
/-- CONFIG_WRITE of PINCFG or OUTCFG `n`; a safety output tile has eight. -/
def execConfigWrite (i : Iface) (p : Fin 8) (n : Fin 16) (v : Word32) (s : State) : Res :=
  if n.val < cfgSlots p.val then .next (keyedWrite i (pgTile p.val) (0x040 + 4 * n.val) v s) else .next s

/-- XS_CLR. -/
def execXsClr (i : Iface) (s : State) : Res := .next (keyedWrite i pgTbl 0x008 2 s)
/-- TBL_CNT_CLR. -/
def execTblCntClr (i : Iface) (s : State) : Res := .next (ifaceWrite i pgTbl 0x008 1 s)

/-- An HCLAIM operation; `busy` says that the loader's claim check runs, or starts in the same cycle (R244). -/
def hclaim (i : Iface) (op : Nat) (kind : BitVec 3) (index : BitVec 7) (busy : Bool) (s : State) : State :=
  let s := { s with tbl := { s.tbl with claimBusy := busy } }
  let s := keyedWrite i pgTbl 0x044 (fld 30 2 op ||| fld 8 3 kind.toNat ||| fld 0 7 index.toNat) s
  { s with tbl := { s.tbl with claimBusy := false } }

/-- HCLAIM_CLAIM. -/
def execHclaimClaim (i : Iface) (kind : BitVec 3) (index : BitVec 7) (busy : Bool) (s : State) : Res := .next (hclaim i 1 kind index busy s)
/-- HCLAIM_RELEASE. -/
def execHclaimRelease (i : Iface) (kind : BitVec 3) (index : BitVec 7) (busy : Bool) (s : State) : Res := .next (hclaim i 2 kind index busy s)

/-! ## The store, the boot window, the Brake van -/

/-- PT_VERIFY. -/
def execPtVerify (i : Iface) (copy : Bool) (s : State) : Res := .next (keyedWrite i pgSto 0x044 (flag 8 copy ||| 1) s)
/-- STO_CNT_CLR; the same write carries SCRUB_EN. -/
def execStoCntClr (i : Iface) (scrub : Bool) (s : State) : Res := .next (ifaceWrite i pgSto 0x008 (flag 1 true ||| flag 0 scrub) s)
/-- BOOT_REARM. -/
def execBootRearm (i : Iface) (s : State) : Res := .next (ifaceWrite i pgBoot 0x008 2 s)
/-- BOOT_RELEASE. -/
def execBootRelease (i : Iface) (s : State) : Res := .next (ifaceWrite i pgBoot 0x008 1 s)
/-- CONFIRM. -/
def execConfirm (i : Iface) (raise : Bool) (s : State) : Res := .next (keyedWrite i pgBoot 0x040 (fld 28 4 1 ||| flag 24 raise) s)
/-- SET_TRIAL. -/
def execSetTrial (i : Iface) (slot : Bool) (tries : BitVec 4) (s : State) : Res := .next (keyedWrite i pgBoot 0x040 (fld 28 4 2 ||| flag 20 slot ||| fld 16 4 tries.toNat) s)
/-- SET_IF. -/
def execSetIf (i : Iface) (ifmode : Bool) (dummy : BitVec 5) (s : State) : Res := .next (keyedWrite i pgBoot 0x040 (fld 28 4 3 ||| fld 8 5 dummy.toNat ||| flag 0 ifmode) s)
/-- CLEAR_TRIAL. -/
def execClearTrial (i : Iface) (s : State) : Res := .next (keyedWrite i pgBoot 0x040 (fld 28 4 4) s)
/-- MEAS_NOW. -/
def execMeasNow (i : Iface) (s : State) : Res := .next (ifaceWrite i pgJrn 0x008 2 s)
/-- SEAL_WATCH_WRITE. -/
def execSealWatchWrite (i : Iface) (v : Word32) (s : State) : Res := .next (ifaceWrite i pgJrn 0x05C v s)
/-- JRN_CNT_CLR. -/
def execJrnCntClr (i : Iface) (s : State) : Res := .next (ifaceWrite i pgJrn 0x008 1 s)

/-! ## The host interfaces -/

/-- A register of queue block q. -/
def queueOff (q : Fin 4) (r : Nat) : Nat := 0x100 + 0x40 * q.val + r

/-- SQ_TAIL_DOORBELL. -/
def execSqTailDoorbell (i : Iface) (q : Fin 4) (v : BitVec 12) (s : State) : Res := .next (ifaceWrite i pgPcie (queueOff q 0x14) (v.setWidth 32) s)
/-- CQ_HEAD_DOORBELL. -/
def execCqHeadDoorbell (i : Iface) (q : Fin 4) (v : BitVec 12) (s : State) : Res := .next (ifaceWrite i pgPcie (queueOff q 0x18) (v.setWidth 32) s)
/-- QUEUE_ENABLE: Q_CFG with EN 1 and the other fields of `cfg`. -/
def execQueueEnable (i : Iface) (q : Fin 4) (cfg : Word32) (s : State) : Res := .next (ifaceWrite i pgPcie (queueOff q 0x10) (cfg ||| flag 31 true) s)
/-- QUEUE_DISABLE: Q_CFG with EN 0 and the other fields of `cfg`. -/
def execQueueDisable (i : Iface) (q : Fin 4) (cfg : Word32) (s : State) : Res := .next (ifaceWrite i pgPcie (queueOff q 0x10) (cfg &&& 0x7FFFFFFF) s)
/-- EVT_ACK. -/
def execEvtAck (i : Iface) (s : State) : Res := .next (ifaceWrite i pgPcie 0x04C 1 s)
/-- PCIE_CNT_CLR. -/
def execPcieCntClr (i : Iface) (s : State) : Res := .next (ifaceWrite i pgPcie 0x008 1 s)
/-- MBX_GO. -/
def execMbxGo (i : Iface) (s : State) : Res := .next (ifaceWrite i pgMgt 0x0C0 1 s)
/-- MGT_CNT_CLR. -/
def execMgtCntClr (i : Iface) (s : State) : Res := .next (ifaceWrite i pgMgt 0x008 1 s)
/-- EPOCH_OPEN. -/
def execEpochOpen (i : Iface) (s : State) : Res := .next (ifaceRead i pgSys 0x058 s)
/-- EPOCH_CLOSE. -/
def execEpochClose (i : Iface) (v : Word32) (s : State) : Res := .next (ifaceWrite i pgSys 0x05C v s)
/-- EPOCH_WINDOW_READ of register `reg` of page EPk. -/
def execEpochWindowRead (i : Iface) (k : Fin 16) (reg : BitVec 10) (s : State) : Res := .next (ifaceRead i (0x30 + k.val) (4 * reg.toNat) s)

/-! ## The fault collector, the check units, Assay, Touchmark, Hallmark -/

/-- ERRN_TEST. -/
def execErrnTest (i : Iface) (s : State) : Res := .next (keyedWrite i pgFcr 0x008 2 s)
/-- ACK. -/
def execAck (i : Iface) (src : BitVec 9) (s : State) : Res := .next (keyedWrite i pgFcr 0x050 (src.setWidth 32) s)
/-- ACK_ALL; SOURCE is carried too. -/
def execAckAll (i : Iface) (src : BitVec 9) (s : State) : Res := .next (keyedWrite i pgFcr 0x050 (flag 31 true ||| src.setWidth 32) s)
/-- PROMO_CLR. -/
def execPromoClr (i : Iface) (src : BitVec 9) (s : State) : Res := .next (keyedWrite i pgFcr 0x054 (src.setWidth 32) s)
/-- PROMO_CLR_ALL. -/
def execPromoClrAll (i : Iface) (src : BitVec 9) (s : State) : Res := .next (keyedWrite i pgFcr 0x054 (flag 31 true ||| src.setWidth 32) s)
/-- SRC_CFG_WRITE, for the source SRC_SEL names. -/
def execSrcCfgWrite (i : Iface) (v : Word32) (s : State) : Res := .next (keyedWrite i pgFcr 0x044 v s)
/-- ERR_INJ_WRITE. -/
def execErrInjWrite (i : Iface) (page : BitVec 8) (mask : BitVec 12) (count : BitVec 4) (s : State) : Res :=
  .next (keyedWrite i page.toNat 0x01C (fld 16 12 mask.toNat ||| fld 0 4 count.toNat) s)
/-- HQ_SEL. -/
def execHqSel (i : Iface) (age : BitVec 5) (s : State) : Res := .next (ifaceWrite i pgFcr 0x0E4 (age.setWidth 32) s)
/-- FCR_CNT_CLR. -/
def execFcrCntClr (i : Iface) (s : State) : Res := .next (ifaceWrite i pgFcr 0x008 1 s)
/-- CRC_START of unit n; the same write carries CMP_EN. -/
def execCrcStart (i : Iface) (n : Fin 4) (cmpEn : Bool) (s : State) : Res := .next (ifaceWrite i (pgCrc n.val) 0x008 (flag 1 cmpEn ||| 1) s)
/-- AST_CNT_CLR: the write carries in the RWK fields of CTRL what they read (R19). -/
def execAstCntClr (i : Iface) (s : State) : Res := .next (ifaceWrite i pgAst 0x008 (flag 2 true ||| readAst 0x008 s) s)

/-- An operation in TCH.CMD (Table TCH-6). -/
def tchWrite (i : Iface) (op margin row : Nat) (force : Bool) (s : State) : State :=
  keyedWrite i pgTch 0x040 (fld 28 4 op ||| fld 26 2 margin ||| fld 16 10 row ||| flag 0 force) s

/-- TCH_READ. -/
def execTchRead (i : Iface) (margin : BitVec 2) (row : BitVec 10) (s : State) : Res := .next (tchWrite i 1 margin.toNat row.toNat false s)
/-- PROG: the data stand in DATA0 to DATA3. -/
def execProg (i : Iface) (row : BitVec 10) (force : Bool) (s : State) : Res := .next (tchWrite i 2 0 row.toNat force s)
/-- OVERRIDE. -/
def execOverride (i : Iface) (row : BitVec 10) (s : State) : Res := .next (tchWrite i 3 0 row.toNat false s)
/-- CLEAR_OVR. -/
def execClearOvr (i : Iface) (row : BitVec 10) (s : State) : Res := .next (tchWrite i 4 0 row.toNat false s)
/-- TCH_CNT_CLR. -/
def execTchCntClr (i : Iface) (s : State) : Res := .next (ifaceWrite i pgTch 0x008 1 s)
/-- MEAS_SEL. -/
def execMeasSel (i : Iface) (index : BitVec 3) (s : State) : Res := .next (ifaceWrite i pgHmk 0x06C (index.setWidth 32) s)
/-- HMK_CNT_CLR. -/
def execHmkCntClr (i : Iface) (s : State) : Res := .next (ifaceWrite i pgHmk 0x008 1 s)

/-! ## The Lengthman, supplies, modes and resets -/

/-- WAKE_TEST. -/
def execWakeTest (i : Iface) (s : State) : Res := .next (keyedWrite i pgLmn 0x008 1 s)
/-- LMN_CONFIG_WRITE of WCFG0 to WCFG7 (r 0 to 7) or RATE (r 8). -/
def execLmnConfigWrite (i : Iface) (r : Fin 9) (v : Word32) (s : State) : Res := .next (keyedWrite i pgLmn (0x040 + 4 * r.val) v s)
/-- ENTRY_SEL. -/
def execEntrySel (i : Iface) (age : BitVec 8) (s : State) : Res := .next (ifaceWrite i pgLmn 0x088 (age.setWidth 32) s)
/-- SWAP. -/
def execSwap (i : Iface) (s : State) : Res := .next (keyedWrite i pgPwr 0x058 (fld 28 4 1) s)
/-- SHUTDOWN. -/
def execShutdown (i : Iface) (s : State) : Res := .next (keyedWrite i pgPwr 0x058 (fld 28 4 2) s)
/-- PWR_CNT_CLR. -/
def execPwrCntClr (i : Iface) (s : State) : Res := .next (ifaceWrite i pgPwr 0x008 1 s)
/-- MODE_REQ_SAFE. -/
def execModeReqSafe (i : Iface) (s : State) : Res := .next (keyedWrite i pgSys 0x040 1 s)
/-- MODE_REQ_RUN. -/
def execModeReqRun (i : Iface) (s : State) : Res := .next (keyedWrite i pgSys 0x040 2 s)
/-- MODE_REQ_SERVICE. -/
def execModeReqService (i : Iface) (s : State) : Res := .next (keyedWrite i pgSys 0x040 3 s)
/-- RST_CMD_CHIP. -/
def execRstCmdChip (i : Iface) (s : State) : Res := .next (keyedWrite i pgRst 0x044 (fld 28 4 1) s)
/-- RST_CMD_REGION. -/
def execRstCmdRegion (i : Iface) (region : BitVec 3) (s : State) : Res := .next (keyedWrite i pgRst 0x044 (fld 28 4 2 ||| fld 16 3 region.toNat) s)
/-- RST_CMD_BLOCK. -/
def execRstCmdBlock (i : Iface) (page : BitVec 8) (s : State) : Res := .next (keyedWrite i pgRst 0x044 (fld 28 4 3 ||| page.setWidth 32) s)

end Sys2Proof.Machine
end

