-- ==== Sys2Proof/Machine/Dispatch.lean ====
section
/-! DEFINITION. One arm per command: each calls its meaning. -/

namespace Sys2Proof.Machine

/-- The effect of a command on everything but the queue. -/
def exec (i : Instr) (s : State) : Host.Outcome State Fault Refusal :=
      match i with
      | .cellTransactionFail page cell fresh unserved => Sys2Proof.Machine.execCellTransactionFail page cell fresh unserved s
      | .fabricTimeout page => Sys2Proof.Machine.execFabricTimeout page s
      | .fenceRemove page checked drained => Sys2Proof.Machine.execFenceRemove page checked drained s
      | .queueSever q prod cons => Sys2Proof.Machine.execQueueSever q prod cons s
      | .queueRejoining q => Sys2Proof.Machine.execQueueRejoining q s
      | .queueJoined q resetProd resetCons => Sys2Proof.Machine.execQueueJoined q resetProd resetCons s
      | .clkMeasStart ix domain => Sys2Proof.Machine.execClkMeasStart ix domain s
      | .clkMeasDone freq => Sys2Proof.Machine.execClkMeasDone freq s
      | .pllUnlock b perstLow => Sys2Proof.Machine.execPllUnlock b perstLow s
      | .monFail b perstLow => Sys2Proof.Machine.execMonFail b perstLow s
      | .scanTick ix => Sys2Proof.Machine.execScanTick ix s
      | .exchangePhase c => Sys2Proof.Machine.execExchangePhase c s
      | .evaluatePhase c fa fb => Sys2Proof.Machine.execEvaluatePhase c fa fb s
      | .comparePhase c stop => Sys2Proof.Machine.execComparePhase c stop s
      | .outputPhase => Sys2Proof.Machine.execOutputPhase s
      | .tail c stop missed => Sys2Proof.Machine.execTail c stop missed s
      | .latePhase p => Sys2Proof.Machine.execLatePhase p s
      | .staleImage => Sys2Proof.Machine.execStaleImage s
      | .tickTimeout => Sys2Proof.Machine.execTickTimeout s
      | .verify ix copy => Sys2Proof.Machine.execVerify ix copy s
      | .install ix copy => Sys2Proof.Machine.execInstall ix copy s
      | .sync ix => Sys2Proof.Machine.execSync ix s
      | .clearTrip ix => Sys2Proof.Machine.execClearTrip ix s
      | .testTrip ix => Sys2Proof.Machine.execTestTrip ix s
      | .unload ix => Sys2Proof.Machine.execUnload ix s
      | .reload ix => Sys2Proof.Machine.execReload ix s
      | .loaderCmdComplete readBack previous => Sys2Proof.Machine.execLoaderCmdComplete readBack previous s
      | .divClr ix c => Sys2Proof.Machine.execDivClr ix c s
      | .maxClr ix c => Sys2Proof.Machine.execMaxClr ix c s
      | .lockstepMismatch g a b pinj => Sys2Proof.Machine.execLockstepMismatch g a b pinj s
      | .interruptTaken lines => Sys2Proof.Machine.execInterruptTaken lines s
      | .debugHalt => Sys2Proof.Machine.execDebugHalt s
      | .debugResume => Sys2Proof.Machine.execDebugResume s
      | .supWdog => Sys2Proof.Machine.execSupWdog s
      | .tabletFrame src f => Sys2Proof.Machine.execTabletFrame src f s
      | .mismClr ix => Sys2Proof.Machine.execMismClr ix s
      | .tickClr ix => Sys2Proof.Machine.execTickClr ix s
      | .tabCntClr ix => Sys2Proof.Machine.execTabCntClr ix s
      | .outboundLatch w => Sys2Proof.Machine.execOutboundLatch w s
      | .outboundFrame p c rx => Sys2Proof.Machine.execOutboundFrame p c rx s
      | .tilePeriod p c m => Sys2Proof.Machine.execTilePeriod p c m s
      | .inboundFrame p c rx w dly => Sys2Proof.Machine.execInboundFrame p c rx w dly s
      | .linkDown p lockLost => Sys2Proof.Machine.execLinkDown p lockLost s
      | .tilePowerReset p c => Sys2Proof.Machine.execTilePowerReset p c s
      | .tileFrameTimeout p => Sys2Proof.Machine.execTileFrameTimeout p s
      | .tileResetSequence p => Sys2Proof.Machine.execTileResetSequence p s
      | .pinFilterChange p pin path level => Sys2Proof.Machine.execPinFilterChange p pin path level s
      | .pinOverload p pin => Sys2Proof.Machine.execPinOverload p pin s
      | .tileOvercurrent p => Sys2Proof.Machine.execTileOvercurrent p s
      | .pulseTimerExpiry p c pin => Sys2Proof.Machine.execPulseTimerExpiry p c pin s
      | .supplyBandChange p c b => Sys2Proof.Machine.execSupplyBandChange p c b s
      | .supplyTrip p c => Sys2Proof.Machine.execSupplyTrip p c s
      | .supplyQualified p c => Sys2Proof.Machine.execSupplyQualified p c s
      | .sotWatchdog p c => Sys2Proof.Machine.execSotWatchdog p c s
      | .overTemperature p c => Sys2Proof.Machine.execOverTemperature p c s
      | .linkReset ix p => Sys2Proof.Machine.execLinkReset ix p s
      | .ftCntClr ix p => Sys2Proof.Machine.execFtCntClr ix p s
      | .supplyRearm ix p => Sys2Proof.Machine.execSupplyRearm ix p s
      | .configWrite ix p n v => Sys2Proof.Machine.execConfigWrite ix p n v s
      | .testOverdue e => Sys2Proof.Machine.execTestOverdue e s
      | .captureTimeout p => Sys2Proof.Machine.execCaptureTimeout p s
      | .xsClr ix => Sys2Proof.Machine.execXsClr ix s
      | .tblCntClr ix => Sys2Proof.Machine.execTblCntClr ix s
      | .hclaimClaim ix kind index busy => Sys2Proof.Machine.execHclaimClaim ix kind index busy s
      | .hclaimRelease ix kind index busy => Sys2Proof.Machine.execHclaimRelease ix kind index busy s
      | .read id dma fs => Sys2Proof.Machine.execRead id dma fs s
      | .write id dma given => Sys2Proof.Machine.execWrite id dma given s
      | .writeAtomic id dma given => Sys2Proof.Machine.execWriteAtomic id dma given s
      | .atomicCommit id => Sys2Proof.Machine.execAtomicCommit id s
      | .flush id => Sys2Proof.Machine.execFlush id s
      | .commandCompletion id => Sys2Proof.Machine.execCommandCompletion id s
      | .migrationDone lost => Sys2Proof.Machine.execMigrationDone lost s
      | .scrubStep fs => Sys2Proof.Machine.execScrubStep fs s
      | .ptRepair => Sys2Proof.Machine.execPtRepair s
      | .ptVerify ix copy => Sys2Proof.Machine.execPtVerify ix copy s
      | .stoCntClr ix scrub => Sys2Proof.Machine.execStoCntClr ix scrub s
      | .parkRequest done => Sys2Proof.Machine.execParkRequest done s
      | .storeParked => Sys2Proof.Machine.execStoreParked s
      | .bootSlotSelect => Sys2Proof.Machine.execBootSlotSelect s
      | .chunkLoaded n fs => Sys2Proof.Machine.execChunkLoaded n fs s
      | .xspiRead addr k w => Sys2Proof.Machine.execXspiRead addr k w s
      | .xspiFastRead addr k w => Sys2Proof.Machine.execXspiFastRead addr k w s
      | .xspiReadSfdp addr k => Sys2Proof.Machine.execXspiReadSfdp addr k s
      | .xspiReadStatus k => Sys2Proof.Machine.execXspiReadStatus k s
      | .xspiWriteEnable => Sys2Proof.Machine.execXspiWriteEnable s
      | .xspiWriteVolatileConfig addr v => Sys2Proof.Machine.execXspiWriteVolatileConfig addr v s
      | .xspiReadVolatileConfig addr => Sys2Proof.Machine.execXspiReadVolatileConfig addr s
      | .xspiResetEnable => Sys2Proof.Machine.execXspiResetEnable s
      | .xspiReset => Sys2Proof.Machine.execXspiReset s
      | .xspiIgnored => Sys2Proof.Machine.execXspiIgnored s
      | .xspiHwReset => Sys2Proof.Machine.execXspiHwReset s
      | .bootRearm ix => Sys2Proof.Machine.execBootRearm ix s
      | .bootRelease ix => Sys2Proof.Machine.execBootRelease ix s
      | .confirm ix raise => Sys2Proof.Machine.execConfirm ix raise s
      | .setTrial ix slot tries => Sys2Proof.Machine.execSetTrial ix slot tries s
      | .setIf ix ifmode dummy => Sys2Proof.Machine.execSetIf ix ifmode dummy s
      | .clearTrial ix => Sys2Proof.Machine.execClearTrial ix s
      | .bootCmdDone storeOk => Sys2Proof.Machine.execBootCmdDone storeOk s
      | .journalAppend id dma given => Sys2Proof.Machine.execJournalAppend id dma given s
      | .snapshot id => Sys2Proof.Machine.execSnapshot id s
      | .journalRead id dma fs => Sys2Proof.Machine.execJournalRead id dma fs s
      | .seqAssign => Sys2Proof.Machine.execSeqAssign s
      | .floorSnapshotDone => Sys2Proof.Machine.execFloorSnapshotDone s
      | .gapRecord => Sys2Proof.Machine.execGapRecord s
      | .creditRecompute holdV => Sys2Proof.Machine.execCreditRecompute holdV s
      | .holdupMeasDue => Sys2Proof.Machine.execHoldupMeasDue s
      | .holdupMeasPostpone => Sys2Proof.Machine.execHoldupMeasPostpone s
      | .holdupMeasStart step => Sys2Proof.Machine.execHoldupMeasStart step s
      | .holdupMeasTimerStart => Sys2Proof.Machine.execHoldupMeasTimerStart s
      | .holdupMeasDone us => Sys2Proof.Machine.execHoldupMeasDone us s
      | .holdupMeasTimeout => Sys2Proof.Machine.execHoldupMeasTimeout s
      | .measNow ix => Sys2Proof.Machine.execMeasNow ix s
      | .batchCommit ws => Sys2Proof.Machine.execBatchCommit ws s
      | .sealRequest back => Sys2Proof.Machine.execSealRequest back s
      | .sealingDone => Sys2Proof.Machine.execSealingDone s
      | .lmnClear => Sys2Proof.Machine.execLmnClear s
      | .sealWatchWrite ix v => Sys2Proof.Machine.execSealWatchWrite ix v s
      | .jrnCntClr ix => Sys2Proof.Machine.execJrnCntClr ix s
      | .wkey ix page v => Sys2Proof.Machine.execWkey ix page v s
      | .keyTimeout page => Sys2Proof.Machine.execKeyTimeout page s
      | .registerWrite ix page reg v full => Sys2Proof.Machine.execRegisterWrite ix page reg v full s
      | .loHalfRead ix page reg => Sys2Proof.Machine.execLoHalfRead ix page reg s
      | .bar2Read a n fs => Sys2Proof.Machine.execBar2Read a n fs s
      | .bar2Write a data => Sys2Proof.Machine.execBar2Write a data s
      | .pcieReset k => Sys2Proof.Machine.execPcieReset k s
      | .sqTailDoorbell ix q v => Sys2Proof.Machine.execSqTailDoorbell ix q v s
      | .cqHeadDoorbell ix q v => Sys2Proof.Machine.execCqHeadDoorbell ix q v s
      | .queueEnable ix q cfg => Sys2Proof.Machine.execQueueEnable ix q cfg s
      | .queueDisable ix q cfg => Sys2Proof.Machine.execQueueDisable ix q cfg s
      | .queueDrained q => Sys2Proof.Machine.execQueueDrained q s
      | .descriptorFetch d dma w => Sys2Proof.Machine.execDescriptorFetch d dma w s
      | .cqCoalTimeout q => Sys2Proof.Machine.execCqCoalTimeout q s
      | .evtAck ix => Sys2Proof.Machine.execEvtAck ix s
      | .pcieCntClr ix => Sys2Proof.Machine.execPcieCntClr ix s
      | .attest id => Sys2Proof.Machine.execAttest id s
      | .mgtRead f => Sys2Proof.Machine.execMgtRead f s
      | .mgtWrite f => Sys2Proof.Machine.execMgtWrite f s
      | .mgtKeyedWrite f => Sys2Proof.Machine.execMgtKeyedWrite f s
      | .mgtCsAbort a => Sys2Proof.Machine.execMgtCsAbort a s
      | .mbxGo ix => Sys2Proof.Machine.execMbxGo ix s
      | .mgtCntClr ix => Sys2Proof.Machine.execMgtCntClr ix s
      | .epochOpen ix => Sys2Proof.Machine.execEpochOpen ix s
      | .epochClose ix v => Sys2Proof.Machine.execEpochClose ix v s
      | .epochWindowRead ix k reg => Sys2Proof.Machine.execEpochWindowRead ix k reg s
      | .tapExtest shift => Sys2Proof.Machine.execTapExtest shift s
      | .tapSamplePreload l => Sys2Proof.Machine.execTapSamplePreload l s
      | .tapIdcode => Sys2Proof.Machine.execTapIdcode s
      | .tapClamp => Sys2Proof.Machine.execTapClamp s
      | .tapHighz => Sys2Proof.Machine.execTapHighz s
      | .tapBypass => Sys2Proof.Machine.execTapBypass s
      | .regAccessRead a early => Sys2Proof.Machine.execRegAccessRead a early s
      | .regAccessWrite a v early => Sys2Proof.Machine.execRegAccessWrite a v early s
      | .regAccessKeyedWrite a v early => Sys2Proof.Machine.execRegAccessKeyedWrite a v early s
      | .tapReset => Sys2Proof.Machine.execTapReset s
      | .uartLine n sent => Sys2Proof.Machine.execUartLine n sent s
      | .counterStart => Sys2Proof.Machine.execCounterStart s
      | .timeCaptureRead ix r => Sys2Proof.Machine.execTimeCaptureRead ix r s
      | .systemViewSnapshot seq => Sys2Proof.Machine.execSystemViewSnapshot seq s
      | .tileSnapshot => Sys2Proof.Machine.execTileSnapshot s
      | .compareMatch n => Sys2Proof.Machine.execCompareMatch n s
      | .compareWrite ix n r v => Sys2Proof.Machine.execCompareWrite ix n r v s
      | .compareWriteEffect n => Sys2Proof.Machine.execCompareWriteEffect n s
      | .timerTick n => Sys2Proof.Machine.execTimerTick n s
      | .timerStart ix n => Sys2Proof.Machine.execTimerStart ix n s
      | .timerStop ix n => Sys2Proof.Machine.execTimerStop ix n s
      | .timerClear ix n => Sys2Proof.Machine.execTimerClear ix n s
      | .timerCfgWrite ix n v => Sys2Proof.Machine.execTimerCfgWrite ix n v s
      | .timerWriteEffect n => Sys2Proof.Machine.execTimerWriteEffect n s
      | .timerCountRead ix n => Sys2Proof.Machine.execTimerCountRead ix n s
      | .faultReport n more => Sys2Proof.Machine.execFaultReport n more s
      | .faultChipReset atLimit => Sys2Proof.Machine.execFaultChipReset atLimit s
      | .errnRelease => Sys2Proof.Machine.execErrnRelease s
      | .errnTest ix => Sys2Proof.Machine.execErrnTest ix s
      | .ack ix src => Sys2Proof.Machine.execAck ix src s
      | .ackAll ix src => Sys2Proof.Machine.execAckAll ix src s
      | .promoClr ix src => Sys2Proof.Machine.execPromoClr ix src s
      | .promoClrAll ix src => Sys2Proof.Machine.execPromoClrAll ix src s
      | .srcCfgWrite ix v => Sys2Proof.Machine.execSrcCfgWrite ix v s
      | .errInjWrite ix page mask count => Sys2Proof.Machine.execErrInjWrite ix page mask count s
      | .hqSel ix age => Sys2Proof.Machine.execHqSel ix age s
      | .fcrCntClr ix => Sys2Proof.Machine.execFcrCntClr ix s
      | .crcStart ix n cmpEn => Sys2Proof.Machine.execCrcStart ix n cmpEn s
      | .crcDone n fs => Sys2Proof.Machine.execCrcDone n fs s
      | .crcPeriodicCheck => Sys2Proof.Machine.execCrcPeriodicCheck s
      | .assayRetry test => Sys2Proof.Machine.execAssayRetry test s
      | .assayLimitLost test x => Sys2Proof.Machine.execAssayLimitLost test x s
      | .refTestSlot t pass => Sys2Proof.Machine.execRefTestSlot t pass s
      | .monitorTestSlot x pass => Sys2Proof.Machine.execMonitorTestSlot x pass s
      | .pinTestSlot p => Sys2Proof.Machine.execPinTestSlot p s
      | .sotTestSlot p c => Sys2Proof.Machine.execSotTestSlot p c s
      | .storeSegment bank aborted pass ws => Sys2Proof.Machine.execStoreSegment bank aborted pass ws s
      | .assayOrderedSet p rx => Sys2Proof.Machine.execAssayOrderedSet p rx s
      | .assayResult p ended rx => Sys2Proof.Machine.execAssayResult p ended rx s
      | .pinTestAbort p pin => Sys2Proof.Machine.execPinTestAbort p pin s
      | .astCntClr ix => Sys2Proof.Machine.execAstCntClr ix s
      | .tchRead ix margin row => Sys2Proof.Machine.execTchRead ix margin row s
      | .prog ix row force => Sys2Proof.Machine.execProg ix row force s
      | .progComplete back spares entries => Sys2Proof.Machine.execProgComplete back spares entries s
      | .progWindowLost back => Sys2Proof.Machine.execProgWindowLost back s
      | .override ix row => Sys2Proof.Machine.execOverride ix row s
      | .clearOvr ix row => Sys2Proof.Machine.execClearOvr ix row s
      | .rowMove spares entries => Sys2Proof.Machine.execRowMove spares entries s
      | .tchCntClr ix => Sys2Proof.Machine.execTchCntClr ix s
      | .verifyRequest rank obj copy slot pk msg sig => Sys2Proof.Machine.execVerifyRequest rank obj copy slot pk msg sig s
      | .verifyDone us => Sys2Proof.Machine.execVerifyDone us s
      | .signingStep last selfOk dma => Sys2Proof.Machine.execSigningStep last selfOk dma s
      | .keyrecRepair => Sys2Proof.Machine.execKeyrecRepair s
      | .patchRepair => Sys2Proof.Machine.execPatchRepair s
      | .measSel ix index => Sys2Proof.Machine.execMeasSel ix index s
      | .hmkCntClr ix => Sys2Proof.Machine.execHmkCntClr ix s
      | .lmnPowerOn => Sys2Proof.Machine.execLmnPowerOn s
      | .lmnRoundStart ticks crossed chk => Sys2Proof.Machine.execLmnRoundStart ticks crossed chk s
      | .lmnRoundDecision pins => Sys2Proof.Machine.execLmnRoundDecision pins s
      | .wakeRelease ticks => Sys2Proof.Machine.execWakeRelease ticks s
      | .lmnAlignment ticks => Sys2Proof.Machine.execLmnAlignment ticks s
      | .logicDead => Sys2Proof.Machine.execLogicDead s
      | .vstbyLow low => Sys2Proof.Machine.execVstbyLow low s
      | .wakeTest ix => Sys2Proof.Machine.execWakeTest ix s
      | .lmnConfigWrite ix r v => Sys2Proof.Machine.execLmnConfigWrite ix r v s
      | .entrySel ix age => Sys2Proof.Machine.execEntrySel ix age s
      | .powerOnResetRelease vcoreEarly vioLate => Sys2Proof.Machine.execPowerOnResetRelease vcoreEarly vioLate s
      | .brownout r => Sys2Proof.Machine.execBrownout r s
      | .railRange r mv out => Sys2Proof.Machine.execRailRange r mv out s
      | .bridgeTakeover r mv => Sys2Proof.Machine.execBridgeTakeover r mv s
      | .feedWindowEnter b v => Sys2Proof.Machine.execFeedWindowEnter b v s
      | .feedWindowLeave b v => Sys2Proof.Machine.execFeedWindowLeave b v s
      | .feedQualified b => Sys2Proof.Machine.execFeedQualified b s
      | .feedFail a b gap va vb => Sys2Proof.Machine.execFeedFail a b gap va vb s
      | .swap ix => Sys2Proof.Machine.execSwap ix s
      | .shutdown ix => Sys2Proof.Machine.execShutdown ix s
      | .chargeDone => Sys2Proof.Machine.execChargeDone s
      | .chargeResume => Sys2Proof.Machine.execChargeResume s
      | .pwrCntClr ix => Sys2Proof.Machine.execPwrCntClr ix s
      | .powerFailStart causes => Sys2Proof.Machine.execPowerFailStart causes s
      | .enterParked => Sys2Proof.Machine.execEnterParked s
      | .railShutdown => Sys2Proof.Machine.execRailShutdown s
      | .bridgeLockout => Sys2Proof.Machine.execBridgeLockout s
      | .modeReqSafe ix => Sys2Proof.Machine.execModeReqSafe ix s
      | .modeReqRun ix => Sys2Proof.Machine.execModeReqRun ix s
      | .modeReqService ix => Sys2Proof.Machine.execModeReqService ix s
      | .modeTakeEffect => Sys2Proof.Machine.execModeTakeEffect s
      | .rstCmdChip ix => Sys2Proof.Machine.execRstCmdChip ix s
      | .rstCmdRegion ix region => Sys2Proof.Machine.execRstCmdRegion ix region s
      | .rstCmdBlock ix page => Sys2Proof.Machine.execRstCmdBlock ix page s
      | .storageResetDrained => Sys2Proof.Machine.execStorageResetDrained s
      | .resetEnd bad readBack fs => Sys2Proof.Machine.execResetEnd bad readBack fs s
      | .resetN ns => Sys2Proof.Machine.execResetN ns s
      | .chipReset atLimit => Sys2Proof.Machine.execChipReset atLimit s
      | .startupP0 strap pll xinOk xinExt mon us => Sys2Proof.Machine.execStartupP0 strap pll xinOk xinExt mon us s
      | .startupP1 romOk fcrOk kat line us => Sys2Proof.Machine.execStartupP1 romOk fcrOk kat line us s
      | .startupP2 r us => Sys2Proof.Machine.execStartupP2 r us s
      | .startupP3 groups items us => Sys2Proof.Machine.execStartupP3 groups items us s
      | .startupP4 kat readBack us => Sys2Proof.Machine.execStartupP4 kat readBack us s
      | .startupP5 us => Sys2Proof.Machine.execStartupP5 us s
      | .startupP6 fs us => Sys2Proof.Machine.execStartupP6 fs us s
      | .startupP7 us => Sys2Proof.Machine.execStartupP7 us s
      | .fieldTileWatchdog p => Sys2Proof.Machine.execFieldTileWatchdog p s
      | .idlePeriodicInjection => Sys2Proof.Machine.execIdlePeriodicInjection s
      | .storeMapRecovery bad => Sys2Proof.Machine.execStoreMapRecovery bad s
      | .pcieLinkUp width speed => Sys2Proof.Machine.execPcieLinkUp width speed s
      | .pcieConfigWrite bme msixEn msixMask d3 => Sys2Proof.Machine.execPcieConfigWrite bme msixEn msixMask d3 s
      | .resetNRelease => Sys2Proof.Machine.execResetNRelease s

end Sys2Proof.Machine
end

