-- ==== Sys2Proof/Safety.lean ====
section
/-! DEFINITION. The terms claims are stated in: the state but for what leaves to the host, raised events and reports, the canonical form of the store, and what a safe state of the outputs is. -/

namespace Sys2Proof.Machine

/-- The state but for the messages that have left towards the host and those that are pending: a raised event may send one (R332). -/
def hush (s : State) : State := { s with pcie := { s.pcie with out := [], pba := 0 } }

/-- The page headers once the events of mask `m` are raised on page `p` (Table HIF-1, EVT_RAW). -/
def raised (s : State) (p : Nat) (m : Word32) : Vector PageHdr 64 := vUpd s.pages p fun h => { h with evtRaw := h.evtRaw ||| m }

/-- The collector once a report of a source without a tile has left for it (R370). -/
def told (s : State) (src : Nat) (synd : Word32) (detail page : Nat) : Fcr :=
  { s.fcr with inbox := s.fcr.inbox ++ [{ src := src, synd := synd, detail := detail, page := page }] }

/-- An access of an interface reaches the block of a page: register access is open (R506), the page is present (R315) and its port is not fenced (R28). -/
def reaches (i : Iface) (p : Nat) (s : State) : Prop := portOpen i s = true ∧ pagePresent s.variant p = true ∧ pageFenced s p = false

/-- The state but for the traffic on the fabric and what leaves towards the host: an access is a transaction of its own (R33, Table ARC-3). -/
def quiet (s : State) : State := { hush s with arb := {} }

/-- The state but for what an interface itself keeps of an access: the answer driven and the frame count on management SPI (R334), the capture register of the debug port (R341), what leaves over PCIe; and but for the transaction the access is. -/
def seen (i : Iface) (s : State) : State :=
  match i with
  | .pcie => quiet s
  | .mgt => (fun h : State => { h with mgt := { h.mgt with frames := 0, lastStat := 0, resp := [] } }) (quiet s)
  | .debug => (fun h : State => { h with dbg := {} }) (quiet s)

/-- What interface `i` was answered by a read that led from `s` to `t`. -/
def answered (i : Iface) (v : Word32) (s t : State) : Prop :=
  match i with
  | .pcie => t.pcie.out = s.pcie.out ++ [.readData (leBytes 4 v.toNat) false]
  | .mgt => t.mgt.resp = mgtResp t.mgt.lastStat [v]
  | .debug => t.dbg.data = v

/-- From `s` to `t` nothing but one side of one tile has changed (R215). -/
def onlySide (p : Nat) (c : Chan) (s t : State) : Prop :=
  t = { s with tiles := t.tiles } ∧ ∀ q d, q ≠ p ∨ sideChan q d ≠ sideChan p c → sideOf t q d = sideOf s q d

/-- Both command images are all-off: every output is commanded to its off state (R92, R93). -/
def outputsOff (s : State) : Prop :=
  s.ilkl.imgA.sot = 0 ∧ s.ilkl.imgA.field = 0 ∧ s.ilkl.imgB.sot = 0 ∧ s.ilkl.imgB.field = 0

/-- The trip latch is set, `code` stands in TRIP_SET, and every output is commanded off (R92, R93). -/
def tripped (code : Nat) (s : State) : Prop := s.ilkl.trip = true ∧ s.ilkl.tripSet.getLsbD code = true ∧ outputsOff s

/-- From `s` to `t` the oldest command in flight named `id` has come to stage `g`, and every other one is as it was (R324, R329). -/
def stageTo (id : CmdId) (g : CmdStage) (s t : State) : Prop :=
  cmdOf t id = (cmdOf s id).map (fun c => { c with stage := g }) ∧ (∀ j, j ≠ id → cmdOf t j = cmdOf s j) ∧ t.pcie.cmds.length = s.pcie.cmds.length

/-- The oldest command in flight named `id` ends with completion `k`, which is still to be posted (R329). -/
def decidedTo (id : CmdId) (k : Cpl) (s t : State) : Prop := stageTo id (.decided k) s t

/-- From `s` to `t` the power-fail sequence has begun for a cause that no earlier one preceded (R487, R488 steps 1 and 2): the outputs are commanded off, the charger stops, a pending mode request is cancelled, and the store and the journal stand. -/
def failing (cause : Nat) (s t : State) : Prop :=
  outputsOff t ∧ t.pwr = { s.pwr with pfRun := true, pfFirst := cause, pfSet := setBit s.pwr.pfSet (cause - 1) true, pfAt := now s, charging := false, allOff := true } ∧
  t.fcr = told s 0x013 0 0 pgPwr ∧ (hdr t pgPwr).evtRaw.getLsbD 4 = true ∧ t.sys.modePend = none ∧
  t.sys.mode = s.sys.mode ∧ t.sto = s.sto ∧ t.jrn = s.jrn ∧ t.ilkl.trip = s.ilkl.trip ∧ t.ilkA = s.ilkA ∧ t.ilkB = s.ilkB

/-- After a chip reset with a cause code start-up stands at P0, every output is commanded off and the trip latch is clear; what waits in the queue, the array of the store and the antifuses stand (R507, Tables RST-8 and RST-9). -/
def chipFresh (code : Nat) (s t : State) : Prop :=
  t.rst.causeCode = BitVec.ofNat 4 code ∧ t.sys.mode = .starting ∧ t.sys.phase = 0 ∧ t.ilkl.trip = false ∧ outputsOff t ∧ t.pwr.pfRun = false ∧ t.pwr.off = false ∧
  t.pending = s.pending ∧ t.variant = s.variant ∧ t.sto.mem = s.sto.mem ∧ t.sto.log = s.sto.log ∧ t.tch.rows = s.tch.rows ∧ t.lmn.log = s.lmn.log ∧ t.lmn.watch = s.lmn.watch

/-- The Tablet can carry the channels' own frames (R178 to R180): no injection is armed on its port, neither mailbox is isolated, no barrier frame waits, both directions have passed the same barriers, and both channels hold a table of one TAG. -/
def framesPass (s : State) : Prop :=
  (hdr s pgTab).injCount = 0 ∧ cellIsolated s pgTab 0 = false ∧ cellIsolated s pgTab 1 = false ∧ s.tab.waitA = none ∧ s.tab.waitB = none ∧
    (∀ b < 8, isBarrierPos b = true → (b < s.tab.posA ↔ b < s.tab.posB)) ∧ tagOf .a s = tagOf .b s

/-- Checks 1 to 9 of Table ILK-13a on copy `n` give `r`, whatever the access that starts them leaves in the debug port, on the fabric and in CMD. -/
def checksGive (n : Nat) (r : CopyCheck) (s : State) : Prop :=
  ∀ (d : Dbg) (a : Arb) (op : BitVec 4) (copy : Bool), (runChecks n { cancelKey pgIlkl s with dbg := d, arb := a, ilkl := { s.ilkl with cmdOp := op, cmdCopy := copy } }).1 = r

/-- RESULT of an INSTALL of a copy whose checks give `r`, but for the read-back (R102, R104): the first check that fails, then the order of generations. -/
def installCode (s : State) (r : CopyCheck) : Nat :=
  if r.code ≠ 0 then r.code
  else match r.table with
    | some t => if s.ilkl.active.isSome ∧ t.gen ≤ s.ilkl.activeGen then 0x09 else 0
    | none => 0

/-- What the window drives of `bs` (R44, R277): nothing in PARKED, and nothing while queue 6 or 7 is severed. -/
def xspiDriven (s : State) (bs : Option (List Byte)) : Option (List Byte) :=
  if s.sys.mode = .parked ∨ (xq s 6).st ≠ .joined ∨ (xq s 7).st ≠ .joined then none else bs

/-- From `s` to `t` an xSPI command has left the window as `b` (R270): but for it, XSPI_CLK is noted as running (Table ARC-10) and words have passed queues 6 and 7, whose states stand. -/
def xspiLeaves (b : Boot) (s t : State) : Prop :=
  hush t = hush { s with boot := b, clkg := { s.clkg with monOk := setBit s.clkg.monOk 4 true }, queues := t.queues, pages := t.pages } ∧
    (∀ k, k ≠ 6 → k ≠ 7 → xq t k = xq s k) ∧ ∀ k, (xq t k).st = (xq s k).st

/-- The check of a slot's manifest (R273) ends as `o`, whatever the access that starts it leaves in the debug port, on the fabric and in CMD. -/
def trialGives (slot : Bool) (o : ManOut) (s : State) : Prop :=
  ∀ (d : Dbg) (a : Arb) (v : Word32), (trySlot slot { cancelKey pgBoot s with dbg := d, arb := a, boot := { s.boot with cmd := v } }).1 = o

/-- The store holds its bytes in canonical form: addresses rising, no byte equal to what an unlisted address reads as. -/
def storeCanonical (s : State) : Prop := Memory.wf s.sto.mem = true

/-- The ingot map and both its snapshots list each logical ingot once, in rising order. -/
def mapRising (s : State) : Prop :=
  (s.sto.map.map Prod.fst).Pairwise (· < ·) ∧ ∀ m : MapSnap, some m ∈ s.sto.snaps.toList → (m.map.map Prod.fst).Pairwise (· < ·)

end Sys2Proof.Machine
end

