-- ==== Sys2Proof/WellFormed.lean ====
section
/-! DEFINITION. Which commands are well formed: every operand names something the module has (a page, a queue, a tile position, a pin, a channel, a unit) or a value its source can bring about. Whether the fitted variant has it is a matter of the state. -/

namespace Sys2Proof

/-- The operands of a command stand in their ranges. Operands whose type has no value outside its range are not checked again. -/
def Instr.wellFormed (i : Instr) : Bool :=
  match i with
  | .cellTransactionFail page cell _ _ => decide (page < 64) && decide (cell < 65536)
  | .fabricTimeout page => decide (page < 64)
  | .fenceRemove page _ _ => decide (page < 64)
  | .queueSever q _ _ => decide (q < 26)
  | .queueRejoining q => decide (q.queue < 26)
  | .queueJoined q _ _ => decide (q < 26)
  | .clkMeasStart .. => true
  | .clkMeasDone .. => true
  | .pllUnlock .. => true
  | .monFail .. => true
  | .scanTick .. => true
  | .exchangePhase .. => true
  | .evaluatePhase .. => true
  | .comparePhase .. => true
  | .outputPhase => true
  | .tail .. => true
  | .latePhase .. => true
  | .staleImage => true
  | .tickTimeout => true
  | .verify .. => true
  | .install .. => true
  | .sync .. => true
  | .clearTrip .. => true
  | .testTrip .. => true
  | .unload .. => true
  | .reload .. => true
  | .loaderCmdComplete .. => true
  | .divClr .. => true
  | .maxClr .. => true
  | .lockstepMismatch .. => true
  | .interruptTaken .. => true
  | .debugHalt => true
  | .debugResume => true
  | .supWdog => true
  | .tabletFrame .. => true
  | .mismClr .. => true
  | .tickClr .. => true
  | .tabCntClr .. => true
  | .outboundLatch .. => true
  | .outboundFrame p _ _ => decide (p < 8)
  | .tilePeriod p _ _ => decide (p < 8)
  | .inboundFrame p _ _ _ _ => decide (p < 8)
  | .linkDown p _ => decide (p < 8)
  | .tilePowerReset p _ => decide (p < 8)
  | .tileFrameTimeout p => decide (p < 8)
  | .tileResetSequence p => decide (p < 8)
  | .pinFilterChange p pin _ _ => decide (p < 8) && decide (pin < (if p < 6 then 16 else 8))
  | .pinOverload p pin => decide (p < 6) && decide (pin < 16)
  | .tileOvercurrent p => decide (p < 6)
  | .pulseTimerExpiry p _ pin => decide (p < 8) && decide (pin < (if p < 6 then 16 else 8))
  | .supplyBandChange p _ _ => decide (p < 8)
  | .supplyTrip p _ => decide (p < 8)
  | .supplyQualified p _ => decide (p < 8)
  | .sotWatchdog p _ => decide (6 ≤ p) && decide (p < 8)
  | .overTemperature p _ => decide (p < 8)
  | .linkReset .. => true
  | .ftCntClr .. => true
  | .supplyRearm .. => true
  | .configWrite _ p n _ => decide (n.val < (if p.val < 6 then 16 else 8))
  | .testOverdue e => decide (e < 65536)
  | .captureTimeout p => decide (p < 6)
  | .xsClr .. => true
  | .tblCntClr .. => true
  | .hclaimClaim .. => true
  | .hclaimRelease .. => true
  | .read .. => true
  | .write .. => true
  | .writeAtomic .. => true
  | .atomicCommit .. => true
  | .flush .. => true
  | .commandCompletion .. => true
  | .migrationDone .. => true
  | .scrubStep .. => true
  | .ptRepair => true
  | .ptVerify .. => true
  | .stoCntClr .. => true
  | .parkRequest .. => true
  | .storeParked => true
  | .bootSlotSelect => true
  | .chunkLoaded n _ => decide (n < 2048)
  | .xspiRead _ k _ => decide (1 ≤ k)
  | .xspiFastRead _ k _ => decide (1 ≤ k)
  | .xspiReadSfdp _ k => decide (1 ≤ k)
  | .xspiReadStatus k => decide (1 ≤ k)
  | .xspiWriteEnable => true
  | .xspiWriteVolatileConfig .. => true
  | .xspiReadVolatileConfig .. => true
  | .xspiResetEnable => true
  | .xspiReset => true
  | .xspiIgnored => true
  | .xspiHwReset => true
  | .bootRearm .. => true
  | .bootRelease .. => true
  | .confirm .. => true
  | .setTrial .. => true
  | .setIf .. => true
  | .clearTrial .. => true
  | .bootCmdDone .. => true
  | .journalAppend .. => true
  | .snapshot .. => true
  | .journalRead .. => true
  | .seqAssign => true
  | .floorSnapshotDone => true
  | .gapRecord => true
  | .creditRecompute holdV => decide (holdV < 4096)
  | .holdupMeasDue => true
  | .holdupMeasPostpone => true
  | .holdupMeasStart .. => true
  | .holdupMeasTimerStart => true
  | .holdupMeasDone .. => true
  | .holdupMeasTimeout => true
  | .measNow .. => true
  | .batchCommit .. => true
  | .sealRequest .. => true
  | .sealingDone => true
  | .lmnClear => true
  | .sealWatchWrite .. => true
  | .jrnCntClr .. => true
  | .wkey .. => true
  | .keyTimeout .. => true
  | .registerWrite .. => true
  | .loHalfRead .. => true
  | .bar2Read a n _ => decide (1 ≤ n) && decide (a + n ≤ 536870912)
  | .bar2Write .. => true
  | .pcieReset .. => true
  | .sqTailDoorbell .. => true
  | .cqHeadDoorbell .. => true
  | .queueEnable .. => true
  | .queueDisable .. => true
  | .queueDrained .. => true
  | .descriptorFetch d _ _ => d.oparg.length == 32
  | .cqCoalTimeout .. => true
  | .evtAck .. => true
  | .pcieCntClr .. => true
  | .attest .. => true
  | .mgtRead f => f.data.length == 0
  | .mgtWrite f => f.data.length == f.opb.toNat / 16 + 1
  | .mgtKeyedWrite f => f.data.length == f.opb.toNat / 16 + 1
  | .mgtCsAbort .. => true
  | .mbxGo .. => true
  | .mgtCntClr .. => true
  | .epochOpen .. => true
  | .epochClose .. => true
  | .epochWindowRead .. => true
  | .tapExtest .. => true
  | .tapSamplePreload .. => true
  | .tapIdcode => true
  | .tapClamp => true
  | .tapHighz => true
  | .tapBypass => true
  | .regAccessRead .. => true
  | .regAccessWrite .. => true
  | .regAccessKeyedWrite .. => true
  | .tapReset => true
  | .uartLine n _ => decide (1 ≤ n)
  | .counterStart => true
  | .timeCaptureRead .. => true
  | .systemViewSnapshot .. => true
  | .tileSnapshot => true
  | .compareMatch n => decide (n < 32)
  | .compareWrite .. => true
  | .compareWriteEffect n => decide (n < 32)
  | .timerTick n => decide (n < 8)
  | .timerStart .. => true
  | .timerStop .. => true
  | .timerClear .. => true
  | .timerCfgWrite .. => true
  | .timerWriteEffect n => decide (n < 8)
  | .timerCountRead .. => true
  | .faultReport _ more => more.all fun r => decide (r.src < 512) && decide (r.page < 64)
  | .faultChipReset .. => true
  | .errnRelease => true
  | .errnTest .. => true
  | .ack .. => true
  | .ackAll .. => true
  | .promoClr .. => true
  | .promoClrAll .. => true
  | .srcCfgWrite .. => true
  | .errInjWrite .. => true
  | .hqSel .. => true
  | .fcrCntClr .. => true
  | .crcStart .. => true
  | .crcDone n _ => decide (n < 4)
  | .crcPeriodicCheck => true
  | .assayRetry test => decide (1 ≤ test) && decide (test ≤ 16)
  | .assayLimitLost test _ => decide (1 ≤ test) && decide (test ≤ 16)
  | .refTestSlot .. => true
  | .monitorTestSlot .. => true
  | .pinTestSlot .. => true
  | .sotTestSlot .. => true
  | .storeSegment .. => true
  | .assayOrderedSet .. => true
  | .assayResult .. => true
  | .pinTestAbort .. => true
  | .astCntClr .. => true
  | .tchRead .. => true
  | .prog .. => true
  | .progComplete .. => true
  | .progWindowLost .. => true
  | .override .. => true
  | .clearOvr .. => true
  | .rowMove .. => true
  | .tchCntClr .. => true
  | .verifyRequest rank obj copy slot pk _ _ => decide (rank < 8) && decide (obj < 16) && decide (copy < 4) && decide (slot < 4) && pk.length == 32
  | .verifyDone .. => true
  | .signingStep .. => true
  | .keyrecRepair => true
  | .patchRepair => true
  | .measSel .. => true
  | .hmkCntClr .. => true
  | .lmnPowerOn => true
  | .lmnRoundStart .. => true
  | .lmnRoundDecision .. => true
  | .wakeRelease .. => true
  | .lmnAlignment .. => true
  | .logicDead => true
  | .vstbyLow .. => true
  | .wakeTest .. => true
  | .lmnConfigWrite .. => true
  | .entrySel .. => true
  | .powerOnResetRelease .. => true
  | .brownout .. => true
  | .railRange .. => true
  | .bridgeTakeover .. => true
  | .feedWindowEnter .. => true
  | .feedWindowLeave .. => true
  | .feedQualified .. => true
  | .feedFail _ _ gap _ _ => decide (gap ≤ 64)
  | .swap .. => true
  | .shutdown .. => true
  | .chargeDone => true
  | .chargeResume => true
  | .pwrCntClr .. => true
  | .powerFailStart .. => true
  | .enterParked => true
  | .railShutdown => true
  | .bridgeLockout => true
  | .modeReqSafe .. => true
  | .modeReqRun .. => true
  | .modeReqService .. => true
  | .modeTakeEffect => true
  | .rstCmdChip .. => true
  | .rstCmdRegion .. => true
  | .rstCmdBlock .. => true
  | .storageResetDrained => true
  | .resetEnd .. => true
  | .resetN .. => true
  | .chipReset .. => true
  | .startupP0 _ _ _ _ _ us => decide (us < 1048576)
  | .startupP1 _ _ _ _ us => decide (us < 1048576)
  | .startupP2 _ us => decide (us < 1048576)
  | .startupP3 _ _ us => decide (us < 1048576)
  | .startupP4 _ _ us => decide (us < 1048576)
  | .startupP5 us => decide (us < 1048576)
  | .startupP6 _ us => decide (us < 1048576)
  | .startupP7 us => decide (us < 1048576)
  | .fieldTileWatchdog p => decide (p < 6)
  | .idlePeriodicInjection => true
  | .storeMapRecovery .. => true
  | .pcieLinkUp .. => true
  | .pcieConfigWrite .. => true
  | .resetNRelease => true

end Sys2Proof
end

