-- ==== Sys2Proof/Certificates/Slice0/Obligations.lean ====
section
/-! DEFINITION. The statements for the provers. -/

open Sys2Proof Sys2Proof.Machine

/-! ## Cells, fences, queues, clock generation -/

/-- CELL_TRANSACTION_FAIL (R25 to R27, R250): what an isolated cell answers, the third failure of one transaction, which isolates a cell of a block or a bank of the store, every other failure, and the frame. -/
def Obligations.CellFailuresRetryThenIsolate : Prop :=
  ∀ (s : State) (page cell : Nat) (fresh unserved : Bool),
    let c := smGetD s.fab.cells (cellKey page cell) {}
    (cellAnswersIsolated page cell s = true →
      exec (.cellTransactionFail page cell fresh unserved) s = .next { s with fab := { s.fab with cellIsolatedResp := true } }) ∧
    (cellAnswersIsolated page cell s = false → fresh = false → 2 ≤ c.fails → page ≠ pgSto ∨ 32 ≤ cell →
      ∃ t, exec (.cellTransactionFail page cell fresh unserved) s = .next t ∧
        smGetD t.fab.cells (cellKey page cell) {} = { fails := 0, isolated := true } ∧
        (∀ k, k ≠ cellKey page cell → smGetD t.fab.cells k {} = smGetD s.fab.cells k {}) ∧
        t.fcr = told s (if safetyPage page || unserved then 0x00F else 0x00E) 0 cell page ∧
        t = { s with fab := { s.fab with cells := t.fab.cells, cellIsolatedResp := false }, fcr := t.fcr }) ∧
    (cellAnswersIsolated pgSto cell s = false → fresh = false → 2 ≤ (smGetD s.fab.cells (cellKey pgSto cell) {}).fails → cell < 32 →
      ∃ t, exec (.cellTransactionFail pgSto cell fresh unserved) s = .next t ∧ t.sto.bankIso = setBit s.sto.bankIso cell true ∧ (hdr t pgSto).evtRaw.getLsbD 4 = true ∧
        (vGet s.sto.spare (dieOf cell) none = none → vGet t.sto.spare (dieOf cell) none = some cell ∧ vGet t.sto.migr (dieOf cell) none = some cell ∧
          vGet t.sto.migrPos (dieOf cell) 0 = 0 ∧ t.sto.dead = s.sto.dead ∧ t.fcr = told s 0x082 0 0 pgSto) ∧
        (∀ b, vGet s.sto.spare (dieOf cell) none = some b → t.sto.dead = setBit s.sto.dead cell true ∧ t.sto.spare = s.sto.spare ∧ t.fcr = told s 0x083 0 0 pgSto) ∧
        t.sto.mem = s.sto.mem ∧ t.sto.map = s.sto.map ∧ hush t = hush { s with fab := t.fab, sto := t.sto, fcr := t.fcr, pages := t.pages }) ∧
    (cellAnswersIsolated page cell s = false → fresh = true ∨ c.fails < 2 →
      ∃ t, exec (.cellTransactionFail page cell fresh unserved) s = .next t ∧
        smGetD t.fab.cells (cellKey page cell) {} = { fails := if fresh then 1 else c.fails + 1 } ∧
        (∀ k, k ≠ cellKey page cell → smGetD t.fab.cells k {} = smGetD s.fab.cells k {}) ∧
        t = { s with fab := { s.fab with cells := t.fab.cells, turns := if fresh then smSet s.fab.turns page (cell % 65536) else s.fab.turns, cellIsolatedResp := false } })

/-- FABRIC_TIMEOUT, FENCE_REMOVE (R28, R29): a port that does not answer is fenced, its queues are severed on its side, source 0x00D is raised, and a safety block's fence forces the catch points; a fence goes only after reset, check and drain, and while no reset that runs holds the page. -/
def Obligations.FencesAreSetAndRemoved : Prop :=
  (∀ (s : State) (page : Nat), page < 64 → pagePresent s.variant page = true → regionIndex page < 4 → s.fab.fenced.getLsbD page = false →
    ∃ t, exec (.fabricTimeout page) s = .next t ∧
      t.fab.fenced.getLsbD page = true ∧ t.fab.resetDone.getLsbD page = false ∧
      (∀ q, q ∈ queuesOfPage page → (xq t q).st = .severed ∨ (xq t q).st = .absent) ∧
      (∃ r ∈ t.fcr.inbox, r.src = 0x00D ∧ r.detail = regionIndex page ∧ r.page = page) ∧
      (safetyPage page = true → t.ilkl.trip = true ∧ outputsOff t) ∧
      (safetyPage page = false → hush t = hush { s with fab := t.fab, queues := t.queues, pages := t.pages, fcr := t.fcr, arb := t.arb })) ∧
  (∀ (s : State) (page : Nat), page < 64 → pageInReset page s = false → s.fab.fenced.getLsbD page = true → s.fab.stuck.getLsbD page = false → s.fab.resetDone.getLsbD page = true →
    ∃ t, exec (.fenceRemove page true true) s = .next t ∧
      t.fab.fenced.getLsbD page = false ∧ (∀ p, p ≠ page → t.fab.fenced.getLsbD p = s.fab.fenced.getLsbD p) ∧
      t = { s with fab := { s.fab with fenced := t.fab.fenced, resetDone := t.fab.resetDone } }) ∧
  (∀ (s : State) (page : Nat) (checked drained : Bool), s.fab.resetDone.getLsbD page = false ∨ checked = false ∨ drained = false ∨ pageInReset page s = true →
    exec (.fenceRemove page checked drained) s = .next s)

/-- QUEUE_SEVER, QUEUE_REJOINING, QUEUE_JOINED (R44 to R46): the states of Table ARC-7, the discard count, the events of CLKG, source 0x009, a reset that meets a join, and the frame. CLK_MEAS_START, CLK_MEAS_DONE, PLL_UNLOCK, MON_FAIL (R48, R49, Table FCR-2): a measurement's start and result of a measurement, the bit that falls, the events and sources, and the frame. -/
def Obligations.QueuesSeverAndMonitorsReport : Prop :=
  ((∀ (s : State) (q : Nat) (prod cons : Bool), q < 25 → (prod || cons) = true → (xq s q).st = .joined ∨ (xq s q).st = .rejoining →
    ∃ t, exec (.queueSever q prod cons) s = .next t ∧
      xq t q = { st := .severed, discards := 0, prodRst := prod, consRst := cons } ∧
      (∀ k, k ≠ q → xq t k = xq s k) ∧
      hush t = hush { s with queues := t.queues, pages := raised s pgClkg 0x4, fcr := told s 0x009 0 q pgClkg }) ∧
  (∀ (s : State) (q : Nat) (prodReq consReq : Bool), q < 26 → (xq s q).st = .severed → queueMayRejoin q s = true →
    ∃ t, exec (.queueRejoining ⟨q, prodReq, consReq⟩) s = .next t ∧
      ((prodReq && consReq) = true → xq t q = { st := .rejoining, discards := (xq s q).discards, sevRead := (xq s q).sevRead }) ∧
      ((prodReq && consReq) = false → xq t q = { (xq s q) with prodRst := (xq s q).prodRst && !prodReq, consRst := (xq s q).consRst && !consReq }) ∧
      (∀ k, k ≠ q → xq t k = xq s k) ∧ t = { s with queues := t.queues }) ∧
  (∀ (s : State) (q : Nat) (prodReq consReq : Bool), (xq s q).st ≠ .severed ∨ queueMayRejoin q s = false → exec (.queueRejoining ⟨q, prodReq, consReq⟩) s = .next s) ∧
  (∀ (s : State) (q : Nat), q < 26 → (xq s q).st = .rejoining →
    (∃ t, exec (.queueJoined q false false) s = .next t ∧
      xq t q = { (xq s q) with st := .joined } ∧ (∀ k, k ≠ q → xq t k = xq s k) ∧
      hush t = hush { s with queues := t.queues, pages := raised s pgClkg 0x8 }) ∧
    (∀ prod cons : Bool, (prod || cons) = true →
      ∃ t, exec (.queueJoined q prod cons) s = .next t ∧ (xq t q).st = .severed)) ∧
  (∀ (s : State) (q : Nat) (prod cons : Bool), (xq s q).st ≠ .rejoining → exec (.queueJoined q prod cons) s = .next s)) ∧
  ((∀ (s : State) (i : Iface) (d : BitVec 3), reaches i pgClkg s →
    ∃ t, exec (.clkMeasStart i d) s = .next t ∧
      seen i t = seen i { cancelKey pgClkg s with clkg := { s.clkg with measDomain := d, measRun := some d, measValid := false } } ∧
      ∀ freq : BitVec 24, ∃ u, exec (.clkMeasDone freq) t = .next u ∧ u.clkg.measFreq = freq ∧ u.clkg.measValid = true ∧ u.clkg.measRun = none) ∧
  (∀ (s : State) (freq : BitVec 24) (d : BitVec 3), s.clkg.measRun = some d →
    ∃ t, exec (.clkMeasDone freq) s = .next t ∧
      hush t = hush { s with clkg := { s.clkg with measRun := none, measValid := true, measFreq := freq }, pages := raised s pgClkg 0x10 }) ∧
  (∀ (s : State) (b : Fin 4) (perstLow : Bool), s.clkg.pll.getLsbD b.val = true →
    ∃ t, exec (.pllUnlock b perstLow) s = .next t ∧
      (∀ k : Nat, t.clkg.pll.getLsbD k = (s.clkg.pll.getLsbD k && decide (k ≠ b.val))) ∧
      hush t = hush { s with clkg := { s.clkg with pll := t.clkg.pll }, pages := raised s pgClkg 0x1, fcr := if b.val = 3 ∧ perstLow = true then s.fcr else told s 0x002 0 0 pgClkg }) ∧
  (∀ (s : State) (b : Fin 7) (perstLow : Bool), s.clkg.monOk.getLsbD b.val = true →
    ∃ t, exec (.monFail b perstLow) s = .next t ∧
      (∀ k : Nat, t.clkg.monOk.getLsbD k = (s.clkg.monOk.getLsbD k && decide (k ≠ b.val))) ∧
      hush t = hush { s with clkg := { s.clkg with monOk := t.clkg.monOk }, pages := raised s pgClkg 0x2, fcr := t.fcr } ∧
      (b.val = 0 → t.fcr = told s 0x003 0 0 pgClkg) ∧ (b.val = 1 → t.fcr = told s 0x004 0 0 pgClkg) ∧ (b.val = 2 → t.fcr = told s 0x005 0 0 pgClkg) ∧
      (b.val = 3 → t.fcr = if perstLow then s.fcr else told s 0x006 0 0 pgClkg) ∧ (b.val = 6 → t.fcr = told s 0x007 0 0 pgClkg) ∧
      (b.val = 4 ∨ b.val = 5 → t.fcr = s.fcr)) ∧
  (∀ (s : State) (b : Fin 4) (perstLow : Bool), s.clkg.pll.getLsbD b.val = false → exec (.pllUnlock b perstLow) s = .next s) ∧
  (∀ (s : State) (b : Fin 7) (perstLow : Bool), s.clkg.monOk.getLsbD b.val = false → exec (.monFail b perstLow) s = .next s))

/-! ## Registers, keys and access -/

/-- WKEY, KEY_TIMEOUT (R19): the value 0x0000A5C3 opens the page's key sequence for the writing interface, every other value leaves it closed and sets ERR_STAT.KEY, the time limit closes it, and nothing else changes. REGISTER_WRITE of a register whose only writable fields are RWK, without the key sequence (R19): the register keeps its value, ERR_STAT.KEY is set with the offset and the interface, and nothing else changes. -/
def Obligations.KeySequencesGuardWrites : Prop :=
  ((∀ (s : State) (i : Iface) (page : BitVec 8), reaches i page.toNat s → pageKind s.variant page.toNat ≠ .ep →
    (∃ t, exec (.wkey i page 0x0000A5C3) s = .next t ∧
      seen i t = seen i { s with pages := vUpd s.pages page.toNat fun h => { h with key := some i } }) ∧
    (∀ v : Word32, v ≠ 0x0000A5C3 →
      ∃ t, exec (.wkey i page v) s = .next t ∧
        seen i t = seen i { s with pages := vUpd s.pages page.toNat fun h => { h with key := none, errStat := setBit h.errStat 0 true, errOff := 0x024, errIface := i } })) ∧
  (∀ (s : State) (page : BitVec 8),
    exec (.keyTimeout page) s = .next { s with pages := vUpd s.pages page.toNat fun h => { h with key := none } })) ∧
  (∀ (s : State) (i : Iface) (page : BitVec 8) (reg : BitVec 10) (v : Word32),
    reaches i page.toNat s → pageKind s.variant page.toNat ≠ .ep → 0x028 ≤ 4 * reg.toNat ∨ reg.toNat = 2 → (hdr s page.toNat).key ≠ some i →
    (fieldsOf (pageKind s.variant page.toNat) (4 * reg.toNat)).rwk ≠ 0 →
    (fieldsOf (pageKind s.variant page.toNat) (4 * reg.toNat)).rw ||| (fieldsOf (pageKind s.variant page.toNat) (4 * reg.toNat)).wo = 0 →
    ∃ t, exec (.registerWrite i page reg v true) s = .next t ∧
      seen i t = seen i { s with pages := vUpd s.pages page.toNat fun h => { h with key := none, errStat := setBit h.errStat 0 true, errOff := BitVec.ofNat 12 (4 * reg.toNat), errIface := i } })

/-- REGISTER_WRITE of the header registers (Table HIF-1, R20): EVT_RAW is cleared by ones; EVT_EN takes the implemented events; a PCIe write that does not enable every byte is discarded with WIDTH (R319); a write to an absent page changes no register (R315). -/
def Obligations.HeaderWritesAndDiscards : Prop :=
  ∀ (s : State) (i : Iface) (page : BitVec 8) (v : Word32),
    (reaches i page.toNat s → pageKind s.variant page.toNat ≠ .ep →
      (∃ t, exec (.registerWrite i page 4 v true) s = .next t ∧
        seen i t = seen i { s with pages := vUpd s.pages page.toNat fun h => { h with key := none, evtRaw := h.evtRaw &&& ~~~v } }) ∧
      (∃ t, exec (.registerWrite i page 5 v true) s = .next t ∧
        seen i t = seen i { s with pages := vUpd s.pages page.toNat fun h => { h with key := none, evtEn := v &&& evtMask (pageKind s.variant page.toNat) } })) ∧
    (reaches .pcie page.toNat s → ∀ reg : BitVec 10,
      ∃ t, exec (.registerWrite .pcie page reg v false) s = .next t ∧
        seen .pcie t = seen .pcie { s with pages := vUpd s.pages page.toNat fun h => { h with key := none, errStat := setBit h.errStat 4 true, errOff := BitVec.ofNat 12 (4 * reg.toNat), errIface := .pcie } }) ∧
    (portOpen i s = true → pagePresent s.variant page.toNat = false → ∀ reg : BitVec 10,
      ∃ t, exec (.registerWrite i page reg v true) s = .next t ∧
        seen i t = seen i { s with pages := match i with | .pcie => raised s pgPcie 0x8 | .mgt => raised s pgMgt 0x8 | .debug => s.pages })

/-- LO_HALF_READ, TIME_CAPTURE_READ (R22, R349): a read of a low half answers it and latches the high half of the same moment for the reading interface and no other; TIME captures a count 2 to 4 cycles on while the counter runs. -/
def Obligations.LowHalvesLatchHighHalves : Prop :=
  (∀ (s : State) (i : Iface) (page : BitVec 8) (reg : BitVec 10) (q : Nat),
    reaches i page.toNat s → 0x040 ≤ 4 * reg.toNat → loQuantity i page.toNat (4 * reg.toNat) s = some q →
    readPortOf i page.toNat (4 * reg.toNat) s = none →
    ∃ t, exec (.loHalfRead i page reg) s = .next t ∧ answered i (lo32 q) s t ∧
      smGetD t.latch (latchKey i page.toNat (4 * reg.toNat + 4)) 0 = hi32 q ∧
      seen i t = seen i { cancelKey page.toNat s with latch := t.latch } ∧
      (∀ k, k ≠ latchKey i page.toNat (4 * reg.toNat + 4) → smGetD t.latch k 0 = smGetD s.latch k 0)) ∧
  (∀ (s : State) (i : Iface) (r : TimeReg), reaches i pgTbase s → (hdr s pgTbase).injCount = 0 →
    ∃ t, exec (.timeCaptureRead i r) s = .next t ∧
      seen i t = seen i { cancelKey pgTbase s with latch := t.latch, free := t.free } ∧
      ∃ q : Nat, answered i (lo32 q) s t ∧
        (match r with
         | .time => smGetD t.latch (latchKey i pgTbase 0x044) 0 = hi32 q ∧ (s.tb.running = false → q = s.tb.counter) ∧ (s.tb.running = true → s.tb.counter + 2 ≤ q ∧ q ≤ s.tb.counter + 4)
         | .snap => smGetD t.latch (latchKey i pgTbase 0x04C) 0 = hi32 q ∧ q = s.tb.snapTime
         | .matchLo n => smGetD t.latch (latchKey i pgTbase (0x114 + 0x20 * n.val)) 0 = hi32 q ∧ q = (chanOf s n.val).matchTime.toNat))
/-! ## The Station clock, compare channels and timers -/

/-- COUNTER_START, SYSTEM_VIEW_SNAPSHOT, TILE_SNAPSHOT (R346, R350, R351): the counter starts from 0 once TB_LOCK is 1; the view never decreases and VIEW_OK falls, with source 0x010, when a snapshot is out of sequence; the tile snapshot takes every millisecond. -/
def Obligations.CounterAndSnapshots : Prop :=
  (∀ s : State, s.clkg.pll.getLsbD 1 = true → s.tb.running = false →
    ∃ t, exec .counterStart s = .next t ∧ t = { s with tb := t.tb } ∧ t.tb.running = true ∧ t.tb.counter = 0 ∧ t.tb.view = 0 ∧ t.tb.chans = s.tb.chans) ∧
  (∀ s : State, s.clkg.pll.getLsbD 1 = false ∨ s.tb.running = true → exec .counterStart s = .next s) ∧
  (∀ (s : State) (seq : BitVec 8), s.tb.running = true →
    ∃ t, exec (.systemViewSnapshot seq) s = .next t ∧ s.tb.view ≤ t.tb.view ∧ t.tb.viewSeq = some seq ∧
      t = { s with tb := { s.tb with view := t.tb.view, viewSeq := t.tb.viewSeq, viewGood := t.tb.viewGood, viewOk := t.tb.viewOk }, fcr := t.fcr } ∧
      ((s.tb.viewSeq = none ∨ s.tb.viewSeq = some (seq - 1)) → t.tb.view = max s.tb.view s.tb.counter ∧ t.fcr = s.fcr) ∧
      (∀ q, s.tb.viewSeq = some q → q ≠ seq - 1 → t.tb.view = s.tb.view ∧ t.tb.viewOk = false ∧ t.fcr = told s 0x010 0 0 pgTbase)) ∧
  (∀ s : State, s.tb.running = true → s.tb.counter % 100000 = 0 → s.tb.snapTime < s.tb.counter →
    exec .tileSnapshot s = .next { s with tb := { s.tb with snapTime := s.tb.counter, snapSeq := s.tb.snapSeq + 1 } })

/-- COMPARE_MATCH, COMPARE_WRITE, COMPARE_WRITE_EFFECT (R41, R242, R353, R354, R356, R357): what a match records, re-arms and raises, its crossing with the one-deep pending flag and source 0x008 for an event that meets it set; what a write by the owner stages; the effect with LATE for a COMPARE value already past; a write by anyone else sets OWNER alone. -/
def Obligations.CompareChannelsMatchAndTakeWrites : Prop :=
  (∀ (s : State) (n : Nat), n < 32 → s.tb.running = true → (chanOf s n).en = true → (chanOf s n).cmp = counter64 s → cellIsolated s pgTbase n = false →
    let near := decide ((chanOf s n).matchCnt ≠ 0 ∨ (chanOf s n).matchTime ≠ 0) && mergesWith (chanOf s n).matchTime.toNat s.tb.counter
    let x := present s.tb.counter (chanOf s n).cross
    ∃ t, exec (.compareMatch n) s = .next t ∧
      hush t = hush { s with pages := raised s pgTbase (BitVec.ofNat 32 (2 ^ n)), fcr := (if x.2 then told s 0x008 0 n pgTbase else s.fcr), tb := { s.tb with chans := vUpd s.tb.chans n fun c => { c with cross := x.1, merged := c.merged || near, matchTime := counter64 s, matchCnt := c.matchCnt + 1, cmp := c.cmp + (if c.interval = 0 then 0 else if c.interval.toNat < 8 then 8 else c.interval.setWidth 64) } } }) ∧
  (∀ (s : State) (n : Nat), (chanOf s n).en = false ∨ (chanOf s n).cmp ≠ counter64 s ∨ s.tb.running = false ∨ cellIsolated s pgTbase n = true → exec (.compareMatch n) s = .next s) ∧
  (∀ (t : Nat) (c : Crossing), c.held = false → (c.freeAt ≤ t → present t c = ({ freeAt := t + roundTrip, held := false }, false)) ∧ (t < c.freeAt → present t c = ({ c with held := true }, false))) ∧
  (∀ (s : State) (i : Iface) (n : Fin 32) (v : Word32), reaches i pgTbase s →
    (hostMayWrite s 2 n.val = true →
      (∃ t, exec (.compareWrite i n .cmpLo v) s = .next t ∧
        seen i t = seen i { cancelKey pgTbase s with tb := { s.tb with chans := vUpd s.tb.chans n.val fun c => { c with staged := vSet c.staged (ifaceNo i) v } } }) ∧
      ((chanOf s n.val).wrPend = none →
        (∃ t, exec (.compareWrite i n .cmpHi v) s = .next t ∧
          seen i t = seen i { cancelKey pgTbase s with tb := { s.tb with chans := vUpd s.tb.chans n.val fun c => { c with wrPend := some (.compare (v ++ vGet c.staged (ifaceNo i) 0)) } } }) ∧
        (∃ t, exec (.compareWrite i n .interval v) s = .next t ∧
          seen i t = seen i { cancelKey pgTbase s with tb := { s.tb with chans := vUpd s.tb.chans n.val fun c => { c with wrPend := some (.interval v) } } }) ∧
        (∃ t, exec (.compareWrite i n .cfg v) s = .next t ∧
          seen i t = seen i { cancelKey pgTbase s with tb := { s.tb with chans := vUpd s.tb.chans n.val fun c => { c with wrPend := some (.cfg (v.getLsbD 0)) } } }))) ∧
    (hostMayWrite s 2 n.val = false → ∀ r : CmpReg,
      ∃ t, exec (.compareWrite i n r v) s = .next t ∧
        seen i t = seen i (errStat i pgTbase (0x100 + 0x20 * n.val + cmpRegOff r) 3 (cancelKey pgTbase s)))) ∧
  (∀ (s : State) (n : Nat) (v : Word64), n < 32 → (chanOf s n).wrPend = some (.compare v) →
    exec (.compareWriteEffect n) s = .next { s with tb := { s.tb with chans := vUpd s.tb.chans n fun c => { c with wrPend := none, cmp := v, late := c.late || decide (v < counter64 s) } } })

/-- TIMER_TICK, TIMER_WRITE_EFFECT, TIMER_COUNT_READ (R359, R361, R362): a tick counts one up and restarts the prescaler; at RELOAD the count returns to 0, the wrap event is raised and a one-shot stops; a write takes effect with STOP before START; a read answers the count. TIMER_START, TIMER_STOP, TIMER_CLEAR, TIMER_CFG_WRITE (R242, R360, R361): by the owner, with no write pending, the write starts to cross; a CFG that R360 forbids sets VALUE, and a write by anyone but the owner OWNER. -/
def Obligations.TimersTickAndTakeWrites : Prop :=
  ((∀ (s : State) (n : Nat), n < 8 → prescCounts s (tmrOf s n) = true → (tmrOf s n).prescale.toNat < (tmrOf s n).presc →
    ((tmrOf s n).count ≠ (tmrOf s n).reload → (tmrOf s n).count ≠ 0xFFFFFFFF →
      exec (.timerTick n) s = .next { s with tmr := vUpd s.tmr n fun t => { t with count := t.count + 1, presc := 0 } }) ∧
    ((tmrOf s n).count = (tmrOf s n).reload → (∀ m, m < 8 → m ≠ n → (tmrOf s m).master.toNat = n → (tmrOf s m).slave ≠ 2 ∧ (tmrOf s m).slave ≠ 3) →
      ∃ t, exec (.timerTick n) s = .next t ∧ (tmrOf t n).count = 0 ∧ (tmrOf t n).presc = 0 ∧
        (tmrOf t n).run = !(tmrOf s n).oneshot ∧ (hdr t pgTmr).evtRaw.getLsbD n = true ∧
        (∀ m, m ≠ n → tmrOf t m = tmrOf s m) ∧ hush t = hush { s with tmr := t.tmr, pages := t.pages, fcr := t.fcr })) ∧
  (∀ (s : State) (n : Nat), prescCounts s (tmrOf s n) = false ∨ (tmrOf s n).presc ≤ (tmrOf s n).prescale.toNat → exec (.timerTick n) s = .next s) ∧
  (∀ (s : State) (n : Nat) (start stop clear : Bool), n < 8 → (tmrOf s n).wrPend = some (.cmd start stop clear) →
    ∃ t, exec (.timerWriteEffect n) s = .next t ∧ t = { s with tmr := t.tmr } ∧ (∀ m, m ≠ n → tmrOf t m = tmrOf s m) ∧
      (tmrOf t n).wrPend = none ∧ (tmrOf t n).run = (!stop && ((tmrOf s n).run || start)) ∧ (tmrOf t n).count = (if clear then 0 else (tmrOf s n).count) ∧
      (tmrOf t n).reload = (tmrOf s n).reload) ∧
  (∀ (s : State) (i : Iface) (n : Fin 8), reaches i pgTmr s → (hdr s pgTmr).injCount = 0 →
    ∃ t, exec (.timerCountRead i n) s = .next t ∧
      answered i (if (tmrOf s n.val).slave = 3 then vGet (tmrOf s n.val).latch (ifaceNo i) 0 else (tmrOf s n.val).count) s t ∧
      seen i t = seen i { cancelKey pgTmr s with tmr := t.tmr } ∧
      (∀ m, { tmrOf t m with latch := (tmrOf s m).latch } = tmrOf s m))) ∧
  (∀ (s : State) (i : Iface) (n : Fin 8), reaches i pgTmr s →
    (hostMayWrite s 3 n.val = true → (tmrOf s n.val).wrPend = none →
      (∃ t, exec (.timerStart i n) s = .next t ∧ seen i t = seen i { cancelKey pgTmr s with tmr := vUpd s.tmr n.val fun k => { k with wrPend := some (.cmd true false false) } }) ∧
      (∃ t, exec (.timerStop i n) s = .next t ∧ seen i t = seen i { cancelKey pgTmr s with tmr := vUpd s.tmr n.val fun k => { k with wrPend := some (.cmd false true false) } }) ∧
      (∃ t, exec (.timerClear i n) s = .next t ∧ seen i t = seen i { cancelKey pgTmr s with tmr := vUpd s.tmr n.val fun k => { k with wrPend := some (.cmd false false true) } }) ∧
      (∀ v : Word32, bits v 8 3 ≠ n.val → (bits v 2 2 = 3 → bits v 8 3 + 1 = n.val) →
        ∃ t w, exec (.timerCfgWrite i n v) s = .next t ∧
          bits w 16 16 = bits v 16 16 ∧ bits w 12 1 = bits v 12 1 ∧ bits w 8 3 = bits v 8 3 ∧ bits w 1 3 = bits v 1 3 ∧
          seen i t = seen i { cancelKey pgTmr s with tmr := vUpd s.tmr n.val fun k => { k with wrPend := some (.cfg w) } }) ∧
      (∀ v : Word32, bits v 8 3 = n.val ∨ (bits v 2 2 = 3 ∧ bits v 8 3 + 1 ≠ n.val) →
        ∃ t, exec (.timerCfgWrite i n v) s = .next t ∧ seen i t = seen i (errStat i pgTmr (0x100 + 0x20 * n.val) 2 (cancelKey pgTmr s)))) ∧
    (hostMayWrite s 3 n.val = false →
      (∃ t, exec (.timerStart i n) s = .next t ∧ seen i t = seen i (errStat i pgTmr (0x10C + 0x20 * n.val) 3 (cancelKey pgTmr s))) ∧
      (∀ v : Word32, ∃ t, exec (.timerCfgWrite i n v) s = .next t ∧ seen i t = seen i (errStat i pgTmr (0x100 + 0x20 * n.val) 3 (cancelKey pgTmr s)))))

/-! ## The scan -/

/-- SCAN_TICK (R72, R80, R123): with a table installed in a mode that scans, the tick begins a scan in its Sample phase with nothing committed; a tick before the Tail has ended trips LATE_TAIL and waits. -/
def Obligations.TickBeginsAScan : Prop :=
  (∀ (s : State) (i : Nat) (tb : Table), s.ilkl.scanning = false → s.sys.modePend = none → s.sys.exitPend = false →
    curTable s = some tb → scansRun s = true → s.ilkA.st = .scanning ∨ s.ilkA.st = .halted →
    ∃ t, exec (.scanTick i) s = .next t ∧ t.ilkl.scanning = true ∧ t.ilkl.committed = false ∧ t.ilkl.tickPend = false ∧
      t.ilkA.st = .scanning ∧ t.ilkA.phase = 0 ∧ t.ilkA.own.epoch = nextEpoch s.sys.epoch ∧ t.ilkA.own.chan = .a ∧
      (s.sys.mode = .split → t.ilkB.own = s.ilkB.own) ∧ (s.sys.mode ≠ .split → t.ilkB.phase = 0 ∧ (s.ilkB.table.isSome = true → t.ilkB.own.epoch = nextEpoch s.sys.epoch)) ∧
      (s.ilkl.clearPend = true → s.ilkl.clearBroken = false → s.tab.cmpFail = false → s.dhd.cmpFail = false → fatalPend s = false →
        400 * (scanUs s - 1) ≤ i → i ≤ 400 * (scanUs s + 1) →
        t.ilkl.trip = false ∧ t.ilkl.cause = 0 ∧ t.ilkl.tripSet = 0 ∧ t.ilkl.clearPend = false ∧ t.ilkl.result = 0 ∧ (hdr t pgIlkl).evtRaw.getLsbD 3 = true) ∧
      t.sys = s.sys ∧ t.sto = s.sto ∧ t.tb = s.tb ∧ t.tiles = s.tiles ∧ t.tbl = s.tbl) ∧
  (∀ (s : State) (i : Nat), s.ilkl.scanning = true →
    ∃ t, exec (.scanTick i) s = .next t ∧ tripped 0x09 t ∧ t.ilkl.tickPend = true ∧ t.ilkl.scanning = true ∧
      t.sys = s.sys ∧ t.sto = s.sto ∧ t.tb = s.tb ∧ t.links = s.links ∧ t.jrn = s.jrn) ∧
  (∀ (s : State) (i : Nat), s.ilkl.scanning = false → s.sys.modePend = none → s.sys.exitPend = false → curTable s = none → exec (.scanTick i) s = .next s)

/-- EXCHANGE_PHASE, EVALUATE_PHASE (R73, R76): before its deadline each phase ends and the next begins; after an exchange each channel holds the other's sample vector and both compute one input digest. -/
def Obligations.ExchangeAndEvaluateAdvance : Prop :=
  (∀ (s : State) (c : Nat) (tb : Table), curTable s = some tb → inPhase 0 s = true → tabOk s = true → s.sys.mode = .split ∨ framesPass s → c < 400 →
    ∃ t, exec (.exchangePhase c) s = .next t ∧ t.ilkA.phase = 1 ∧
      t = { s with ilkA := t.ilkA, ilkB := t.ilkB, ilkl := { s.ilkl with phaseStart := c }, tab := t.tab, arb := t.arb } ∧
      (s.sys.mode = .split → t.ilkB = s.ilkB ∧ t.tab = s.tab) ∧
      (s.sys.mode ≠ .split → s.tab.posA ≤ 1 → s.tab.posB ≤ 1 →
        t.ilkB.phase = 1 ∧ t.ilkA.other = s.ilkB.own ∧ t.ilkB.other = s.ilkA.own ∧ t.ilkA.digest = t.ilkB.digest)) ∧
  (∀ (s : State) (c : Nat) (fa fb : EvalFault) (tb : Table), curTable s = some tb → inPhase 1 s = true → tabOk s = true → s.sys.mode = .split ∨ framesPass s → c < 1000 → s.ilkl.phaseStart < 1000 →
    ∃ t, exec (.evaluatePhase c fa fb) s = .next t ∧ t.ilkA.phase = 2 ∧ (s.sys.mode ≠ .split → t.ilkB.phase = 2) ∧
      t.ilkA.prevBools = s.ilkA.bools ∧ t.ilkA.prevWords = s.ilkA.words ∧ t.ilkl.committed = s.ilkl.committed ∧
      t.sys = s.sys ∧ t.links = s.links ∧ t.sto = s.sto ∧ t.tbl = s.tbl ∧ t.jrn = s.jrn ∧ t.ep = s.ep ∧ t.tb = s.tb)

/-- COMPARE_PHASE (R55, R77, R87): before its deadlines the epoch commits with its number, its time and its buffer; results that differ in a significant signal trip and put every output off; in SPLIT nothing is compared. -/
def Obligations.CompareCommitsTheEpoch : Prop :=
  ∀ (s : State) (c stop : Nat) (fa fb : List (Nat × WordCheck)) (tb : Table), curTable s = some tb → inPhase 2 s = true → tabOk s = true → s.sys.mode = .split ∨ framesPass s →
    c < 1200 + tb.cost → stop < 2000 + tb.cost →
    ∃ t, exec (.comparePhase c ⟨stop, fa, fb⟩) s = .next t ∧ t.ilkl.committed = true ∧ t.ilkA.phase = 3 ∧
      t.sys = { s.sys with epoch := nextEpoch s.sys.epoch, epochTime := now s } ∧ t.ilkA.lastEpoch = nextEpoch s.sys.epoch ∧
      (∃ k b, t.ep.latest = some k ∧ vGet t.ep.bufs k none = some b ∧ b.epoch = nextEpoch s.sys.epoch ∧ b.time = now s) ∧
      (s.sys.mode = .split → t.ilkl.verdict = 2) ∧
      (s.sys.mode ≠ .split → t.ilkl.verdict = (if t.ilkl.causes = [] then 0 else 1)) ∧
      (s.sys.mode ≠ .split → s.tab.posA ≤ 4 → s.tab.posB ≤ 4 → fa = [] → fb = [] → (hdr s pgIlkA).injCount = 0 → (hdr s pgIlkB).injCount = 0 →
        cellIsolated s pgIlkA 0 = false → cellIsolated s pgIlkB 0 = false → s.ilkA.table = s.ilkB.table →
        (((trueResult .a (resultVec s.ilkA) ^^^ trueResult .b (resultVec s.ilkB)) &&& tb.mask).setWidth 8192 : BitVec 8192) ≠ 0 →
        tripped 0x01 t ∧ t.ilkl.verdict = 1) ∧
      (s.ilkl.testPend = true → tripped 0x14 t ∧ t.ilkl.testPend = false ∧ t.ilkl.result = 0 ∧ (hdr t pgIlkl).evtRaw.getLsbD 0 = true) ∧
      t.sto = s.sto ∧ t.tb = s.tb ∧ t.links = s.links ∧ t.tbl = s.tbl ∧ t.jrn = { s.jrn with gapEpoch := t.jrn.gapEpoch }

/-- OUTPUT_PHASE, TAIL (R78, R80, Table ILK-6): the command images are written, all off while a trip is latched, and safety outputs off outside RUN; the Tail ends the scan and records the epoch.

LATE_PHASE, STALE_IMAGE, TICK_TIMEOUT (R73, R79, R93, R173): each trips with its cause, puts every output off, and keeps what an earlier cause has latched. -/
def Obligations.ScansEndAndLatePhasesTrip : Prop :=
  ((∀ (s : State) (tb : Table), curTable s = some tb → inPhase 3 s = true → s.ilkl.committed = true → tabOk s = true → s.sys.mode = .split ∨ (framesPass s ∧ 6 ≤ s.tab.posA ∧ 6 ≤ s.tab.posB) →
    ∃ t, exec .outputPhase s = .next t ∧ t.ilkA.phase = 4 ∧ t.ilkl.imgA.epoch = s.sys.epoch ∧ t.ilkl.imgA.at_ = now s ∧
      (s.ilkl.trip = true → s.sys.mode ≠ .split → outputsOff t) ∧
      (s.sys.mode ≠ .run → t.ilkl.imgA.sot = 0) ∧
      t = { s with ilkA := { s.ilkA with phase := 4 }, ilkB := t.ilkB, ilkl := { s.ilkl with imgA := t.ilkl.imgA, imgB := t.ilkl.imgB }, tab := t.tab, links := t.links, arb := t.arb } ∧
      (∀ p, p < 8 → linkOf t p = { linkOf s p with a := { (linkOf s p).a with stale := false }, b := { (linkOf s p).b with stale := false } })) ∧
  (∀ (s : State) (c stop : Nat) (missed : Bool) (sa sb : List (Nat × WordCheck)) (tb : Table), curTable s = some tb →
    (inPhase 4 s = true ∧ tabOk s = true ∧ (s.sys.mode = .split ∨ framesPass s) ∧ c < 2400 + tb.cost) ∨ inPhase 5 s = true →
    s.ilkl.tickPend = false →
    ∃ t, exec (.tail c stop ⟨missed, sa, sb⟩) s = .next t ∧ t.ilkl.scanning = false ∧ t.ilkA.phase = 7 ∧ t.ilkl.causes = [] ∧ t.ilkA.first = (s.ilkA.first && !s.ilkA.ran) ∧
      t.sys = s.sys ∧ t.sto = s.sto ∧ t.tb = s.tb ∧ t.links = s.links ∧ t.tbl = s.tbl ∧ t.tiles = s.tiles)) ∧
  ((∀ (s : State) (p : LatePhase) (tb : Table), curTable s = some tb →
    inPhase (match p with | .sample => 0 | .exchange => 1 | .evaluate => 2 | .compare => 3 | .output => 4) s = true →
    ∃ t, exec (.latePhase p) s = .next t ∧
      tripped (4 + match p with | .sample => 0 | .exchange => 1 | .evaluate => 2 | .compare => 3 | .output => 4) t ∧
      t.ilkA.phase = 5 ∧ t.ilkl.committed = true ∧ t.ilkl.scanning = true ∧
      (s.ilkl.committed = false → t.sys.epoch = nextEpoch s.sys.epoch) ∧ (s.ilkl.committed = true → t.sys = s.sys) ∧
      t.sto = s.sto ∧ t.links = s.links ∧ t.jrn = { s.jrn with gapEpoch := t.jrn.gapEpoch } ∧ t.tb = s.tb) ∧
  (∀ s : State, scanningRuns s = true → s.ilkl.imgA.at_ + 100 * (scanUs s + 8) < now s → (linkOf s 0).a.stale = false →
    ∃ t, exec .staleImage s = .next t ∧ tripped 0x12 t ∧ (∀ p, p < 8 → (linkOf t p).a.stale = true) ∧
      t.sys = s.sys ∧ t.sto = s.sto ∧ t.tb = s.tb ∧ t.tbl = s.tbl) ∧
  (∀ s : State, scanningRuns s = true → s.ilkl.ticks ≠ 0 → s.dhd.tickOut = false →
    ∃ t, exec .tickTimeout s = .next t ∧ tripped 0x0A t ∧ t.dhd = { s.dhd with tickOut := true } ∧ (hdr t pgDhd).evtRaw.getLsbD 2 = true ∧
      (s.ilkl.trip = true → t.ilkl.cause = s.ilkl.cause ∧ t.ilkl.tripEpoch = s.ilkl.tripEpoch ∧ t.ilkl.tripTime = s.ilkl.tripTime ∧ t.ilkl.tripCount = s.ilkl.tripCount) ∧
      (s.ilkl.trip = false → t.ilkl.cause = 0x0A ∧ t.ilkl.tripTime = now s ∧ t.ilkl.tripCount = min (s.ilkl.tripCount + 1) (2 ^ 32 - 1)) ∧
      t.sys = s.sys ∧ t.sto = s.sto ∧ t.tb = s.tb ∧ t.links = s.links))

/-! ## The loader and the evaluators' counters -/

/-- VERIFY, INSTALL, SYNC, UNLOAD, RELOAD (R102 to R104, Table ILK-14): in an allowed mode with no command running the copy is checked where the command checks one, COPYn_OK shows the result, and the command runs with its code; an INSTALL or RELOAD that passes has both evaluators LOADING and holds the table's claims. INSTALL, UNLOAD and RELOAD outside SERVICE end at once with MODE, RELOAD without an active copy with NO_VALID_COPY, and a command while one runs with BUSY, which leaves the running one alone. Once LOADER_CMD_COMPLETE has followed, VERIFY has left its code, and after UNLOAD no evaluator has a table and compare channel 0 is off. -/
def Obligations.LoaderCommandsStart : Prop :=
  (∀ (s : State) (i : Iface) (copy : Bool) (r : CopyCheck), reaches i pgIlkl s → s.ilkl.run = none →
    let n := if copy then 1 else 0
    (checksGive n r s →
      (∃ t, exec (.verify i copy) s = .next t ∧ t.ilkl.run = some { op := 1, copy := n, result := r.code, table := none } ∧
        vGet t.ilkl.copyOk n false = (r.code == 0) ∧ vGet t.ilkl.copyOk (1 - n) false = vGet s.ilkl.copyOk (1 - n) false ∧
        t.ilkA = s.ilkA ∧ t.ilkB = s.ilkB ∧ t.ilkl.trip = s.ilkl.trip ∧ t.ilkl.active = s.ilkl.active ∧ t.tbl.claims = s.tbl.claims ∧
        ∃ u, exec (.loaderCmdComplete true true) t = .next u ∧ u.ilkl.result = r.code ∧ vGet u.ilkl.copyOk n false = (r.code == 0) ∧ u.ilkA = s.ilkA ∧ u.ilkB = s.ilkB ∧
          (hdr u pgIlkl).evtRaw.getLsbD (if r.code = 0 then 0 else 1) = true) ∧
      (s.sys.mode = .service →
        ∃ t, exec (.install i copy) s = .next t ∧ t.ilkl.run = some { op := 2, copy := n, result := installCode s r, table := if installCode s r = 0 then r.table else none } ∧
          vGet t.ilkl.copyOk n false = (r.code == 0) ∧ t.ilkl.active = s.ilkl.active ∧
          (∀ tb, r.table = some tb → installCode s r = 0 → t.ilkA = { s.ilkA with st := .loading } ∧ t.ilkB = { s.ilkB with st := .loading } ∧ t.tbl.claims = some tb.claims ∧
            (copyFree { op := 2, copy := n, result := 0, table := some tb } t = true →
              ∃ u, exec (.loaderCmdComplete true true) t = .next u ∧ u.ilkA.table = some tb ∧ u.ilkB.table = some tb ∧ u.ilkA.st = .halted ∧ u.ilkB.st = .halted ∧ u.ilkl.active = some n)) ∧
          (installCode s r ≠ 0 → t.ilkA = s.ilkA ∧ t.ilkB = s.ilkB ∧ t.tbl.claims = s.tbl.claims)) ∧
      (s.sys.mode = .service → s.ilkl.active = some n →
        ∃ t, exec (.reload i) s = .next t ∧ t.ilkl.run = some { op := 7, copy := n, result := r.code, table := if r.code = 0 then r.table else none } ∧ t.ilkl.active = s.ilkl.active ∧
          (∀ tb, r.table = some tb → r.code = 0 → t.ilkA = { s.ilkA with st := .loading } ∧ t.ilkB = { s.ilkB with st := .loading } ∧ t.tbl.claims = some tb.claims ∧
            ∃ u, exec (.loaderCmdComplete true true) t = .next u ∧ u.ilkA.table = some tb ∧ u.ilkB.table = some tb ∧ u.ilkA.st = .halted ∧ u.ilkB.st = .halted ∧
              u.ilkl.active = some n ∧ u.ilkl.result = 0) ∧
          (r.code ≠ 0 → t.ilkA = s.ilkA ∧ t.ilkB = s.ilkB ∧ t.tbl.claims = s.tbl.claims)))) ∧
  (∀ (s : State) (i : Iface), reaches i pgIlkl s → s.ilkl.run = none →
    let ended := fun (t : State) (op : BitVec 4) (copy : Bool) (code : Nat) => seen i t = seen i { cancelKey pgIlkl s with
      ilkl := { s.ilkl with cmdOp := op, cmdCopy := copy, result := code, run := if syncDue s then some { op := 3 } else none, syncAfterP7 := s.ilkl.syncAfterP7 && !syncDue s },
      pages := raised (cancelKey pgIlkl s) pgIlkl 0x2 }
    (∃ t, exec (.sync i) s = .next t ∧
      seen i t = seen i { cancelKey pgIlkl s with ilkl := { s.ilkl with cmdOp := 3, cmdCopy := false, run := some { op := 3 } } } ∧
      (copyFree { op := 3 } t = true →
        ∃ u, exec (.loaderCmdComplete true true) t = .next u ∧ u.ilkl.result = (syncCopies t).1.1 ∧ u.sto.mem = (syncCopies t).2.sto.mem ∧ u.ilkA = s.ilkA ∧ u.ilkB = s.ilkB ∧
          (hdr u pgIlkl).evtRaw.getLsbD (if (syncCopies t).1.1 = 0 then 0 else 1) = true)) ∧
    (s.sys.mode = .service →
      ∃ t, exec (.unload i) s = .next t ∧
        seen i t = seen i { cancelKey pgIlkl s with ilkl := { s.ilkl with cmdOp := 6, cmdCopy := false, run := some { op := 6 } } } ∧
        ∃ u, exec (.loaderCmdComplete true true) t = .next u ∧ u.ilkl.result = 0 ∧ u.ilkA.st = .noTable ∧ u.ilkB.st = .noTable ∧ u.ilkA.table = none ∧ u.ilkB.table = none ∧
          u.tbl.claims = none ∧ (chanOf u 0).en = false ∧ (hdr u pgIlkl).evtRaw.getLsbD 0 = true) ∧
    (s.sys.mode = .service → s.ilkl.active = none → ∃ t, exec (.reload i) s = .next t ∧ ended t 7 false 0x0E) ∧
    (s.sys.mode ≠ .service →
      (∀ copy : Bool, ∃ t, exec (.install i copy) s = .next t ∧ ended t 2 copy 0x0B) ∧ (∃ t, exec (.unload i) s = .next t ∧ ended t 6 false 0x0B) ∧
      (∃ t, exec (.reload i) s = .next t ∧ ended t 7 false 0x0B))) ∧
  (∀ (s : State) (i : Iface) (r : LoaderRun), reaches i pgIlkl s → s.ilkl.run = some r →
    let busy := fun (t : State) (op : BitVec 4) (copy : Bool) => seen i t = seen i { cancelKey pgIlkl s with
      ilkl := { s.ilkl with cmdOp := op, cmdCopy := copy, result := 0x0C }, pages := raised (cancelKey pgIlkl s) pgIlkl 0x2 }
    (∀ copy : Bool, (∃ t, exec (.verify i copy) s = .next t ∧ busy t 1 copy) ∧ (∃ t, exec (.install i copy) s = .next t ∧ busy t 2 copy)) ∧
    (∃ t, exec (.sync i) s = .next t ∧ busy t 3 false) ∧ (∃ t, exec (.unload i) s = .next t ∧ busy t 6 false) ∧ (∃ t, exec (.reload i) s = .next t ∧ busy t 7 false))

/-- CLEAR_TRIP, TEST_TRIP (R95, Table ILK-14): while no scan runs CLEAR_TRIP clears the latch at once where its conditions hold and is refused otherwise, and TEST_TRIP trips at once; while scans run CLEAR_TRIP waits for the next scan where it may clear and ends with NOT_CLEARABLE where it may not, and TEST_TRIP waits for the end of Compare. CLEAR_TRIP without a trip ends well and changes nothing. -/
def Obligations.TripCommandsClearAndTest : Prop :=
  ∀ (s : State) (i : Iface), reaches i pgIlkl s → s.ilkl.run = none → modeScans s.sys.mode = true →
    let goes := if syncDue s then some { op := 3 } else none
    (s.ilkl.trip = false →
      ∃ t, exec (.clearTrip i) s = .next t ∧ seen i t = seen i { cancelKey pgIlkl s with
        ilkl := { s.ilkl with cmdOp := 4, cmdCopy := false, result := 0, run := goes, syncAfterP7 := s.ilkl.syncAfterP7 && !syncDue s }, pages := raised (cancelKey pgIlkl s) pgIlkl 0x1 }) ∧
    (s.ilkl.trip = true → scansRun s = true → latestTripped s = false → logicFenced s = false → lockstepReport s = true →
      ∃ t, exec (.clearTrip i) s = .next t ∧
        seen i t = seen i { cancelKey pgIlkl s with ilkl := { s.ilkl with cmdOp := 4, cmdCopy := false, run := some { op := 4 }, clearPend := true, clearBroken := false } } ∧
        (∀ (k : Nat) (tb : Table), s.ilkl.scanning = false → s.sys.modePend = none → s.sys.exitPend = false → curTable s = some tb → s.ilkA.st = .scanning ∨ s.ilkA.st = .halted →
          s.tab.cmpFail = false → s.dhd.cmpFail = false → fatalPend s = false → 400 * (scanUs s - 1) ≤ k → k ≤ 400 * (scanUs s + 1) →
          ∃ u, exec (.scanTick k) t = .next u ∧ u.ilkl.trip = false ∧ u.ilkl.cause = 0 ∧ u.ilkl.tripSet = 0 ∧ u.ilkl.clearPend = false ∧ u.ilkl.result = 0 ∧ (hdr u pgIlkl).evtRaw.getLsbD 3 = true)) ∧
    (s.ilkl.trip = true → scansRun s = true → latestTripped s = true ∨ logicFenced s = true ∨ lockstepReport s = false →
      ∃ t, exec (.clearTrip i) s = .next t ∧ t.ilkl.trip = true ∧ t.ilkl.clearPend = s.ilkl.clearPend ∧ t.ilkl.result = 0x0D ∧ t.ilkl.run = goes) ∧
    (s.ilkl.trip = true → scansRun s = false → fatalPend s = false → s.dhd.cmpFail = false → s.tab.cmpFail = false → logicFenced s = false → lockstepReport s = true →
      ∃ t, exec (.clearTrip i) s = .next t ∧ t.ilkl.trip = false ∧ t.ilkl.cause = 0 ∧ t.ilkl.tripSet = 0 ∧ t.ilkl.tripEpoch = 0 ∧ t.ilkl.tripTime = 0 ∧ t.ilkl.tripCount = s.ilkl.tripCount ∧
        t.tab.failInfo = none ∧ t.ilkl.result = 0 ∧ t.ilkl.run = goes ∧ (hdr t pgIlkl).evtRaw.getLsbD 3 = true ∧ (hdr t pgIlkl).evtRaw.getLsbD 0 = true ∧
        t.ilkA = s.ilkA ∧ t.ilkB = s.ilkB ∧ t.sys = s.sys ∧ t.sto = s.sto) ∧
    (s.ilkl.trip = true → scansRun s = false → fatalPend s = true ∨ s.dhd.cmpFail = true ∨ s.tab.cmpFail = true ∨ logicFenced s = true ∨ lockstepReport s = false →
      ∃ t, exec (.clearTrip i) s = .next t ∧ t.ilkl.trip = true ∧ t.ilkl.cause = s.ilkl.cause ∧ t.ilkl.tripSet = s.ilkl.tripSet ∧ t.ilkl.result = 0x0D) ∧
    (scansRun s = true →
      ∃ t, exec (.testTrip i) s = .next t ∧
        seen i t = seen i { cancelKey pgIlkl s with ilkl := { s.ilkl with cmdOp := 5, cmdCopy := false, run := some { op := 5 }, testPend := true } } ∧
        (∀ (c stop : Nat) (tb : Table), curTable s = some tb → inPhase 2 s = true → tabOk s = true → s.sys.mode = .split ∨ framesPass s → c < 1200 + tb.cost → stop < 2000 + tb.cost →
          ∃ u, exec (.comparePhase c ⟨stop, [], []⟩) t = .next u ∧ tripped 0x14 u ∧ u.ilkl.testPend = false ∧ u.ilkl.result = 0 ∧ u.ilkl.committed = true)) ∧
    (scansRun s = false →
      ∃ t, exec (.testTrip i) s = .next t ∧ tripped 0x14 t ∧ t.ilkl.result = 0 ∧ t.ilkl.run = goes ∧ (hdr t pgIlkl).evtRaw.getLsbD 0 = true ∧ t.sys = s.sys ∧ t.sto = s.sto)

/-- LOADER_CMD_COMPLETE (R103, R104, R355): the running command ends with its result; a table that reads back is in force in both evaluators with its copy active and compare channel 0 set; one that does not leaves both without a table. -/
def Obligations.LoaderCommandsComplete : Prop :=
  (∀ (s : State) (r : LoaderRun) (readBack previous : Bool), s.ilkl.run = some r → copyFree r s = true →
    let goes := if syncDue s then some { op := 3 } else none
    (r.op = 1 → ∃ t, exec (.loaderCmdComplete readBack previous) s = .next t ∧
      hush t = hush { s with ilkl := { s.ilkl with run := goes, syncAfterP7 := s.ilkl.syncAfterP7 && !syncDue s, result := r.result }, pages := raised s pgIlkl (if r.result = 0 then 0x1 else 0x2) }) ∧
    (r.op = 6 → ∃ t, exec (.loaderCmdComplete readBack previous) s = .next t ∧ t.ilkl.run = goes ∧ t.ilkl.result = 0 ∧
      t.ilkA.st = .noTable ∧ t.ilkB.st = .noTable ∧ t.ilkA.table = none ∧ t.ilkB.table = none ∧ t.tbl.claims = none ∧ (chanOf t 0).en = false) ∧
    (r.op = 3 → ∃ t, exec (.loaderCmdComplete readBack previous) s = .next t ∧ t.ilkl.run = goes ∧ t.ilkl.result = (syncCopies s).1.1 ∧ t.sto.mem = (syncCopies s).2.sto.mem ∧
      (hdr t pgIlkl).evtRaw.getLsbD (if (syncCopies s).1.1 = 0 then 0 else 1) = true ∧ ((syncCopies s).1.2 = true → (hdr t pgIlkl).evtRaw.getLsbD 4 = true) ∧ t.ilkA = s.ilkA ∧ t.ilkB = s.ilkB)) ∧
  (∀ (s : State) (r : LoaderRun) (previous : Bool) (tb : Table), s.ilkl.run = some r → copyFree r s = true → r.op = 2 ∨ r.op = 7 → r.table = some tb →
    (∃ t, exec (.loaderCmdComplete true previous) s = .next t ∧ t.ilkl.run = (if syncDue s then some { op := 3 } else none) ∧ t.ilkA.table = some tb ∧ t.ilkB.table = some tb ∧
      t.ilkA.st = .halted ∧ t.ilkB.st = .halted ∧ t.ilkA.phase = 7 ∧ t.ilkl.active = some r.copy ∧ t.ilkl.activeGen = tb.gen ∧ t.tbl.claims = some tb.claims ∧ (chanOf t 0).en = true ∧
      (r.op = 7 → t.ilkl.result = 0)) ∧
    (∃ t, exec (.loaderCmdComplete false false) s = .next t ∧ t.ilkl.result = 0x0A ∧ t.ilkA.table = none ∧ t.ilkB.table = none ∧ t.tbl.claims = none)) ∧
  (∀ (s : State) (r : LoaderRun) (readBack previous : Bool), s.ilkl.run = some r → copyFree r s = false → exec (.loaderCmdComplete readBack previous) s = .next s) ∧
  (∀ (s : State) (readBack previous : Bool), s.ilkl.run = none → exec (.loaderCmdComplete readBack previous) s = .next s)

/-- DIV_CLR, MAX_CLR, MISM_CLR, TICK_CLR, TAB_CNT_CLR (Tables ILK-17, DHD-8, DHD-9): each clears its registers and nothing else; MISM_CLR is ignored while the pair is frozen.

LOCKSTEP_MISMATCH, DEBUG_HALT, DEBUG_RESUME, SUP_WDOG (R158, R162, R167, R168, R171, R174): the lowest compared group that differs freezes the pair, is recorded once with the compared bits, trips LOCKSTEP and withholds the cycle's outputs, in P3 it fails the comparator's test instead; a periodic injection that is missed is a mismatch; a cycle without a difference releases its outputs in order; a halt is honoured in SERVICE and SPLIT and refused, counted and reported elsewhere; 4 ms without a refresh raise source 0x001 once. -/
def Obligations.PairCountersMismatchesAndWatchdog : Prop :=
  (∀ (s : State) (i : Iface),
    (reaches i pgIlkA s →
      (∃ t, exec (.divClr i .a) s = .next t ∧ seen i t = seen i { cancelKey pgIlkA s with ilkA := { s.ilkA with divCount := 0, divInfo := none } }) ∧
      (∃ t, exec (.maxClr i .a) s = .next t ∧ seen i t = seen i { cancelKey pgIlkA s with ilkA := { s.ilkA with phaseMax := Vector.replicate 6 0 } })) ∧
    (reaches i pgIlkB s →
      (∃ t, exec (.divClr i .b) s = .next t ∧ seen i t = seen i { cancelKey pgIlkB s with ilkB := { s.ilkB with divCount := 0, divInfo := none } }) ∧
      (∃ t, exec (.maxClr i .b) s = .next t ∧ seen i t = seen i { cancelKey pgIlkB s with ilkB := { s.ilkB with phaseMax := Vector.replicate 6 0 } })) ∧
    (reaches i pgDhd s →
      (∃ t, exec (.mismClr i) s = .next t ∧
        seen i t = seen i { cancelKey pgDhd s with dhd := if s.dhd.frozen then s.dhd else { s.dhd with mism := none, mismTime := 0 } }) ∧
      (∃ t, exec (.tickClr i) s = .next t ∧ seen i t = seen i { cancelKey pgDhd s with dhd := { s.dhd with tickMin := 0xFFFFF, tickMax := 0 } })) ∧
    (reaches i pgTab s →
      ∃ t, exec (.tabCntClr i) s = .next t ∧ seen i t = seen i { cancelKey pgTab s with tab := { s.tab with framesAB := 0, framesBA := 0 } })) ∧
  ((∀ (s : State) (k : PairCycle), s.dhd.split = false → s.dhd.frozen = false → k.read = none →
    (∀ x : Nat × BitVec 16 × BitVec 16, k.inj = none → lowestGroup (flaggedGroups s.dhd.halted none k) = some x →
      (inP3 s = false → ∃ t, exec (.lockstepMismatch k.groups k.gates (k.outs, k.read) k.inj) s = .next t ∧ tripped 0x11 t ∧ t.dhd.frozen = !s.dhd.cmpFail ∧
        t.dhd.mism = some (s.dhd.mism.getD (false, x.1, BitVec.ofNat 16 (groupBits x.1 x.2.1), BitVec.ofNat 16 (groupBits x.1 x.2.2))) ∧ (hdr t pgDhd).evtRaw.getLsbD 0 = true ∧
        t.dhd.lines = s.dhd.lines ∧ t.dhd.tcm = s.dhd.tcm ∧ t.dhd.wdogAt = s.dhd.wdogAt ∧ t.sys = s.sys ∧ t.sto = s.sto ∧ t.tb = s.tb ∧ t.links = s.links) ∧
      (inP3 s = true → ∃ t, exec (.lockstepMismatch k.groups k.gates (k.outs, k.read) k.inj) s = .next t ∧ t.dhd.frozen = false ∧ t.dhd.cmpFail = true ∧ t.dhd.injFail = setBit s.dhd.injFail x.1 true ∧ t.ilkl = s.ilkl ∧ t.fcr = s.fcr)) ∧
    (∀ v : BitVec 16 × BitVec 16, coresRun s = true → inP3 s = false → k.inj = some v → k.groups = [] →
      Nat.xor (groupBits s.dhd.pinjGroup v.1) (groupBits s.dhd.pinjGroup v.2) ≠ 2 ^ s.dhd.pinjBit →
      ∃ t, exec (.lockstepMismatch k.groups k.gates (k.outs, k.read) k.inj) s = .next t ∧ tripped 0x11 t ∧ t.dhd.frozen = !s.dhd.cmpFail ∧ (hdr t pgDhd).evtRaw.getLsbD 3 = true ∧
        t.dhd.mism = some (s.dhd.mism.getD (true, s.dhd.pinjGroup, BitVec.ofNat 16 (groupBits s.dhd.pinjGroup v.1), BitVec.ofNat 16 (groupBits s.dhd.pinjGroup v.2)))) ∧
    (coresRun s = true → k.inj = none → flaggedGroups false none k = [] → exec (.lockstepMismatch k.groups k.gates (k.outs, k.read) k.inj) s = .next (k.outs.foldl releaseOut s)) ∧
    (coresRun s = false → k.inj = none → flaggedGroups s.dhd.halted none k = [] → exec (.lockstepMismatch k.groups k.gates (k.outs, k.read) k.inj) s = .next s)) ∧
  (∀ (s : State) (k : PairCycle), s.dhd.frozen = true → exec (.lockstepMismatch k.groups k.gates (k.outs, k.read) k.inj) s = .next s) ∧
  (∀ (s : State) (k : PairCycle), s.dhd.split = true → coresRun s = true → k.read = none → exec (.lockstepMismatch k.groups k.gates (k.outs, k.read) k.inj) s = .next (k.outs.foldl releaseOut s)) ∧
  (∀ s : State, s.sys.mode = .service ∨ s.sys.mode = .split → exec .debugHalt s = .next { s with dhd := { s.dhd with halted := true } }) ∧
  (∀ s : State, s.sys.mode ≠ .service → s.sys.mode ≠ .split →
    ∃ t, exec .debugHalt s = .next t ∧
      hush t = hush { s with dhd := { s.dhd with haltRefused := min (s.dhd.haltRefused + 1) 65535 }, pages := raised s pgDhd 0x10, fcr := told s 0x041 0 0 pgDhd }) ∧
  (∀ s : State, exec .debugResume s = .next { s with dhd := { s.dhd with halted := false } }) ∧
  (∀ s : State, s.dhd.wdogOut = false → s.dhd.wdogAt + 400000 ≤ now s →
    exec .supWdog s = .next { s with dhd := { s.dhd with wdogOut := true }, fcr := told s 0x001 0 0 pgDhd }))

/-! ## The Double-header and the Tablet -/

/-- INTERRUPT_TAKEN, IDLE_PERIODIC_INJECTION (R166, R171, R182): the pair takes the trap before any line, and the lowest line; while no scan runs the periodic injection moves to its next position and the watchdog is refreshed. -/
def Obligations.InterruptsAndPeriodicInjection : Prop :=
  (∀ (s : State) (lines : BitVec 32), s.dhd.frozen = false → s.dhd.halted = false → s.dhd.split = false →
    (∀ x rest, s.fcr.traps = x :: rest →
      ∃ t, exec (.interruptTaken lines) s = .next t ∧
        t = { s with dhd := { s.dhd with lines := s.dhd.lines ||| lines, tookA := some none, tookB := some none }, fcr := { s.fcr with traps := rest }, uart := t.uart }) ∧
    (∀ n, s.fcr.traps = [] → lowestBit (s.dhd.lines ||| lines) = some n →
      ∃ t, exec (.interruptTaken lines) s = .next t ∧
        t = { s with dhd := { s.dhd with lines := setBit (s.dhd.lines ||| lines) n false, tookA := some (some n), tookB := some (some n) } })) ∧
  (∀ s : State, s.ilkl.scanning = false → scansRun s = false → s.dhd.split = false → s.dhd.frozen = false → s.dhd.halted = false → s.dhd.stopped = false →
    ∃ t, exec .idlePeriodicInjection s = .next t ∧
      t = { s with dhd := { s.dhd with pinjBit := t.dhd.pinjBit, pinjGroup := t.dhd.pinjGroup, pinjRounds := t.dhd.pinjRounds, wdogAt := now s, wdogOut := false } } ∧
      (s.dhd.pinjBit + 1 < groupWidth s.dhd.pinjGroup → t.dhd.pinjBit = s.dhd.pinjBit + 1 ∧ t.dhd.pinjGroup = s.dhd.pinjGroup ∧ t.dhd.pinjRounds = s.dhd.pinjRounds))

/-- TABLET_FRAME (R175, R178, R180, R182): a frame that passes every check is counted and delivered into the other channel's inbound area, or held at its barrier; one that fails the Tablet's or the receiver's checks trips EXCHANGE, and FAIL_INFO keeps the first failure; in SPLIT the write is answered with an error and discarded. -/
def Obligations.TabletFramesAreCheckedAndDelivered : Prop :=
  (∀ (s : State) (f : TabFrame), s.ilkl.scanning = true → s.tab.split = false → s.tab.failedB = false → s.ilkl.committed = false → maySend .a s = true →
    (hdr s pgTab).injCount = 0 → cellIsolated s pgTab 0 = false → f.mbx = [] → tabletCheck .a f s = none →
    (isBarrierPos s.tab.posA = false → f.inbound = [] → receiverCheck .a f s = none → hBits f.header 32 4 = 2 →
      ∃ t, exec (.tabletFrame .a f) s = .next t ∧
        t = { s with ilkB := { s.ilkB with other := parseSample f.payload, inbound := codeWords pgIlkB 0 (frameWords f), rxNext := nextDelivered s.ilkB.rxNext },
                     tab := { s.tab with posA := s.tab.posA + 1, framesAB := min (s.tab.framesAB + 1) (2 ^ 32 - 1), mbxAB := codeWords pgTab 0 (frameWords f), writeErr := false }, arb := t.arb }) ∧
    (isBarrierPos s.tab.posA = true → s.tab.waitB = none →
      ∃ t, exec (.tabletFrame .a f) s = .next t ∧
        t = { s with tab := { s.tab with posA := s.tab.posA + 1, framesAB := min (s.tab.framesAB + 1) (2 ^ 32 - 1), waitA := some f.header, mbxAB := codeWords pgTab 0 (frameWords f), writeErr := false }, arb := t.arb })) ∧
  (∀ (s : State) (f : TabFrame) (x : Nat × Nat), s.ilkl.scanning = true → s.tab.split = false → s.tab.failedB = false → s.ilkl.committed = false → maySend .a s = true →
    (hdr s pgTab).injCount = 0 → cellIsolated s pgTab 0 = false → f.mbx = [] →
    tabletCheck .a f s = some x ∨ (tabletCheck .a f s = none ∧ isBarrierPos s.tab.posA = false ∧ f.inbound = [] ∧ receiverCheck .a f s = some x) →
    ∃ t, exec (.tabletFrame .a f) s = .next t ∧ tripped 0x03 t ∧ t.tab.failedB = true ∧ t.tab.posA = s.tab.posA ∧ (f.sameCycle = false → ∀ v, s.tab.failInfo = some v → t.tab.failInfo = some v) ∧
      (s.tab.failInfo = none → t.tab.failInfo = some (flag 31 true ||| fld 16 8 x.2 ||| fld 12 4 (typeAt s.tab.posA) ||| fld 9 3 s.tab.posA ||| fld 0 4 x.1)) ∧
      t.ilkB.other = s.ilkB.other ∧ t.ilkB.otherResult = s.ilkB.otherResult) ∧
  (∀ (s : State) (src : Chan) (f : TabFrame), s.tab.split = true → exec (.tabletFrame src f) s = .next { s with tab := { s.tab with writeErr := true } })
/-! ## Tiles and their links -/

/-- PIN_OVERLOAD, TILE_OVERCURRENT, OVER_TEMPERATURE, SOT_WATCHDOG, FIELD_TILE_WATCHDOG (R210, R217, R220; of a frame accepted in the cycle of the expiry the expiry wins, so the acceptance before it counts): each sets its latch on its side, changes no other side, and from then on the outputs it covers are off. -/
def Obligations.TileProtectionSwitchesOutputsOff : Prop :=
  (∀ (s : State) (p pin : Nat), p < 6 → tilePresent s.variant p = true → pin < 16 → drivenPin (sideOf s p .a) pin = true →
    ∃ t, exec (.pinOverload p pin) s = .next t ∧ onlySide p .a s t ∧ sideOf t p .a = { sideOf s p .a with ovl := (sideOf t p .a).ovl } ∧
      (∀ k : Nat, (sideOf t p .a).ovl.getLsbD k = ((sideOf s p .a).ovl.getLsbD k || decide (k = pin))) ∧ (fieldApplied (sideOf t p .a)).getLsbD pin = false) ∧
  (∀ (s : State) (p : Nat), p < 6 → tilePresent s.variant p = true →
    ∃ t, exec (.tileOvercurrent p) s = .next t ∧ onlySide p .a s t ∧ sideOf t p .a = { sideOf s p .a with tileOvl := true } ∧ fieldApplied (sideOf t p .a) = 0) ∧
  (∀ (s : State) (p : Nat) (c : Chan), p < 8 → tilePresent s.variant p = true →
    ∃ t, exec (.overTemperature p c) s = .next t ∧ onlySide p c s t ∧ sideOf t p c = { sideOf s p c with tempOff := true, hot := true } ∧
      (p < 6 → fieldApplied (sideOf t p c) = 0) ∧ (6 ≤ p → sotOff t p = true)) ∧
  (∀ (s : State) (p : Nat) (c : Chan), 6 ≤ p → p < 8 → tilePresent s.variant p = true → watchdogFrom (now s) (sideOf s p c) + 1960 ≤ now s →
    ∃ t, exec (.sotWatchdog p c) s = .next t ∧ onlySide p c s t ∧ sideOf t p c = { sideOf s p c with wdogHold := true, holdAt := some (now s) } ∧ sotOff t p = true) ∧
  (∀ (s : State) (p : Nat), p < 6 → tilePresent s.variant p = true → watchdogFrom (now s) (sideOf s p .a) + 1960 ≤ now s →
    ∃ t, exec (.fieldTileWatchdog p) s = .next t ∧ onlySide p .a s t ∧ sideOf t p .a = { sideOf s p .a with wdogHold := true, holdAt := some (now s) } ∧ fieldApplied (sideOf t p .a) = 0) ∧
  (∀ (s : State) (p : Nat) (c : Chan), now s < watchdogFrom (now s) (sideOf s p c) + 1960 → exec (.sotWatchdog p c) s = .next s) ∧
  (∀ (t : Nat) (d : Side), (d.acceptAt ≠ t → watchdogFrom t d = d.acceptAt) ∧ (d.acceptAt = t → watchdogFrom t d = d.acceptPrev))

/-- SUPPLY_BAND_CHANGE, SUPPLY_TRIP, SUPPLY_QUALIFIED, PULSE_TIMER_EXPIRY (R209, R212, R213, Table FT-14): the supply states and the re-arm they need, the end of an over-long pulse, and no other side changed.

TILE_POWER_RESET, TILE_FRAME_TIMEOUT, TILE_RESET_SEQUENCE (R197): the side (or every side) that resets has no command, no configuration, no tile time and no accepted frame, sets FRESH, and drives nothing. -/
def Obligations.TileSuppliesAndResets : Prop :=
  ((∀ (s : State) (p : Nat) (c : Chan) (b : Band), p < 8 → tilePresent s.variant p = true →
    ∃ t, exec (.supplyBandChange p c b) s = .next t ∧ onlySide p c s t ∧ (sideOf t p c).band = b ∧
      ((sideOf s p c).supply = .ready → b ≠ .normal → (sideOf t p c).supply = .qualifying ∧ (sideOf t p c).needRearm = true) ∧
      ((sideOf s p c).supply ≠ .ready ∨ b = .normal → (sideOf t p c).supply = (sideOf s p c).supply ∧ (sideOf t p c).needRearm = (sideOf s p c).needRearm) ∧
      (b ≠ .normal → (sideOf t p c).normalAt = none) ∧ (sideOf t p c).cmd = (sideOf s p c).cmd ∧ (sideOf t p c).cfg = (sideOf s p c).cfg) ∧
  (∀ (s : State) (p : Nat) (c : Chan) (n : Nat), p < 8 → tilePresent s.variant p = true → (sideOf s p c).belowAt = some n → n + 98000 ≤ now s → (sideOf s p c).supply ≠ .ready →
    ∃ t, exec (.supplyTrip p c) s = .next t ∧ onlySide p c s t ∧ sideOf t p c = { sideOf s p c with supply := .qualifying, needRearm := true } ∧
      (p < 6 → fieldApplied (sideOf t p c) = 0) ∧ (6 ≤ p → sotOff t p = true)) ∧
  (∀ (s : State) (p : Nat) (c : Chan) (n : Nat), p < 8 → tilePresent s.variant p = true → (sideOf s p c).normalAt = some n → n + 9800000 ≤ now s → (sideOf s p c).supply = .qualifying →
    ∃ t, exec (.supplyQualified p c) s = .next t ∧ onlySide p c s t ∧
      sideOf t p c = { sideOf s p c with supply := if (sideOf s p c).needRearm then .ready else .armed }) ∧
  (∀ (s : State) (p : Nat) (c : Chan), (sideOf s p c).supply ≠ .qualifying → exec (.supplyQualified p c) s = .next s) ∧
  (∀ (s : State) (p pin : Nat), p < 6 → tilePresent s.variant p = true → (sideOf s p .a).dark.getLsbD pin = true → cfgMode (vGet (sideOf s p .a).cfg pin 0) = 2 →
    cfgPexempt (vGet (sideOf s p .a).cfg pin 0) = false → (sideOf s p .a).ended.getLsbD pin = false →
    ∃ t, exec (.pulseTimerExpiry p .a pin) s = .next t ∧ onlySide p .a s t ∧ (sideOf t p .a).pulseLong = true ∧ (sideOf t p .a).ended.getLsbD pin = true ∧
      sideOf t p .a = { sideOf s p .a with ended := (sideOf t p .a).ended, pulseLong := true })) ∧
  ((∀ (s : State) (p : Nat) (c : Chan), p < 8 → tilePresent s.variant p = true →
    ∃ t, exec (.tilePowerReset p c) s = .next t ∧ t = { s with tiles := t.tiles, ast := { s.ast with tile := t.ast.tile } } ∧
      (sideOf t p c).fresh = true ∧ (sideOf t p c).supply = .qualifying ∧ (sideOf t p c).aliveRef = none ∧ (sideOf t p c).cmd = 0 ∧ (sideOf t p c).timeAt = none ∧
      (sideOf t p c).cfg = Vector.replicate 16 0 ∧ (sideOf t p c).capt = [] ∧ (sideOf t p c).acceptAt = now s ∧
      (∀ q d, q ≠ p ∨ (6 ≤ p ∧ d ≠ c) → sideOf t q d = sideOf s q d)) ∧
  (∀ (s : State) (p : Nat), p < 8 → tilePresent s.variant p = true → (sideOf s p .a).acceptAt + 98000 ≤ now s → (sideOf s p .b).acceptAt + 98000 ≤ now s →
    ∃ t, exec (.tileFrameTimeout p) s = .next t ∧ (∀ c, (sideOf t p c).fresh = true ∧ (sideOf t p c).supply = .qualifying ∧ (sideOf t p c).cmd = 0 ∧ (sideOf t p c).aliveRef = none) ∧
      (∀ q d, q ≠ p → sideOf t q d = sideOf s q d) ∧ t = { s with tiles := t.tiles, ast := { s.ast with tile := t.ast.tile } }) ∧
  (∀ (s : State) (p : Nat), p < 8 → tilePresent s.variant p = true → (linkOf s p).resetSeq = true →
    ∃ t, exec (.tileResetSequence p) s = .next t ∧ (linkOf t p).resetSeq = false ∧ (∀ c, (sideOf t p c).fresh = true ∧ (sideOf t p c).supply = .qualifying ∧ (sideOf t p c).cmd = 0) ∧
      (∀ q d, q ≠ p → sideOf t q d = sideOf s q d) ∧ t = { s with tiles := t.tiles, links := t.links, ast := { s.ast with tile := t.ast.tile } }))

/-- PIN_FILTER_CHANGE, TILE_PERIOD (R192, R203, R206): a filtered level changes once as many consecutive samples as FILT asks have shown the new level and not before, and, on a time-stamped pin outside a test, enters the capture queue with its tile time; each period the side sends a frame with the next ALIVE and its present state.

INBOUND_FRAME, LINK_DOWN (R44, R191, R195): an accepted frame becomes the latest with the present time, a rejected one changes nothing of it and is counted; a link that loses lock goes down, severs its two queues and raises source LINK. -/
def Obligations.TileLevelsInboundFramesAndLinks : Prop :=
  ((∀ (s : State) (p pin : Nat) (level : Bool) (n : Nat), p < 6 → tilePresent s.variant p = true → pin < 16 → (sideOf s p .a).fltA.getLsbD pin ≠ level → testedPath s p = none → filterPasses (now s) (sideOf s p .a) pin n .a = true →
    ∃ t, exec (.pinFilterChange p pin .a ⟨level, n⟩) s = .next t ∧ onlySide p .a s t ∧ (sideOf t p .a).fltA.getLsbD pin = level ∧ (sideOf t p .a).fltB = (sideOf s p .a).fltB ∧ vGet (sideOf t p .a).fltAtA pin 0 = now s ∧
      (cfgTs (vGet (sideOf s p .a).cfg pin 0) = true → (sideOf s p .a).capt.length < 16 →
        (sideOf t p .a).capt = (sideOf s p .a).capt ++ [{ pin := pin, path := .a, level := level, time := tileNow s (sideOf s p .a) }]) ∧
      (cfgTs (vGet (sideOf s p .a).cfg pin 0) = true → 16 ≤ (sideOf s p .a).capt.length →
        (sideOf t p .a).capt = (sideOf s p .a).capt ∧ (sideOf t p .a).lost.getLsbD pin = true) ∧
      (cfgTs (vGet (sideOf s p .a).cfg pin 0) = false → (sideOf t p .a).capt = (sideOf s p .a).capt)) ∧
  (∀ (s : State) (p pin : Nat) (path : Chan) (level : Bool) (n : Nat), p < 6 → filterPasses (now s) (sideOf s p .a) pin n path = false → exec (.pinFilterChange p pin path ⟨level, n⟩) s = .next s) ∧
  (∀ (s : State) (p : Nat) (c : Chan) (m : TileMeas), p < 8 → tilePresent s.variant p = true →
    ∃ t f, exec (.tilePeriod p c m) s = .next t ∧ (streamOf (linkOf t p) p c).inb = some f ∧ f.alive = (sideOf s p c).alive + 1 ∧ (sideOf t p c).alive = f.alive ∧
      f.supply = (sideOf s p c).supply ∧ f.volt = m.volt ∧ f.echo = (sideOf s p c).echo ∧ f.lost = (sideOf s p c).lost ∧ (sideOf t p c).lost = 0 ∧
      (f.edges.length = min (sideOf s p c).capt.length (frameCap p)) ∧ (sideOf t p c).capt = (sideOf s p c).capt.drop (frameCap p) ∧
      (sideOf t p c).cmd = (sideOf s p c).cmd ∧ t = { s with tiles := t.tiles, links := t.links } ∧ (∀ q, q ≠ p → linkOf t q = linkOf s q))) ∧
  ((∀ (s : State) (p : Nat) (f : InFrame) (dly : BitVec 10), p < 6 → (linkOf s p).a.inb = some f → linkFenced p s = false → (hdr s (pgTile p)).injCount = 0 →
    (f.alive = (linkOf s p).a.aliveRef.getD 0 + 1 →
      ∃ t, exec (.inboundFrame p .a .good .good dly) s = .next t ∧ (linkOf t p).a.last = f ∧ (linkOf t p).a.lastAt = some (now s) ∧ (linkOf t p).a.aliveRef = some f.alive ∧
        (linkOf t p).a.inb = none ∧ (linkOf t p).streak = (linkOf s p).streak + 1 ∧ (linkOf t p).up = ((linkOf s p).up || decide (4 ≤ (linkOf s p).streak + 1)) ∧
        t.tiles = s.tiles ∧ t.sys = s.sys ∧ t.ilkA = s.ilkA ∧ t.ilkl = s.ilkl ∧ t.sto = s.sto) ∧
    (f.alive ≠ (linkOf s p).a.aliveRef.getD 0 + 1 →
      ∃ t, exec (.inboundFrame p .a .good .good dly) s = .next t ∧ (linkOf t p).a.last = (linkOf s p).a.last ∧ (linkOf t p).a.lastAt = (linkOf s p).a.lastAt ∧
        (linkOf t p).streak = 0 ∧ (linkOf t p).a.aliveErr = min ((linkOf s p).a.aliveErr + 1) 65535 ∧ t.tiles = s.tiles ∧ t.sys = s.sys)) ∧
  (∀ (s : State) (p : Nat), p < 8 → tilePresent s.variant p = true → (linkOf s p).up = true →
    ∃ t, exec (.linkDown p true) s = .next t ∧ (linkOf t p).up = false ∧ (linkOf t p).streak = 0 ∧ (∀ q, q ≠ p → linkOf t q = linkOf s q) ∧
      (xq t (8 + p)).st ≠ .joined ∧ (xq t (16 + p)).st ≠ .joined ∧ (hdr t (pgTile p)).evtRaw.getLsbD 0 = true ∧
      (∃ r ∈ t.fcr.inbox, r.src = 0x0C0 + 16 * p) ∧ t.tiles = s.tiles ∧ t.sys = s.sys) ∧
  (∀ (s : State) (p : Nat) (b : Bool), (linkOf s p).up = false → exec (.linkDown p b) s = .next s))

/-- OUTBOUND_LATCH, OUTBOUND_FRAME (R191, R193, R194): a linked tile that is neither withheld nor fenced gets a frame with the next ALIVE and the epoch of channel A's image; a tile takes the commands of a frame whose ALIVE follows the last, and rejects and counts any other. -/
def Obligations.OutboundFramesReachTheirTiles : Prop :=
  (∀ (s : State) (w : WordCheck), ∃ t, exec (.outboundLatch w) s = .next t ∧ t.tbl.now = s.tbl.now + 1 ∧
    t.sys = s.sys ∧ t.ilkA = s.ilkA ∧ t.ilkB = s.ilkB ∧ t.ilkl = s.ilkl ∧ t.sto = s.sto ∧ t.tiles = s.tiles ∧
    (∀ p, p < 8 → tilePresent s.variant p = true → (linkOf s p).up = true → modeWithholds p s = false → linkFenced p s = false → s.ast.unusableTiles.getLsbD p = false →
      s.sys.mode ≠ .parked → (linkOf s p).a.stale = false →
      ∃ f, (linkOf t p).a.out = some f ∧ f.alive = (linkOf s p).a.alive + 1 ∧ f.epoch = s.ilkl.imgA.epoch.setWidth 16 ∧ (linkOf t p).a.alive = f.alive ∧ f.cfgIdx = (linkOf s p).slot) ∧
    (∀ p, p < 8 → tilePresent s.variant p = true → modeWithholds p s = true ∨ (linkOf s p).up = false → (linkOf t p).a.out = none ∧ (linkOf t p).b.out = none)) ∧
  (∀ (s : State) (p : Nat) (f : OutFrame), p < 6 → (linkOf s p).a.out = some f → (vGet s.ast.tile p none) = none →
    (f.alive = (sideOf s p .a).aliveRef.getD 0 + 1 →
      ∃ t, exec (.outboundFrame p .a .good) s = .next t ∧ (sideOf t p .a).cmd = f.cmd ∧ (sideOf t p .a).dark = f.dark ∧ (sideOf t p .a).light = f.light ∧
        (sideOf t p .a).aliveRef = some f.alive ∧ (sideOf t p .a).echo = f.alive ∧ (sideOf t p .a).acceptAt = now s ∧
        (sideOf t p .a).cfg = vSet (sideOf s p .a).cfg f.cfgIdx f.cfgWord ∧ t = { s with tiles := t.tiles, links := t.links }) ∧
    (f.alive ≠ (sideOf s p .a).aliveRef.getD 0 + 1 →
      ∃ t, exec (.outboundFrame p .a .good) s = .next t ∧ sideOf t p .a = { sideOf s p .a with aliveRef := some f.alive } ∧
        (linkOf t p).a.aliveErr = min ((linkOf s p).a.aliveErr + 1) 65535 ∧ (hdr t (pgTile p)).evtRaw.getLsbD 11 = true) ∧
    (∃ t, exec (.outboundFrame p .a .lost) s = .next t ∧ t.tiles = s.tiles ∧ (linkOf t p).a.out = none))

/-- LINK_RESET, FT_CNT_CLR, SUPPLY_REARM, CONFIG_WRITE (R197, R200, R201, R214, R218): the reset sequence is asked for, the counters clear, a re-arm is asked for, and a configuration takes an allowed value in SERVICE only. -/
def Obligations.TileRegistersTakeWrites : Prop :=
  ∀ (s : State) (i : Iface) (p : Fin 8), reaches i (pgTile p.val) s →
    (∃ t, exec (.linkReset i p) s = .next t ∧ (linkOf t p.val).resetSeq = true ∧ (linkOf t p.val).a.expectFresh = true ∧
      (∀ q, q ≠ p.val → linkOf t q = linkOf s q) ∧ seen i t = seen i { cancelKey (pgTile p.val) s with links := t.links }) ∧
    (∃ t, exec (.ftCntClr i p) s = .next t ∧
      seen i t = seen i { cancelKey (pgTile p.val) s with links := vUpd s.links p.val fun l => { l with lost := 0, a := { l.a with aliveErr := 0, crcErr := 0 }, b := { l.b with aliveErr := 0, crcErr := 0 } } }) ∧
    (∃ t, exec (.supplyRearm i p) s = .next t ∧
      seen i t = seen i { cancelKey (pgTile p.val) s with links := vUpd s.links p.val fun l => { l with rearmReq := true } }) ∧
    (∀ (n : Fin 16) (v : Word32), n.val < cfgSlots p.val → v &&& (if p.val < 6 then 0x0F80FF37 else 0x0000001F) = v →
      (s.sys.mode ≠ .service →
        ∃ t, exec (.configWrite i p n v) s = .next t ∧ seen i t = seen i (errStat i (pgTile p.val) (0x040 + 4 * n.val) 1 (cancelKey (pgTile p.val) s))) ∧
      (s.sys.mode = .service → (if p.val < 6 then pincfgOk v else outcfgOk v) = true →
        ∃ t, exec (.configWrite i p n v) s = .next t ∧ vGet (linkOf t p.val).cfg n.val 0 = v ∧ (∀ q, q ≠ p.val → linkOf t q = linkOf s q) ∧
          (∀ k, k ≠ n.val → vGet (linkOf t p.val).cfg k 0 = vGet (linkOf s p.val).cfg k 0) ∧ seen i t = seen i { cancelKey (pgTile p.val) s with links := t.links }) ∧
      (s.sys.mode = .service → (if p.val < 6 then pincfgOk v else outcfgOk v) = false →
        ∃ t, exec (.configWrite i p n v) s = .next t ∧ seen i t = seen i (errStat i (pgTile p.val) (0x040 + 4 * n.val) 2 (cancelKey (pgTile p.val) s))))

/-! ## The Timetable -/

/-- TEST_OVERDUE, CAPTURE_TIMEOUT, XS_CLR, TBL_CNT_CLR (R229, R232, R237, Table TBL-7): the overdue record and its source, the end of a capture with TIMEOUT, the release of held sources, the counters, and the frame. HCLAIM_CLAIM, HCLAIM_RELEASE (R239, R243, R244): a free compare channel, timer or capture slice passes to the host and back; a claim of a resource that is not free changes no ownership and records the conflict; one that meets the loader's claim check completes BUSY. -/
def Obligations.TimetableRecordsAndClaims : Prop :=
  ((∀ (s : State) (e n : Nat) (c : Claim), (s.tbl.claims.getD [])[e]? = some c → smGet s.tbl.overdue e = some n → c.kind = 5 → n + 400 * c.tperiod ≤ s.tbl.now →
    ∃ t, exec (.testOverdue e) s = .next t ∧ smGet t.tbl.overdue e = some s.tbl.now ∧
      hush t = hush { s with tbl := { s.tbl with overdue := t.tbl.overdue, overdueValid := true, overdueCnt := min (s.tbl.overdueCnt + 1) 255, overduePin := c.index, overdueUse := c.use }, pages := raised s pgTbl 0x10, fcr := told s 0x04E (fld 4 3 c.use) c.index pgTbl }) ∧
  (∀ (s : State) (p : Nat) (c : Capture), (s.tbl.captures.find? fun x => pinTile x.pin == p) = some c → c.start + 40 ≤ s.tbl.now →
    ∃ t, exec (.captureTimeout p) s = .next t ∧
      hush t = hush { s with tbl := { s.tbl with captures := s.tbl.captures.filter fun x => x.pin != c.pin, captValid := true, captPin := c.pin, captEdge := c.level, captCoarse := c.taken.any fun k => decide (k ≤ c.start + 40), captTimeout := true, captSeq := s.tbl.captSeq + 1, captDelay := 40 }, pages := raised s pgTbl 0x80 }) ∧
  (∀ (s : State) (i : Iface), reaches i pgTbl s →
    (∃ t, exec (.xsClr i) s = .next t ∧ seen i t = seen i { cancelKey pgTbl s with tbl := { s.tbl with xsRelease := s.tbl.xsRelease ||| s.tbl.xsHeld, xsHeld := 0 } }) ∧
    (∃ t, exec (.tblCntClr i) s = .next t ∧ seen i t = seen i { cancelKey pgTbl s with tbl := { s.tbl with done := 0, voids := 0, demandRb := 0, overdueCnt := 0, fail := none } }))) ∧
  (∀ (s : State) (i : Iface) (kind : BitVec 3) (index : BitVec 7), reaches i pgTbl s → claimCheckRun s = true →
    (∃ t, exec (.hclaimClaim i kind index true) s = .next t ∧ t.tbl.hclaimResult = 0x0D ∧ t.tbl.hclaimDone = true ∧ t.tbl.hostOwned = s.tbl.hostOwned) ∧
    (∃ t, exec (.hclaimRelease i kind index true) s = .next t ∧ t.tbl.hclaimResult = 0x0D ∧ t.tbl.hclaimDone = true ∧ t.tbl.hostOwned = s.tbl.hostOwned)) ∧
  (∀ (s : State) (i : Iface) (kind : BitVec 3) (index : BitVec 7), reaches i pgTbl s → claimCheckRun s = false → s.sys.mode = .safe ∨ s.sys.mode = .service ∨ s.sys.mode = .split →
    2 ≤ kind.toNat → kind.toNat ≤ 4 → ¬(kind.toNat = 2 ∧ index.toNat = 0) → resourceExists s.variant kind.toNat index.toNat = true →
    (ownerOf s kind.toNat index.toNat = .free →
      ∃ t, exec (.hclaimClaim i kind index false) s = .next t ∧ t.tbl.hclaimResult = 0 ∧ t.tbl.hclaimDone = true ∧ ownerOf t kind.toNat index.toNat = .host ∧
        seen i t = seen i { cancelKey pgTbl s with tbl := t.tbl, pages := t.pages, free := t.free }) ∧
    (ownerOf s kind.toNat index.toNat ≠ .free →
      ∃ t, exec (.hclaimClaim i kind index false) s = .next t ∧ t.tbl.hclaimResult = 0x01 ∧ t.tbl.hostOwned = s.tbl.hostOwned ∧
        (∃ o, t.tbl.conflict = some (0xFFFF, 0x01, kind.toNat, index.toNat, o)) ∧ (hdr t pgTbl).evtRaw.getLsbD 5 = true) ∧
    (ownerOf s kind.toNat index.toNat = .host →
      ∃ t, exec (.hclaimRelease i kind index false) s = .next t ∧ t.tbl.hclaimResult = 0 ∧ ownerOf t kind.toNat index.toNat ≠ .host) ∧
    (ownerOf s kind.toNat index.toNat ≠ .host →
      ∃ t, exec (.hclaimRelease i kind index false) s = .next t ∧ t.tbl.hclaimResult = 0x0C ∧ t.tbl.hostOwned = s.tbl.hostOwned))

/-! ## The store -/

/-- READ (R262, R269, Table HIF-7): while the store parks the command waits; a refused read ends with its code; a read of words that give no error delivers the bytes that stand there; a word that is uncorrectable reads 0, is named in the completion and in UNCORR_ADDR and is reported; nothing in the array changes. -/
def Obligations.StoreReadsDeliverTheBytes : Prop :=
  ∀ (s : State) (id : CmdId) (dma : Bool) (c : Cmd), fetchedCmd s id 0x01 = some c →
    (s.sto.parking = true → s.sto.parked = false → ∀ fs : List (Nat × WordCheck), exec (.read id dma fs) s = .next s) ∧
    (s.sto.parking = false ∨ s.sto.parked = true →
    (∀ (code : Nat) (fs : List (Nat × WordCheck)), readRefusal s c.desc.addr.toNat c.desc.length.toNat = some code →
      ∃ t, exec (.read id dma fs) s = .next t ∧ decidedTo id { result := BitVec.ofNat 8 code } s t ∧ t = { s with pcie := { s.pcie with cmds := t.pcie.cmds } }) ∧
    (readRefusal s c.desc.addr.toNat c.desc.length.toNat = none → dma = true ∨ id.src = .mbx → (hdr s pgSto).injCount = 0 → s.sto.dead = 0 →
      (s.sto.poison = [] → s.sto.bankIso = 0 →
        ∃ t, exec (.read id dma []) s = .next t ∧
          decidedTo id { result := 0x00, count := c.desc.length.toNat, data := maskReserved s c.desc.addr.toNat (peekLog c.desc.addr.toNat c.desc.length.toNat s) } s t ∧
          t = { s with pcie := { s.pcie with cmds := t.pcie.cmds }, arb := t.arb }) ∧
      (c.desc.length = 16 → physAddr s.sto c.desc.addr.toNat / 16 ∈ s.sto.poison →
        ∃ t, exec (.read id dma []) s = .next t ∧
          decidedTo id { result := 0x08, count := 16, value := c.desc.addr.toNat, data := zeros 16 } s t ∧
          t.sto = { s.sto with uncorr := satAdd 32 s.sto.uncorr 1, uncorrAddr := some (uncorrName s (physAddr s.sto c.desc.addr.toNat)) } ∧
          (∃ r ∈ t.fcr.inbox, r.src = 0x081 ∧ r.page = pgSto ∧ r.detail = physAddr s.sto c.desc.addr.toNat / 16) ∧
          hush t = hush { s with sto := t.sto, pages := raised s pgSto 0x2, fcr := t.fcr, free := t.free, arb := t.arb, pcie := { s.pcie with cmds := t.pcie.cmds } })))

/-- WRITE (R262, R263, R264, R269): while the store parks the command waits; a refused write ends with its code, one that names a line of an isolated bank without a spare with CELL_ISOLATED (that it writes no word is the model's choice, log 124); a write that meets no lock and no earlier waiting write lands at the mapped addresses, changes no other byte, ends with its count and keeps the store's form; one that meets a lock waits. -/
def Obligations.StoreWritesLand : Prop :=
  ∀ (s : State) (id : CmdId) (dma : Bool) (given : List Byte) (c : Cmd), fetchedCmd s id 0x02 = some c →
    let a := c.desc.addr.toNat
    let n := c.desc.length.toNat
    let w : WaitWrite := { id := id, atomic := false, addr := a, data := cmdData c given s }
    (s.sto.parking = true → s.sto.parked = false → exec (.write id dma given) s = .next s) ∧
    (s.sto.parking = false ∨ s.sto.parked = true →
    (∀ code : Nat, writeRefusal s false a n = some code →
      ∃ t, exec (.write id dma given) s = .next t ∧ decidedTo id { result := BitVec.ofNat 8 code } s t ∧ t = { s with pcie := { s.pcie with cmds := t.pcie.cmds } }) ∧
    (∀ b : Nat, writeRefusal s false a n = none → deadAddr s a n = some b →
      ∃ t, exec (.write id dma given) s = .next t ∧ decidedTo id { result := 0x09, value := b } s t ∧
        t = { s with fab := { s.fab with cellIsolatedResp := true }, pcie := { s.pcie with cmds := t.pcie.cmds } }) ∧
    (writeRefusal s false a n = none → deadAddr s a n = none → dma = true ∨ id.src = .mbx → (hdr s pgMgt).injCount = 0 → cellIsolated s pgMgt 0 = false →
      (storeCanonical s → waitsFor s.sto.waits w = false →
        (ingotsOf a n).any (fun k => ingotLocked s.sto k || (waitingLocks s.sto (atomicPlaces - s.sto.atomics.length) [] s.sto.waits).contains k) = false →
        (∀ i ∈ ingotsOf a n, ∀ j ∈ ingotsOf a n, physIngot s.sto i = physIngot s.sto j → i = j) →
        ∃ t, exec (.write id dma given) s = .next t ∧
          peekLog a n t = cmdData c given s ∧
          (∀ p, (∀ k, k < n → p ≠ physAddr s.sto (a + k)) → memGet t.sto.mem p = memGet s.sto.mem p) ∧
          (∀ w, w ∈ t.sto.poison ↔ w ∈ s.sto.poison ∧ ∀ k, k < n → w ≠ physAddr s.sto (a + k) / 16) ∧
          decidedTo id { result := 0x00, count := n } s t ∧
          t = { s with sto := { s.sto with mem := t.sto.mem, poison := t.sto.poison }, pcie := { s.pcie with cmds := t.pcie.cmds }, arb := t.arb } ∧ storeCanonical t) ∧
      (waitsFor s.sto.waits w = true ∨ (ingotsOf a n).any (ingotLocked s.sto) = true →
        ∃ t, exec (.write id dma given) s = .next t ∧ stageTo id .waiting s t ∧
          t = { s with sto := { s.sto with waits := s.sto.waits ++ [w] }, pcie := { s.pcie with cmds := t.pcie.cmds }, arb := t.arb })))

/-- WRITE_ATOMIC, ATOMIC_COMMIT (R252, R264, Table STO-10): the write takes a free shadow for each ingot and changes no byte; at its commit the ingots are remapped to their shadows, which hold the new words and every old byte beside them, one commit word is counted, and no other ingot moves or changes. -/
def Obligations.AtomicWritesCommit : Prop :=
  (∀ (s : State) (id : CmdId) (dma : Bool) (given : List Byte) (c : Cmd), fetchedCmd s id 0x03 = some c →
    let a := c.desc.addr.toNat
    let n := c.desc.length.toNat
    let w : WaitWrite := { id := id, atomic := true, addr := a, data := cmdData c given s }
    s.sto.parking = false ∨ s.sto.parked = true →
    (∀ code : Nat, writeRefusal s true a n = some code →
      ∃ t, exec (.writeAtomic id dma given) s = .next t ∧ decidedTo id { result := BitVec.ofNat 8 code } s t ∧ t = { s with pcie := { s.pcie with cmds := t.pcie.cmds } }) ∧
    (writeRefusal s true a n = none → deadAddr s a n = none → dma = true ∨ id.src = .mbx → (hdr s pgMgt).injCount = 0 → cellIsolated s pgMgt 0 = false →
      waitsFor s.sto.waits w = false →
      (ingotsOf a n).any (fun k => ingotLocked s.sto k || (waitingLocks s.sto (atomicPlaces - s.sto.atomics.length) [] s.sto.waits).contains k) = false → s.sto.atomics.length < 16 →
      (ingotsOf a n).length ≤ (freeShadows s).length →
      ∃ t, exec (.writeAtomic id dma given) s = .next t ∧ stageTo id .waiting s t ∧
        t = { s with sto := { s.sto with atomics := s.sto.atomics ++ [{ id := id, targets := (ingotsOf a n).zip (freeShadows s), addr := a, data := cmdData c given s }] },
                     pcie := { s.pcie with cmds := t.pcie.cmds }, arb := t.arb })) ∧
  (∀ (s : State) (id : CmdId) (x : Atomic), s.sto.atomics.find? (fun y => y.id == id) = some x → s.sto.waits = [] → s.jrn.flushes = [] → storeCanonical s →
    (s.sto.map.map Prod.fst).Nodup → 1 ≤ x.targets.length → x.targets.length ≤ 2 → (x.targets.map Prod.fst).Nodup → (x.targets.map Prod.snd).Nodup →
    (∀ e ∈ x.targets, ∀ d ∈ x.targets, e.2 ≠ physIngot s.sto d.1) → (∀ k, k < x.data.length → (x.addr + k) / 65536 ∈ x.targets.map Prod.fst) →
    ∃ t, exec (.atomicCommit id) s = .next t ∧
      (∀ e ∈ x.targets, physIngot t.sto e.1 = e.2) ∧ (∀ m, m ∉ x.targets.map Prod.fst → physIngot t.sto m = physIngot s.sto m) ∧
      peekLog x.addr x.data.length t = x.data ∧
      (∀ e ∈ x.targets, ∀ off, off < 65536 → (∀ k, k < x.data.length → x.addr + k ≠ e.1 * 65536 + off) →
        memGet t.sto.mem (e.2 * 65536 + off) = memGet s.sto.mem (physIngot s.sto e.1 * 65536 + off)) ∧
      (∀ p, p / 65536 ∉ x.targets.map Prod.snd → memGet t.sto.mem p = memGet s.sto.mem p) ∧
      t.sto.commitSeq = s.sto.commitSeq + 1 ∧ t.sto.atomics = s.sto.atomics.filter (fun y => y.id != id) ∧
      decidedTo id { result := 0x00, count := x.data.length } s t ∧
      t = { s with sto := { s.sto with mem := t.sto.mem, poison := t.sto.poison, map := t.sto.map, commitSeq := t.sto.commitSeq, log := t.sto.log, snaps := t.sto.snaps, atomics := t.sto.atomics },
                   pcie := { s.pcie with cmds := t.pcie.cmds } } ∧
      storeCanonical t)

/-- FLUSH, MIGRATION_DONE, SCRUB_STEP, STO_CNT_CLR (R250, R251, R263, Table STO-19): a FLUSH with nothing before it ends with SEALED_SEQ and one with unsealed records waits; a migration ends with its bank's lines moved and the lost words poisoned and reported; scrubbing visits line after line of every ingot, counts its passes and reports each; the counters clear.

PARK_REQUEST, STORE_PARKED (R269): while the module powers down or seals for a chip reset, parking begins, atomic writes whose shadows are incomplete are abandoned without a completion and without a change of the array, and parking ends when none runs. -/
def Obligations.StoreMigratesScrubsAndParks : Prop :=
  ((∀ (s : State) (id : CmdId) (c : Cmd), fetchedCmd s id 0x04 = some c → pageFenced s pgSto = false → jrnRefusal s = none → s.jrn.flushes = [] →
    (s.jrn.waiting = [] → s.jrn.buf = [] → s.sto.atomics = [] → s.sto.waits = [] →
      ∃ t, exec (.flush id) s = .next t ∧ decidedTo id { result := 0x00, value := s.jrn.sealedSeq } s t ∧ t = { s with pcie := { s.pcie with cmds := t.pcie.cmds } }) ∧
    ((∃ b ∈ s.jrn.waiting ++ s.jrn.buf, b.no ≤ s.jrn.admitted) →
      ∃ t, exec (.flush id) s = .next t ∧ stageTo id .waiting s t ∧
        t = { s with jrn := { s.jrn with flushes := [{ id := id, upTo := s.jrn.admitted, writes := s.sto.atomics.map (·.id) ++ s.sto.waits.map (·.id) }] },
                     pcie := { s.pcie with cmds := t.pcie.cmds } })) ∧
  (∀ (s : State) (die : Fin 2) (lost : List Nat),
    ((vGet s.sto.migr die.val none).isSome = true →
      ∃ t, exec (.migrationDone ⟨die, lost⟩) s = .next t ∧ t.sto.migr = vSet s.sto.migr die.val none ∧ t.sto.migrPos = vSet s.sto.migrPos die.val (bankLines s.variant) ∧
        (∀ k m, vGet t.sto.snaps k none = some m → m.migr = t.sto.migr ∧ m.migrPos = t.sto.migrPos) ∧
        (∀ w, w ∈ t.sto.poison ↔ w ∈ s.sto.poison ∨ w ∈ lost) ∧
        t.fcr.inbox.length = s.fcr.inbox.length + lost.length ∧ (∀ w ∈ lost, ∃ r ∈ t.fcr.inbox, r.src = 0x084 ∧ r.detail = w) ∧
        hush t = hush { s with sto := { s.sto with migr := t.sto.migr, migrPos := t.sto.migrPos, poison := t.sto.poison, snaps := t.sto.snaps }, pages := raised s pgSto 0x8, fcr := { s.fcr with inbox := t.fcr.inbox }, free := t.free }) ∧
    (vGet s.sto.migr die.val none = none → exec (.migrationDone ⟨die, lost⟩) s = .next s)) ∧
  (∀ s : State, (hdr s pgSto).injCount = 0 → s.sto.bankIso = 0 → s.sto.dead = 0 → s.sto.poison = [] → s.sto.scrubEn = true → s.sto.mapOk = true → s.sto.parked = false → s.sto.parking = false →
    (s.sto.scrubLine < 1023 → ∃ t, exec (.scrubStep []) s = .next t ∧ t = { s with sto := { s.sto with scrubLine := s.sto.scrubLine + 1 }, arb := t.arb }) ∧
    (1023 ≤ s.sto.scrubLine → s.sto.scrubIngot + 1 < capIngots s.variant + 40 →
      ∃ t, exec (.scrubStep []) s = .next t ∧ t = { s with sto := { s.sto with scrubLine := 0, scrubIngot := s.sto.scrubIngot + 1 }, arb := t.arb }) ∧
    (1023 ≤ s.sto.scrubLine → capIngots s.variant + 40 ≤ s.sto.scrubIngot + 1 →
      ∃ t, exec (.scrubStep []) s = .next t ∧
        hush t = hush { s with sto := { s.sto with scrubLine := 0, scrubIngot := 0, scrubPasses := satAdd 16 s.sto.scrubPasses 1 }, pages := raised s pgSto 0x4, arb := t.arb })) ∧
  (∀ (s : State) (fs : List (Nat × WordCheck)), s.sto.scrubEn = false ∨ s.sto.mapOk = false ∨ s.sto.parked = true ∨ s.sto.parking = true → exec (.scrubStep fs) s = .next s) ∧
  (∀ (s : State) (i : Iface) (scrub : Bool), reaches i pgSto s →
    ∃ t, exec (.stoCntClr i scrub) s = .next t ∧
      seen i t = seen i { cancelKey pgSto s with sto := { s.sto with scrubEn := scrub, corr := 0, uncorr := 0, uncorrAddr := none } })) ∧
  ((∀ (s : State) (done : List CmdId), s.pwr.pfRun = true ∨ s.rst.chip.isSome = true → s.sto.parking = false → s.sto.parked = false →
    (∃ t, exec (.parkRequest done) s = .next t ∧ t.sto.parking = true ∧ t.sto.atomics = [] ∧ t.sto.waits = [] ∧ t.jrn = s.jrn ∧ t.sys = s.sys) ∧
    (s.sto.atomics.all (fun a => !(done.contains a.id)) = true →
      ∃ t, exec (.parkRequest done) s = .next t ∧
        (∀ c ∈ t.pcie.cmds, c ∈ s.pcie.cmds ∧ (c.stage = .waiting → c.id ∉ s.sto.atomics.map (·.id) ∧ c.id ∉ s.sto.waits.map (·.id))) ∧
        t = { s with sto := { s.sto with atomics := [], waits := [], parking := true }, pcie := { s.pcie with cmds := t.pcie.cmds } })) ∧
  (∀ (s : State) (done : List CmdId), (s.pwr.pfRun = false ∧ s.rst.chip = none) ∨ s.sto.parking = true ∨ s.sto.parked = true → exec (.parkRequest done) s = .next s) ∧
  (∀ s : State, s.sto.parking = true → s.sto.atomics = [] → ∃ t, exec .storeParked s = .next t ∧ t = { s with sto := { s.sto with parked := true } }) ∧
  (∀ s : State, s.sto.parking = false ∨ s.sto.atomics ≠ [] → exec .storeParked s = .next s))

/-- STORE_MAP_RECOVERY, PT_VERIFY, PT_REPAIR (R254, R257 to R259, R279): recovery replays the log over the newest snapshot and takes the default layout where no table is valid; PT_VERIFY checks one copy, keeps the code and raises its event; the repair writes the other copy from the active one. -/
def Obligations.MapAndPartitionTable : Prop :=
  (∀ (s : State) (bad : Option Nat), s.sto.mapOk = false → pageFenced s pgSto = false → s.tch.marginDone = true →
    ∃ t, exec (.storeMapRecovery bad) s = .next t ∧ t.sto.mapOk = true ∧ t.boot = s.boot ∧ t.sto.mem = s.sto.mem ∧
      t.sto.map = (replay bad 0 (newestSnap s.sto).base (newestSnap s.sto).map s.sto.log).1 ∧
      t.sto.commitSeq = (replay bad 0 (newestSnap s.sto).base (newestSnap s.sto).map s.sto.log).2 ∧ t.sto.floor = (newestSnap s.sto).floor ∧
      t.ilkl = s.ilkl ∧ t.tb = s.tb ∧ t.links = s.links ∧ t.tiles = s.tiles ∧ t.jrn = s.jrn ∧
      (s.sto.mem = [] → t.sto.layout = defaultLayout s.variant ∧ t.sto.ptDefault = true ∧ ∃ r ∈ t.fcr.inbox, r.src = 0x085)) ∧
  (∀ (s : State) (bad : Option Nat), s.sto.mapOk = true ∨ pageFenced s pgSto = true ∨ s.tch.marginDone = false → exec (.storeMapRecovery bad) s = .next s) ∧
  (∀ (s : State) (i : Iface) (copy : Bool), reaches i pgSto s →
    ∃ t code, exec (.ptVerify i copy) s = .next t ∧ t.sto.ptOp = 1 ∧ t.sto.ptCmdCopy = copy ∧ t.sto.ptResult = code ∧
      vGet t.sto.ptOk (if copy then 1 else 0) false = (code == 0) ∧ vGet t.sto.ptOk (if copy then 0 else 1) false = vGet s.sto.ptOk (if copy then 0 else 1) false ∧
      vGet t.sto.ptPending (if copy then 0 else 1) false = vGet s.sto.ptPending (if copy then 0 else 1) false ∧ (code ≠ 0 → vGet t.sto.ptPending (if copy then 1 else 0) false = false) ∧
      ((hdr s pgSto).injCount = 0 →
        let l := (readImage (cfgAddr (8 + if copy then 1 else 0)) (ascii "GWPT") 20 65536 s).1
        (l = none → code = 8) ∧ (l = some [] → code = 1) ∧ (∀ x, l = some x → x ≠ [] → ptFormat x = false → code = 1) ∧
          (∀ x, l = some x → x ≠ [] → ptFormat x = true → code ∈ [0, 2, 3, 4, 5])) ∧
      (hdr t pgSto).evtRaw.getLsbD 5 = true ∧ t.sto.layout = s.sto.layout ∧ t.sto.mem = s.sto.mem ∧ t.sto.map = s.sto.map) ∧
  (∀ (s : State) (l : List Byte), s.sto.ptRepair = true → s.sys.phase = 15 → s.sto.parked = false → s.sto.parking = false → itemFree (cfgAddr (8 + (1 - s.sto.ptCopy))) 65536 s = true →
    (readImage (cfgAddr (8 + s.sto.ptCopy)) (ascii "GWPT") 20 65536 s).1 = some l → l ≠ [] → storeCanonical s →
    ∃ t, exec .ptRepair s = .next t ∧ peekLog (cfgAddr (8 + (1 - s.sto.ptCopy))) l.length t = l ∧
      (∀ p, p / 65536 ≠ physIngot s.sto (2048 + (8 + (1 - s.sto.ptCopy))) → memGet t.sto.mem p = memGet s.sto.mem p) ∧
      t.sto.ptRepair = false ∧ t.sto.ptOk = #v[true, true] ∧ (hdr t pgSto).evtRaw.getLsbD 6 = true) ∧
  (∀ s : State, s.sto.ptRepair = false ∨ s.sys.phase ≠ 15 ∨ s.sto.parked = true ∨ s.sto.parking = true ∨ itemFree (cfgAddr (8 + (1 - s.sto.ptCopy))) 65536 s = false → exec .ptRepair s = .next s)

/-! ## The boot window -/

/-- BOOT_SLOT_SELECT, CHUNK_LOADED (R274 to R276): while no host write is in progress the selection ends LOADING with its slot locked, or NO_IMAGE with source 0x08F, as it does from an empty store; a chunk whose bytes have the hash the manifest gives stands in the buffer with those bytes, of any other the failure is counted and reported, and the window opens once none of chunks 0 to 2 is still to load. -/
def Obligations.BootSelectsAndLoads : Prop :=
  (∀ s : State, s.boot.st = .selecting → s.sto.mapOk = true → s.sto.layout ≠ [] → s.sto.parked = false → s.sto.parking = false → pageFenced s pgBoot = false → pageFenced s pgSto = false →
    s.sto.waits = [] → s.sto.atomics = [] →
    ∃ t, exec .bootSlotSelect s = .next t ∧ t.boot.ifmode = t.boot.record.ifmode ∧ t.boot.dummy = t.boot.record.dummy ∧ t.ilkl = s.ilkl ∧ t.jrn = s.jrn ∧ t.sys = s.sys ∧
      ((t.boot.st = .loading ∧ t.boot.lock = true ∧ t.boot.manifest.isSome = true ∧ (if t.boot.slot then t.boot.okB else t.boot.okA) = true) ∨
       (t.boot.st = .noImage ∧ t.boot.lock = false ∧ t.boot.error = true ∧ t.boot.okA = false ∧ t.boot.okB = false ∧ ∃ r ∈ t.fcr.inbox, r.src = 0x08F)) ∧
      (s.sto.mem = [] → t.boot.st = .noImage)) ∧
  (∀ s : State, s.boot.st ≠ .selecting → exec .bootSlotSelect s = .next s) ∧
  (∀ (s : State) (n : Nat) (m : Manifest), s.boot.manifest = some m → n ∈ s.boot.loading → s.sto.parked = false → s.sto.parking = false →
    (hdr s pgSto).injCount = 0 → s.sto.bankIso = 0 → s.sto.dead = 0 → s.sto.poison = [] →
    ∃ t, exec (.chunkLoaded n []) s = .next t ∧
      let bytes := peekLog ((slotSpan s s.boot.slot).1 + 65536 * n) (min 65536 (m.imageLen - 65536 * n)) s
      let good := sha256 bytes == lGet m.hashes n []
      (good = true → (∃ c ∈ t.boot.chunks, c.n = n) ∧ (∀ c ∈ t.boot.chunks, c.n = n → c.bytes = bytes) ∧ chunkFails t.boot n = 0) ∧
      (good = false → (∀ c ∈ t.boot.chunks, c.n ≠ n) ∧ chunkFails t.boot n = chunkFails s.boot n + 1) ∧ t.boot.loading = s.boot.loading.filter (fun i => i != n) ∧
      (s.boot.chunks.length ≤ 4 → t.boot.chunks.length ≤ 4) ∧
      (good = true → t.boot.hashErr = s.boot.hashErr ∧ t.boot.error = s.boot.error ∧ t.fcr = s.fcr) ∧
      (good = false → t.boot.hashErr = true ∧ t.boot.error = true ∧ (hdr t pgBoot).evtRaw.getLsbD 2 = true ∧ t.fcr = told s 0x08E 0 n pgBoot) ∧
      (s.boot.st = .loading → (∀ i ∈ t.boot.loading, 3 ≤ i) → t.boot.st = .serving ∧ (hdr t pgBoot).evtRaw.getLsbD 0 = true) ∧
      (s.boot.st ≠ .loading ∨ (∃ i ∈ t.boot.loading, i < 3) → t.boot.st = s.boot.st) ∧
      hush t = hush { s with boot := t.boot, pages := t.pages, fcr := t.fcr }) ∧
  (∀ (s : State) (n : Nat) (fs : List (Nat × WordCheck)), s.boot.manifest = none ∨ n ∉ s.boot.loading ∨ s.sto.parked = true ∨ s.sto.parking = true → exec (.chunkLoaded n fs) s = .next s)

/-- BOOT_REARM, BOOT_RELEASE, XSPI_RESET_ENABLE, XSPI_RESET, XSPI_HW_RESET (R270, R277, R532): a re-arm takes the window to SELECTING with its buffer, errors and counters clear and raises its event; a release closes a serving window and drops the lock; a reset command acts only after Reset Enable. -/
def Obligations.BootRearmsAndReleases : Prop :=
  (∀ (s : State) (i : Iface), reaches i pgBoot s →
    (s.boot.st ≠ .selecting →
      ∃ t, exec (.bootRearm i) s = .next t ∧
        seen i t = seen i { cancelKey pgBoot s with pages := raised (cancelKey pgBoot s) pgBoot 0x2, boot := { s.boot with
          st := .selecting, hashErr := false, error := false, hashFail := none, manifest := none, chunks := [], fails := [], loading := [], missed := [], served := 0, miss := 0,
          wel := false, resetEnabled := false, ifmode := s.boot.record.ifmode, dummy := s.boot.record.dummy, since := now s, resp := none } }) ∧
    (s.boot.st = .selecting → ∃ t, exec (.bootRearm i) s = .next t ∧ seen i t = seen i (cancelKey pgBoot s)) ∧
    (s.boot.st = .serving →
      ∃ t, exec (.bootRelease i) s = .next t ∧ seen i t = seen i { cancelKey pgBoot s with boot := { s.boot with st := .released, lock := false } }) ∧
    (s.boot.st ≠ .serving → ∃ t, exec (.bootRelease i) s = .next t ∧ seen i t = seen i (cancelKey pgBoot s))) ∧
  (∀ s : State,
    (∃ t, exec .xspiResetEnable s = .next t ∧ xspiLeaves { s.boot with resp := none, resetEnabled := true } s t ∧ t.pages = s.pages) ∧
    (s.boot.resetEnabled = false → ∃ t, exec .xspiReset s = .next t ∧ xspiLeaves { s.boot with resp := none } s t ∧ t.pages = s.pages) ∧
    (s.boot.resetEnabled = true → s.boot.st ≠ .selecting →
      ∃ t, exec .xspiReset s = .next t ∧ t.boot.st = .selecting ∧ t.boot.chunks = [] ∧ t.boot.manifest = none ∧ t.boot.resetEnabled = false ∧ t.boot.lock = s.boot.lock ∧
        t.boot.served = 0 ∧ t.boot.miss = 0 ∧ xspiLeaves t.boot s t ∧ t.pages = raised s pgBoot 0x2) ∧
    (s.boot.st ≠ .selecting →
      ∃ t, exec .xspiHwReset s = .next t ∧ t.boot.st = .selecting ∧ t.boot.chunks = [] ∧ t.boot.manifest = none ∧ t.boot.resetEnabled = false ∧ t.boot.lock = s.boot.lock ∧
        t.boot.ifmode = s.boot.record.ifmode ∧ t.boot.dummy = s.boot.record.dummy ∧ hush t = hush { s with boot := t.boot, pages := raised s pgBoot 0x2 }) ∧
    (s.boot.st = .selecting → exec .xspiHwReset s = .next s))

/-- XSPI_READ, XSPI_FAST_READ (R271, R275, R277): bytes of a good chunk are the slot's; at and beyond IMAGE_LEN the window drives 0xFF; an absent chunk drives 0xFF, is counted as a miss and loads; a plain Read does nothing in octal mode and neither drives data in PARKED. XSPI_READ_STATUS, XSPI_READ_SFDP, XSPI_WRITE_ENABLE, XSPI_WRITE_VOLATILE_CONFIG, XSPI_READ_VOLATILE_CONFIG, XSPI_IGNORED (Tables STO-11 and STO-12): what each drives and changes, and nothing else; WEL is needed and cleared by a configuration write, and values that are not allowed are ignored. -/
def Obligations.BootPortServes : Prop :=
  ((∀ (s : State) (addr : Word32) (k : Nat) (w : WordCheck),
    (s.boot.ifmode = true → ∃ t, exec (.xspiRead addr k w) s = .next t ∧ xspiLeaves { s.boot with resp := none, resetEnabled := false } s t ∧ t.pages = s.pages) ∧
    (s.boot.ifmode = false → exec (.xspiRead addr k w) s = exec (.xspiFastRead addr k w) s) ∧
    (s.sys.mode = .parked → ∃ t, exec (.xspiFastRead addr k w) s = .next t ∧ xspiLeaves { s.boot with resp := none, resetEnabled := false } s t ∧ t.pages = s.pages) ∧
    (s.sys.mode ≠ .parked → s.boot.manifest = none →
      ∃ t, exec (.xspiFastRead addr k w) s = .next t ∧ xspiLeaves { s.boot with resp := xspiDriven s (some (List.replicate k 0xFF)), resetEnabled := false } s t ∧ t.pages = s.pages)) ∧
  (∀ (s : State) (addr : Word32) (k : Nat) (m : Manifest), s.sys.mode ≠ .parked → s.boot.manifest = some m →
    (∀ w : WordCheck, m.imageLen ≤ addr.toNat →
      ∃ t, exec (.xspiFastRead addr k w) s = .next t ∧ xspiLeaves { s.boot with resp := xspiDriven s (some (List.replicate k 0xFF)), served := s.boot.served + k, resetEnabled := false } s t ∧ t.pages = s.pages) ∧
    (∀ c : Chunk, 0 < k → addr.toNat + k ≤ m.imageLen → addr.toNat / 65536 = (addr.toNat + k - 1) / 65536 → chunkOf s.boot (addr.toNat / 65536) = some c → (hdr s pgBoot).injCount = 0 → cellIsolated s pgBoot 0 = false →
      ∃ t, exec (.xspiFastRead addr k .good) s = .next t ∧ t.boot.resp = xspiDriven s (some (slice c.bytes (addr.toNat % 65536) k)) ∧
        t.boot.served = s.boot.served + k ∧ t.boot.miss = s.boot.miss ∧ t.boot.st = s.boot.st ∧ t.boot.lock = s.boot.lock ∧ t.boot.manifest = s.boot.manifest ∧
        (∀ n, n ∈ s.boot.loading → n ∈ t.boot.loading) ∧ (t.boot.chunks.map fun x => (x.n, x.bytes)) = (s.boot.chunks.map fun x => (x.n, x.bytes)) ∧ xspiLeaves t.boot s t ∧ t.pages = s.pages) ∧
    (∀ w : WordCheck, 0 < k → addr.toNat < m.imageLen → chunkOf s.boot (addr.toNat / 65536) = none →
      ∃ t, exec (.xspiFastRead addr k w) s = .next t ∧ t.boot.resp = xspiDriven s (some (List.replicate k 0xFF)) ∧ xspiLeaves t.boot s t ∧ t.boot.chunks = s.boot.chunks ∧
        (chunkFails s.boot (addr.toNat / 65536) = 0 → t.boot.miss = satAdd 32 s.boot.miss 1 ∧ addr.toNat / 65536 ∈ t.boot.loading ∧
          addr.toNat / 65536 ∈ t.boot.missed ∧ bootWip t.boot = true ∧ t.pages = raised s pgBoot 0x8) ∧
        (chunkFails s.boot (addr.toNat / 65536) = 1 → t.boot.miss = s.boot.miss ∧ addr.toNat / 65536 ∈ t.boot.loading ∧ t.pages = s.pages) ∧
        (2 ≤ chunkFails s.boot (addr.toNat / 65536) → t.boot.miss = s.boot.miss ∧ t.boot.missed = s.boot.missed ∧ t.pages = s.pages)))) ∧
  (∀ s : State,
    (∃ t, exec .xspiIgnored s = .next t ∧ xspiLeaves { s.boot with resp := none, resetEnabled := false } s t ∧ t.pages = s.pages) ∧
    (∃ t, exec .xspiWriteEnable s = .next t ∧ xspiLeaves { s.boot with wel := true, resp := none, resetEnabled := false } s t ∧ t.pages = s.pages) ∧
    (∀ k : Nat, s.sys.mode ≠ .parked →
      ∃ t b, exec (.xspiReadStatus k) s = .next t ∧ xspiLeaves { s.boot with resp := xspiDriven s (some (List.replicate k b)), resetEnabled := false } s t ∧ t.pages = s.pages ∧
        b.getLsbD 0 = bootWip s.boot ∧ b.getLsbD 1 = s.boot.wel ∧ b.getLsbD 6 = s.boot.error ∧ b.getLsbD 7 = (s.boot.st == .released) ∧
        (∀ j, 2 ≤ j → j < 6 → b.getLsbD j = false)) ∧
    (∀ (addr : Word32) (k : Nat), s.sys.mode ≠ .parked → s.boot.sfdp = true →
      ∃ t, exec (.xspiReadSfdp addr k) s = .next t ∧
        xspiLeaves { s.boot with resp := xspiDriven s (some ((List.range k).map fun i => sfdpByte (sfdpDensity s) (addr.toNat + i))), resetEnabled := false } s t ∧ t.pages = s.pages) ∧
    (∀ (addr : Word32) (k : Nat), s.boot.sfdp = false → ∃ t, exec (.xspiReadSfdp addr k) s = .next t ∧ xspiLeaves { s.boot with resp := none, resetEnabled := false } s t ∧ t.pages = s.pages) ∧
    (∀ (addr : Word32) (v : Byte), s.boot.wel = false → ∃ t, exec (.xspiWriteVolatileConfig addr v) s = .next t ∧ xspiLeaves { s.boot with resp := none, resetEnabled := false } s t ∧ t.pages = s.pages) ∧
    (∀ v : Byte, s.boot.wel = true →
      (v.toNat ≤ 1 → ∃ t, exec (.xspiWriteVolatileConfig 0 v) s = .next t ∧ xspiLeaves { s.boot with wel := false, ifmode := v == 1, resp := none, resetEnabled := false } s t ∧ t.pages = s.pages) ∧
      (8 ≤ v.toNat → v.toNat ≤ 30 → ∃ t, exec (.xspiWriteVolatileConfig 1 v) s = .next t ∧ xspiLeaves { s.boot with wel := false, dummy := v.toNat, resp := none, resetEnabled := false } s t ∧ t.pages = s.pages) ∧
      (∀ addr : Word32, (addr = 0 ∧ 1 < v.toNat) ∨ (addr = 1 ∧ (v.toNat < 8 ∨ 30 < v.toNat)) ∨ (addr ≠ 0 ∧ addr ≠ 1) →
        ∃ t, exec (.xspiWriteVolatileConfig addr v) s = .next t ∧ xspiLeaves { s.boot with wel := false, resp := none, resetEnabled := false } s t ∧ t.pages = s.pages)) ∧
    (s.sys.mode ≠ .parked →
      (∃ t, exec (.xspiReadVolatileConfig 0) s = .next t ∧ xspiLeaves { s.boot with resp := xspiDriven s (some [if s.boot.ifmode then 1 else 0]), resetEnabled := false } s t ∧ t.pages = s.pages) ∧
      (∃ t, exec (.xspiReadVolatileConfig 1) s = .next t ∧ xspiLeaves { s.boot with resp := xspiDriven s (some [BitVec.ofNat 8 s.boot.dummy]), resetEnabled := false } s t ∧ t.pages = s.pages) ∧
      (∀ addr : Word32, addr ≠ 0 → addr ≠ 1 →
        ∃ t b, exec (.xspiReadVolatileConfig addr) s = .next t ∧ xspiLeaves { s.boot with resp := xspiDriven s (some [b]), resetEnabled := false } { s with free := t.free } t ∧ t.pages = s.pages)))

/-- CONFIRM, SET_TRIAL, SET_IF, CLEAR_TRIAL, BOOT_CMD_DONE (R272, R278, Table STO-18): an allowed command starts with the record it will write, and BOOT_CMD_DONE then ends it: result 0, the new record in force with SEQ raised by one and RECORD_WRITTEN raised; the others end at once with their code and raise CMD_DONE; the finished command stands in the other record ingot. -/
def Obligations.BootCommandsRewriteTheRecord : Prop :=
  (∀ (s : State) (i : Iface), reaches i pgBoot s → s.boot.run = none →
    let starts := fun (t : State) (x : BootRec) =>
      seen i t = seen i { cancelKey pgBoot s with boot := { s.boot with cmd := t.boot.cmd, run := some { result := 0, record := some x } } } ∧
      (s.sto.parked = false → s.sto.parking = false → s.sto.mapOk = true →
        ∃ u, exec (.bootCmdDone true) t = .next u ∧ u.boot.run = none ∧ u.boot.result = 0 ∧ u.boot.record = { x with seq := s.boot.record.seq + 1 } ∧ (hdr u pgBoot).evtRaw.getLsbD 5 = true)
    let refused := fun (t : State) (code : Nat) =>
      seen i t = seen i { cancelKey pgBoot s with boot := { s.boot with cmd := t.boot.cmd, result := code }, pages := raised (cancelKey pgBoot s) pgBoot 0x10 }
    (∀ raise : Bool,
      (s.boot.st = .serving ∨ s.boot.st = .released →
        ∃ t, exec (.confirm i raise) s = .next t ∧ starts t { s.boot.record with
          prefer := s.boot.slot, trial := none, minSvn := if raise then (s.boot.manifest.map (·.svn)).getD s.boot.record.minSvn else s.boot.record.minSvn }) ∧
      (s.boot.st ≠ .serving → s.boot.st ≠ .released → ∃ t, exec (.confirm i raise) s = .next t ∧ refused t 3)) ∧
    (∀ (slot : Bool) (tries : BitVec 4) (o : ManOut), trialGives slot o s →
      ∃ t, exec (.setTrial i slot tries) s = .next t ∧ t.boot.record = s.boot.record ∧ t.boot.st = s.boot.st ∧ t.sto.mem = s.sto.mem ∧
        (∀ m : Manifest, o = .ok m → tries ≠ 0 → (if slot then t.boot.okB else t.boot.okA) = true ∧
          t.boot.run = some { result := 0, record := some { s.boot.record with trial := some slot, tries := tries.toNat } } ∧
          (s.sto.parked = false → s.sto.parking = false → s.sto.mapOk = true →
            ∃ u, exec (.bootCmdDone true) t = .next u ∧ u.boot.result = 0 ∧ u.boot.record = { s.boot.record with trial := some slot, tries := tries.toNat, seq := s.boot.record.seq + 1 })) ∧
        (∀ m : Manifest, o = .ok m → tries = 0 → (if slot then t.boot.okB else t.boot.okA) = true ∧ t.boot.run = none ∧ t.boot.result = 2 ∧ (hdr t pgBoot).evtRaw.getLsbD 4 = true) ∧
        (o = .bad → (if slot then t.boot.okB else t.boot.okA) = false ∧ t.boot.run = none ∧ t.boot.result = 1 ∧ (hdr t pgBoot).evtRaw.getLsbD 4 = true) ∧
        (o = .store → t.boot.run = none ∧ t.boot.result = 5 ∧ (hdr t pgBoot).evtRaw.getLsbD 4 = true)) ∧
    (∀ (ifmode : Bool) (dummy : BitVec 5),
      (8 ≤ dummy.toNat → dummy.toNat ≤ 30 → ∃ t, exec (.setIf i ifmode dummy) s = .next t ∧ starts t { s.boot.record with ifmode := ifmode, dummy := dummy.toNat }) ∧
      (dummy.toNat < 8 ∨ 30 < dummy.toNat → ∃ t, exec (.setIf i ifmode dummy) s = .next t ∧ refused t 2)) ∧
    (∃ t, exec (.clearTrial i) s = .next t ∧ starts t { s.boot.record with trial := none, tries := 0 })) ∧
  (∀ (s : State) (i : Iface), reaches i pgBoot s → s.boot.run.isSome = true →
    let busy := fun (t : State) => seen i t = seen i { cancelKey pgBoot s with boot := { s.boot with cmd := t.boot.cmd, result := 4 }, pages := raised (cancelKey pgBoot s) pgBoot 0x10 }
    (∀ raise : Bool, ∃ t, exec (.confirm i raise) s = .next t ∧ busy t) ∧
    (∀ (slot : Bool) (tries : BitVec 4), ∃ t, exec (.setTrial i slot tries) s = .next t ∧ busy t) ∧
    (∀ (ifmode : Bool) (dummy : BitVec 5), ∃ t, exec (.setIf i ifmode dummy) s = .next t ∧ busy t) ∧
    (∃ t, exec (.clearTrial i) s = .next t ∧ busy t)) ∧
  (∀ (s : State) (r : BootRun) (x : BootRec), s.boot.run = some r → r.record = some x →
    (s.sto.parked = false → s.sto.parking = false → s.sto.mapOk = true → storeCanonical s →
      ∃ t, exec (.bootCmdDone true) s = .next t ∧
        let n := if s.boot.recIngot = 10 then 11 else 10
        t.boot = { s.boot with run := none, result := r.result, record := { x with seq := s.boot.record.seq + 1 }, recIngot := n } ∧
        peekLog (cfgAddr n) 32 t = recordBytes { x with seq := s.boot.record.seq + 1 } ∧
        (∀ p, p / 65536 ≠ physIngot s.sto (2048 + n) → memGet t.sto.mem p = memGet s.sto.mem p) ∧
        hush t = hush { s with boot := t.boot, sto := { s.sto with mem := t.sto.mem, poison := t.sto.poison }, pages := raised s pgBoot 0x20 }) ∧
    (∃ t, exec (.bootCmdDone false) s = .next t ∧
      hush t = hush { s with boot := { s.boot with run := none, result := 5 }, pages := raised s pgBoot 0x10 })) ∧
  (∀ (s : State) (storeOk : Bool), s.boot.run = none → exec (.bootCmdDone storeOk) s = .next s)

/-! ## The Brake van -/

/-- JOURNAL_APPEND, SNAPSHOT (R289, R293, Table JRN-8): a record that WINDOW or LOSSY_MARK and the credit admit waits for its SEQ with its stamp; the others end with the code and the reason the table gives, and are counted; a command that may not be served ends with its code and admits nothing. -/
def Obligations.JournalAdmitsHostRecords : Prop :=
  (∀ (s : State) (id : CmdId) (dma : Bool) (given : List Byte) (c : Cmd), fetchedCmd s id 0x10 = some c →
    let r : Rec := { time := now s, epoch := lastEpoch s, source := c.desc.source.toNat, cls := c.desc.cls.toNat, lossy := c.desc.flags.getLsbD 0, payload := cmdData c given s }
    let h := occHost s.jrn + recOcc r
    let cover := !s.jrn.overcommit && decide (h + 262144 ≤ s.jrn.k)
    let limit := if r.lossy then lossyUnits s * 65536 else windowUnits s * 65536
    (∀ code : Nat, jrnRefusal s = some code →
      ∃ t, exec (.journalAppend id dma given) s = .next t ∧ decidedTo id { result := BitVec.ofNat 8 code } s t ∧ t = { s with pcie := { s.pcie with cmds := t.pcie.cmds } }) ∧
    (jrnRefusal s = none → c.desc.source.toNat < 0x100 →
      ∃ t, exec (.journalAppend id dma given) s = .next t ∧ decidedTo id { result := 0x43 } s t ∧ t = { s with pcie := { s.pcie with cmds := t.pcie.cmds } }) ∧
    (jrnRefusal s = none → 0x100 ≤ c.desc.source.toNat → 4064 < c.desc.length.toNat →
      ∃ t, exec (.journalAppend id dma given) s = .next t ∧ decidedTo id { result := 0x44 } s t ∧ t = { s with pcie := { s.pcie with cmds := t.pcie.cmds } }) ∧
    (jrnRefusal s = none → 0x100 ≤ c.desc.source.toNat → c.desc.length.toNat ≤ 4064 → dma = true ∨ id.src = .mbx → (hdr s pgMgt).injCount = 0 → cellIsolated s pgMgt 0 = false →
      (h ≤ limit → cover = true →
        ∃ t, exec (.journalAppend id dma given) s = .next t ∧ stageTo id .waiting s t ∧
          t = { s with jrn := { s.jrn with admitted := s.jrn.admitted + 1, waiting := s.jrn.waiting ++ [{ r := r, host := true, at_ := now s, cmd := some id, no := s.jrn.admitted + 1 }] },
                       pcie := { s.pcie with cmds := t.pcie.cmds }, arb := t.arb }) ∧
      (r.lossy = false → limit < h ∨ cover = false →
        ∃ t, exec (.journalAppend id dma given) s = .next t ∧ t.jrn = { s.jrn with qfull := satAdd 32 s.jrn.qfull 1 } ∧
          t.pcie.cmds = updCmd id (fun d => { d with stage := .decided { result := 0x41, count := if limit < h then 1 else 2 } }) s.pcie.cmds ∧
          hush t = hush { s with jrn := t.jrn, pages := raised s pgJrn 0x2, pcie := { s.pcie with cmds := t.pcie.cmds }, arb := t.arb }) ∧
      (r.lossy = true → limit < h ∨ cover = false →
        ∃ t, exec (.journalAppend id dma given) s = .next t ∧ t.jrn.drops = satAdd 32 s.jrn.drops 1 ∧ t.jrn.dropBytes = satAdd 32 s.jrn.dropBytes (recOcc r) ∧
          t.jrn.nextSeq = s.jrn.nextSeq ∧ t.jrn.buf = s.jrn.buf ∧ (hdr t pgJrn).evtRaw.getLsbD 2 = true ∧
          t.pcie.cmds = updCmd id (fun d => { d with stage := .decided { result := 0x42 } }) s.pcie.cmds ∧
          hush t = hush { s with jrn := t.jrn, pages := t.pages, fcr := t.fcr, pcie := { s.pcie with cmds := t.pcie.cmds }, arb := t.arb }))) ∧
  (∀ (s : State) (id : CmdId) (c : Cmd), fetchedCmd s id 0x12 = some c → jrnRefusal s = none →
    occHost s.jrn + 2800 ≤ windowUnits s * 65536 → s.jrn.overcommit = false → occHost s.jrn + 2800 + 262144 ≤ s.jrn.k →
    (∀ b : EpochBuf, latestBuf s = some b → b.body.length = 2768 →
      ∃ t, exec (.snapshot id) s = .next t ∧ stageTo id .waiting s t ∧
        t = { s with jrn := { s.jrn with admitted := s.jrn.admitted + 1, waiting := s.jrn.waiting ++ [{ r := { time := b.time, epoch := b.epoch, source := 0x0007, cls := 0x01, payload := b.body }, host := true, at_ := now s, cmd := some id, no := s.jrn.admitted + 1 }] },
                     pcie := { s.pcie with cmds := t.pcie.cmds } }) ∧
    (latestBuf s = none →
      ∃ t payload, exec (.snapshot id) s = .next t ∧ payload.length = 2768 ∧ stageTo id .waiting s t ∧
        t = { s with free := t.free, jrn := { s.jrn with admitted := s.jrn.admitted + 1, waiting := s.jrn.waiting ++ [{ r := { time := now s, epoch := lastEpoch s, source := 0x0007, cls := 0x01, payload := payload }, host := true, at_ := now s, cmd := some id, no := s.jrn.admitted + 1 }] },
                     pcie := { s.pcie with cmds := t.pcie.cmds } }))

/-- SEQ_ASSIGN, FLOOR_SNAPSHOT_DONE, GAP_RECORD (R284, R288, R309): once no detection is on its way every waiting record receives the next SEQ in the order of stamps, a system record before a host record of the same stamp, and its command ends ACCEPTED; the floor rises by 2^40; the lost records of a millisecond become one GAP record. -/
def Obligations.RecordsReceiveTheirOrder : Prop :=
  (∀ l : List BufRec, (stampOrder l).Perm l ∧ (stampOrder l).Pairwise fun a b => a.r.epoch.toNat < b.r.epoch.toNat ∨ (a.r.epoch = b.r.epoch ∧ (a.r.time < b.r.time ∨ (a.r.time = b.r.time ∧ (a.host = true → b.host = true))))) ∧
  (∀ s : State, jrnAdmits s.jrn = true → s.fcr.inbox = [] → s.jrn.nextSeq + s.jrn.waiting.length ≤ s.sto.floor →
    ∃ t, exec .seqAssign s = .next t ∧ t.jrn.waiting = [] ∧ t.jrn.nextSeq = s.jrn.nextSeq + s.jrn.waiting.length ∧
      t.jrn.buf = s.jrn.buf ++ (stampOrder s.jrn.waiting).mapIdx (fun i b => { b with r := { b.r with seq := s.jrn.nextSeq + i }, cmd := none }) ∧
      (∀ (b : BufRec) (id : CmdId), s.jrn.waiting = [b] → b.cmd = some id → decidedTo id { result := 0x40, count := b.r.epoch.toNat, value := s.jrn.nextSeq } s t) ∧
      t = { s with jrn := { s.jrn with waiting := t.jrn.waiting, nextSeq := t.jrn.nextSeq, buf := t.jrn.buf, floorReq := t.jrn.floorReq }, pcie := { s.pcie with cmds := t.pcie.cmds } }) ∧
  (∀ s : State, jrnAdmits s.jrn = false ∨ s.fcr.inbox ≠ [] → exec .seqAssign s = .next s) ∧
  (∀ s : State, s.jrn.floorReq = true →
    ∃ t, exec .floorSnapshotDone s = .next t ∧
      t = { s with jrn := { s.jrn with floorReq := false }, sto := { s.sto with floor := s.sto.floor + 2 ^ 40, log := [], snaps := t.sto.snaps } } ∧
      ∃ m : MapSnap, (vGet t.sto.snaps 0 none = some m ∨ vGet t.sto.snaps 1 none = some m) ∧ m.floor = s.sto.floor + 2 ^ 40 ∧ m.map = s.sto.map ∧ m.base = s.sto.commitSeq ∧ m.layout = s.sto.layout) ∧
  (∀ s : State, s.jrn.floorReq = false → exec .floorSnapshotDone s = .next s) ∧
  (∀ s : State, s.jrn.gapMs < msNow s → 0 < s.jrn.gapRecs → jrnAdmits s.jrn = true →
    ∃ t b, exec .gapRecord s = .next t ∧ t.jrn.waiting = s.jrn.waiting ++ [b] ∧ b.host = false ∧ b.r.source = 0x0004 ∧ b.r.cls = 0x01 ∧ b.r.time = (s.jrn.gapMs + 1) * tbMs ∧
      b.r.payload = leBytes 4 s.jrn.gapRecs ++ leBytes 4 s.jrn.gapBytes ++ (s.jrn.gapSq.toList.map (leBytes 4)).flatten ++ zeros 8 ∧
      t.jrn.gapRecs = 0 ∧ t.jrn.gapBytes = 0 ∧ t.jrn.buf = s.jrn.buf ∧ t.jrn.nextSeq = s.jrn.nextSeq ∧ t.sto = s.sto ∧ t.ilkl = s.ilkl ∧ t.sys = s.sys) ∧
  (∀ s : State, msNow s ≤ s.jrn.gapMs ∨ s.jrn.gapRecs = 0 → exec .gapRecord s = .next s)

/-- CREDIT_RECOMPUTE, HOLDUP_MEAS_DUE, HOLDUP_MEAS_POSTPONE, HOLDUP_MEAS_START, HOLDUP_MEAS_TIMER_START, HOLDUP_MEAS_DONE, HOLDUP_MEAS_TIMEOUT, MEAS_NOW (R296 to R299, Table JRN-9): the credit is what R296 computes, a multiple of 16 of at most 4 MiB, and what it no longer covers is OVERCOMMIT; a measurement passes its steps, and one that fails leaves C_meas 0. That the tenth postponement in a row fails is the model's reading (log 26). -/
def Obligations.CreditFollowsTheMeasurement : Prop :=
  (∀ (s : State) (holdV : Nat),
    ∃ t, exec (.creditRecompute holdV) s = .next t ∧
      let v := if s.jrn.measLow then min (holdV % 4096) 2900 else holdV % 4096
      t.jrn.k = (if s.pwr.holdUntrusted then 0 else creditOf v s.jrn.cMeas s.jrn.esr) ∧ t.jrn.k ≤ 4194304 ∧ t.jrn.k % 16 = 0 ∧
      t.jrn.overcommit = (decide (0 < occHost s.jrn + occSys s.jrn) && decide (t.jrn.k < occHost s.jrn + occSys s.jrn)) ∧
      (s.jrn.judged = true → s.jrn.st ≠ .recovering → t.jrn.k < 4194304 → s.jrn.weakRaised = false → t.jrn.weakRaised = true ∧ (hdr t pgJrn).evtRaw.getLsbD 4 = true ∧ ∃ r ∈ t.fcr.inbox, r.src = 0x08A) ∧
      (s.jrn.judged = true → s.jrn.st ≠ .recovering → t.jrn.k < 262144 → s.jrn.shortRaised = false → t.jrn.shortRaised = true ∧ (hdr t pgJrn).evtRaw.getLsbD 5 = true ∧ ∃ r ∈ t.fcr.inbox, r.src = 0x08B) ∧
      hush t = hush { s with jrn := { s.jrn with holdV := holdV % 4096, k := t.jrn.k, eAvail := energyUj v s.jrn.cMeas s.jrn.esr, overcommit := t.jrn.overcommit, weakRaised := t.jrn.weakRaised, shortRaised := t.jrn.shortRaised },
                             pages := t.pages, fcr := t.fcr }) ∧
  (∀ s : State,
    (s.jrn.meas = .idle → s.pwr.pfRun = false →
      (∃ t, exec .holdupMeasDue s = .next t ∧ t.jrn.meas = .due ∧ t.jrn.measLow = true ∧ t.jrn.judged = true ∧ t.jrn.postponed = 0 ∧ t.jrn.cMeas = s.jrn.cMeas ∧ t.pwr = s.pwr) ∧
      (∀ i : Iface, reaches i pgJrn s → ∃ t, exec (.measNow i) s = .next t ∧ t.jrn.meas = .due ∧ t.jrn.measLow = true ∧ t.jrn.judged = true ∧ t.jrn.cMeas = s.jrn.cMeas ∧ t.pwr = s.pwr)) ∧
    (s.jrn.meas ≠ .idle ∨ s.pwr.pfRun = true →
      exec .holdupMeasDue s = .next s ∧ ∀ i : Iface, reaches i pgJrn s → ∃ t, exec (.measNow i) s = .next t ∧ seen i t = seen i (cancelKey pgJrn s)) ∧
    (s.jrn.meas = .due → s.jrn.holdV < 2980 → s.jrn.postponed + 1 < 10 →
      ∃ t, exec .holdupMeasPostpone s = .next t ∧ t = { s with jrn := { s.jrn with postponed := s.jrn.postponed + 1 } }) ∧
    (s.jrn.meas = .due → s.jrn.holdV < 2980 → 10 ≤ s.jrn.postponed + 1 →
      ∃ t, exec .holdupMeasPostpone s = .next t ∧ t.jrn.meas = .idle ∧ t.jrn.cMeas = 0 ∧ t.jrn.k = 0 ∧ (hdr t pgJrn).evtRaw.getLsbD 7 = true ∧ ∃ r ∈ t.fcr.inbox, r.src = 0x08C) ∧
    (∀ step : Nat, s.jrn.meas = .due → 2980 ≤ s.jrn.holdV → measMayStart s.jrn = true → s.pwr.pfRun = false →
      (step ≤ 1000 → ∃ t, exec (.holdupMeasStart step) s = .next t ∧
        t = { s with jrn := { s.jrn with meas := .sinking (2 * step), postponed := 0 }, pwr := { s.pwr with charging := false } }) ∧
      (1000 < step → ∃ t, exec (.holdupMeasStart step) s = .next t ∧ t.jrn.meas = .idle ∧ t.jrn.cMeas = 0 ∧ t.jrn.k = 0 ∧ ∃ r ∈ t.fcr.inbox, r.src = 0x08C)) ∧
    (∀ esr : Nat, s.jrn.meas = .sinking esr → ∃ t, exec .holdupMeasTimerStart s = .next t ∧ t = { s with jrn := { s.jrn with meas := .timing esr } }) ∧
    (∀ esr us : Nat, s.jrn.meas = .timing esr →
      ∃ t, exec (.holdupMeasDone us) s = .next t ∧ t.jrn.meas = .idle ∧ t.jrn.cMeas = min (2 * us / 5) 65535 ∧ t.jrn.esr = esr ∧ t.jrn.cAnchor = min (2 * us / 5) 65535 ∧ t.jrn.esrAnchor = esr ∧
        t.jrn.provisional = false ∧ t.jrn.cValid = true ∧ t.jrn.measLow = false ∧ t.pwr = { s.pwr with charging := carried s && !s.pwr.pfRun } ∧ (hdr t pgJrn).evtRaw.getLsbD 6 = true) ∧
    ((∃ esr, s.jrn.meas = .sinking esr ∨ s.jrn.meas = .timing esr) →
      ∃ t, exec .holdupMeasTimeout s = .next t ∧ t.jrn.meas = .idle ∧ t.jrn.cMeas = 0 ∧ t.jrn.k = 0 ∧ t.pwr = { s.pwr with charging := carried s && !s.pwr.pfRun } ∧
        (hdr t pgJrn).evtRaw.getLsbD 7 = true ∧ ∃ r ∈ t.fcr.inbox, r.src = 0x08C) ∧
    (s.jrn.meas = .idle → exec .holdupMeasTimeout s = .next s ∧ exec .holdupMeasTimerStart s = .next s ∧ ∀ us, exec (.holdupMeasDone us) s = .next s))

/-- BATCH_COMMIT (R301, R302, Table JRN-11): the oldest records of the buffer, up to 256 of at most 64 KiB, become SEALED together; a batch of one record stands in the ring word for word with its commit word behind it; no byte outside the journal partition changes.

SEAL_REQUEST, SEALING_DONE, LMN_CLEAR, SEAL_WATCH_WRITE, JRN_CNT_CLR, and an empty BATCH_COMMIT (R305, R311, R467, Table JRN-12): sealing closes the journal, ends what waits, and ends with the POWER_FAIL record sealed; a sealed merge clears its entries and no newer ones; the watch raises SEAL_MARK once, at the write where SEALED_SEQ has passed it already (log 29).

JOURNAL_READ (R290, Table JRN-6): a read that may not be served, below the oldest record or above the sealed ones ends with its code; a sealed record that is read without an error is delivered whole, with the SEQ that follows. -/
def Obligations.BatchesSealMarkAndAreRead : Prop :=
  ((∀ (s : State) (p : Part), jrnDrains s = true → partOfType s.sto 4 = some p → 4 ≤ p.count → p.count ≤ 8192 → storeCanonical s →
    (∀ (last : BufRec) (ws : List (Nat × WordCheck)), (batchOf 256 65536 s.jrn.buf).getLast? = some last →
      ∃ t, exec (.batchCommit ws) s = .next t ∧ t.jrn.sealedSeq = last.r.seq ∧ t.jrn.buf = s.jrn.buf.drop (batchOf 256 65536 s.jrn.buf).length ∧
        t.jrn.headChain = crc32c (((batchOf 256 65536 s.jrn.buf).map fun b => leBytes 4 (recCrc b.r).toNat).flatten) ∧
        t.jrn.waiting = s.jrn.waiting ∧ t.jrn.nextSeq = s.jrn.nextSeq ∧ t.jrn.st = s.jrn.st ∧ t.ilkl = s.ilkl ∧ t.boot = s.boot ∧ t.sys = s.sys ∧
        (∀ a, (∀ n, p.first ≤ n → n < p.first + p.count → a / 65536 ≠ physIngot s.sto n) → memGet t.sto.mem a = memGet s.sto.mem a)) ∧
    (∀ b : BufRec, s.jrn.buf = [b] → b.r.payload.length ≤ 4064 → (hdr s pgJrn).injCount = 0 → s.jrn.pos < ringWords (ringOf s) →
      (∀ m, p.first ≤ m → m < p.first + p.count → ∀ n, p.first ≤ n → n < p.first + p.count → physIngot s.sto m = physIngot s.sto n → m = n) →
      ∃ t, exec (.batchCommit []) s = .next t ∧ t.jrn.sealedSeq = b.r.seq ∧ t.jrn.buf = [] ∧
        t.jrn.pos = (s.jrn.pos + recOcc b.r / 16 + 1) % ringWords (ringOf s) ∧
        (∀ i, i < recOcc b.r / 16 → ringPeek (ringOf s) (s.jrn.pos + i) t = slice (recBytes b.r) (16 * i) 16) ∧
        ringPeek (ringOf s) (s.jrn.pos + recOcc b.r / 16) t = commitBytes b.r.seq 1 (crc32c (leBytes 4 (recCrc b.r).toNat)))) ∧
  ((∀ (s : State) (back : Fuse), s.pwr.pfRun = true ∨ s.rst.chip.isSome = true → s.jrn.st = .running → s.tch.run = none →
    ∃ t, exec (.sealRequest back) s = .next t ∧ t.jrn.st = .sealing ∧ t.jrn.flushes = [] ∧ t.hmk.atts = [] ∧
      t.jrn.sealReq = some (s.pwr.pfFirst, occHost s.jrn + occSys s.jrn, s.jrn.holdV, s.jrn.eAvail, now s) ∧
      (∀ (f : Flush), s.jrn.flushes = [f] → s.hmk.atts = [] → decidedTo f.id { result := 0x46 } s t) ∧
      t = { s with jrn := { s.jrn with st := .sealing, sealReq := t.jrn.sealReq, flushes := [] }, hmk := { s.hmk with atts := [] }, pwr := { s.pwr with sealCause := s.pwr.pfFirst }, pcie := { s.pcie with cmds := t.pcie.cmds } }) ∧
  (∀ (s : State) (back : Fuse), s.pwr.pfRun = false → s.rst.chip = none → exec (.sealRequest back) s = .next s) ∧
  (∀ s : State, s.jrn.st = .sealing → s.jrn.buf = [] → s.jrn.waiting = [] → jrnDrains s = true →
    ∃ t, exec .sealingDone s = .next t ∧ t.jrn.st = .sealed ∧ t.jrn.sealedSeq = s.jrn.nextSeq ∧ t.jrn.nextSeq = s.jrn.nextSeq + 1 ∧ t.jrn.buf = [] ∧ t.jrn.waiting = [] ∧
      (hdr t pgJrn).evtRaw.getLsbD 9 = true ∧ t.ilkl = s.ilkl ∧ t.sys = s.sys) ∧
  (∀ s : State, s.jrn.st ≠ .sealing ∨ s.jrn.buf ≠ [] ∨ s.jrn.waiting ≠ [] → exec .sealingDone s = .next s) ∧
  (∀ (s : State) (ws : List (Nat × WordCheck)), jrnDrains s = false ∨ s.jrn.buf = [] → exec (.batchCommit ws) s = .next s) ∧
  (∀ (s : State) (n top : Nat), s.jrn.merge = some (n, top) → sealedUpTo s n = true → (xq s 25).st = .joined →
    ∃ t, exec .lmnClear s = .next t ∧
      hush t = hush { s with jrn := { s.jrn with merge := none }, pages := raised s pgLmn 0x2, lmn := { s.lmn with lost := 0, log := s.lmn.log.filter fun e => decide (2 ^ 31 ≤ (top + 2 ^ 32 - entryLseq e) % 2 ^ 32) } }) ∧
  (∀ s : State, s.jrn.merge = none ∨ (xq s 25).st ≠ .joined → exec .lmnClear s = .next s) ∧
  (∀ (s : State) (i : Iface), reaches i pgJrn s →
    (∀ v : Word32, let w := (vGet s.jrn.watchStaged (ifaceNo i) 0).toNat + 2 ^ 32 * v.toNat
      ∃ t, exec (.sealWatchWrite i v) s = .next t ∧
        seen i t = seen i { cancelKey pgJrn s with jrn := { s.jrn with sealWatch := w, watchDone := decide (w ≤ s.jrn.sealedSeq) }, pages := if w ≤ s.jrn.sealedSeq then raised (cancelKey pgJrn s) pgJrn 0x100 else (cancelKey pgJrn s).pages }) ∧
    (∃ t, exec (.jrnCntClr i) s = .next t ∧
      seen i t = seen i { cancelKey pgJrn s with jrn := { s.jrn with qfull := 0, drops := 0, dropBytes := 0, uncov := 0, sealMaxUs := 0 } })))) ∧
  (∀ (s : State) (id : CmdId) (dma : Bool) (fs : List (Nat × WordCheck)) (c : Cmd), fetchedCmd s id 0x11 = some c →
    let start := c.desc.addr.toNat
    let n := c.desc.length.toNat
    let ends := fun (k : Cpl) (gs : List (Nat × WordCheck)) => ∃ t, exec (.journalRead id dma gs) s = .next t ∧ decidedTo id k s t ∧ t = { s with pcie := { s.pcie with cmds := t.pcie.cmds }, arb := t.arb }
    (∀ code : Nat, jrnRefusal s = some code → ends { result := BitVec.ofNat 8 code } fs) ∧
    (jrnRefusal s = none → pageFenced s pgSto = true → ends { result := 0x0C } fs) ∧
    (jrnRefusal s = none → pageFenced s pgSto = false →
      (n % 16 ≠ 0 → ends { result := 0x03 } fs) ∧
      (n % 16 = 0 → n < 16 ∨ 1048576 < n → ends { result := 0x04 } fs) ∧
      (n % 16 = 0 → 16 ≤ n → n ≤ 1048576 →
        (start < s.jrn.oldestSeq → ends { result := 0x48, value := s.jrn.oldestSeq } fs) ∧
        (s.jrn.oldestSeq ≤ start → s.jrn.sealedSeq < start → ends { result := 0x49, value := start } fs) ∧
        (∀ r : Rec, s.jrn.oldestSeq = start → s.jrn.sealedSeq = start → dma = true ∨ id.src = .mbx → (hdr s pgSto).injCount = 0 → s.sto.bankIso = 0 → s.sto.dead = 0 → s.sto.poison = [] →
          r.payload.length ≤ 4064 → (∀ i, i < recOcc r / 16 → ringPeek (ringOf s) (s.jrn.oldestPos + i) s = slice (recBytes r) (16 * i) 16) →
          (recOcc r ≤ n → ends { result := 0x47, count := recOcc r, value := start + 1, data := recBytes r } []) ∧
          (n < recOcc r → ends { result := 0x4A, value := start } [])))))

/-! ## The host interfaces -/

/-- SQ_TAIL_DOORBELL, CQ_HEAD_DOORBELL, QUEUE_ENABLE, QUEUE_DISABLE, QUEUE_DRAINED, PCIE_CNT_CLR (R330, Table HIF-9): a doorbell in range moves its pointer and one out of range puts a running queue in ERROR; enabling starts a disabled queue from 0, disabling drains; illegal or changed sizes are refused.

BAR2_READ, BAR2_WRITE, PCIE_RESET, PCIE_LINK_UP, PCIE_CONFIG_WRITE (R320, R322): a read of the window gives the store's bytes, all ones where nothing backs it, and a poisoned completion where the store may not be read; a write is an Unsupported Request; that a link that trains shows its PLL locked and its clock within limits is the model's reading (log 132); a reset leaves the queues and vectors as at reset, abandons what has not its data, severs queues 0 and 1 and drops the interface's pin and latches. -/
def Obligations.QueuesWindowsAndConfiguration : Prop :=
  ((∀ (s : State) (i : Iface) (q : Fin 4), reaches i pgPcie s →
    let x := sqOf s q.val
    let put := fun (y : Sq) => { cancelKey pgPcie s with pcie := { s.pcie with sqs := vUpd s.pcie.sqs q.val fun _ => y } }
    (∀ v : BitVec 12,
      (x.st ≠ .running ∨ v.toNat < sqSize x → ∃ t, exec (.sqTailDoorbell i q v) s = .next t ∧ seen i t = seen i (put { x with tail := v })) ∧
      (x.st = .running → sqSize x ≤ v.toNat →
        ∃ t, exec (.sqTailDoorbell i q v) s = .next t ∧ seen i t = seen i { put { x with st := .error, err := 1 } with pages := raised (cancelKey pgPcie s) pgPcie 0x1 }) ∧
      (x.st ≠ .running ∨ (v.toNat < cqSize x ∧ (v.toNat + cqSize x - x.cqHead.toNat) % cqSize x ≤ x.used) →
        ∃ t, exec (.cqHeadDoorbell i q v) s = .next t ∧
          seen i t = seen i (put { x with cqHead := v, used := x.used - (v.toNat + cqSize x - x.cqHead.toNat) % cqSize x })) ∧
      (x.st = .running → cqSize x ≤ v.toNat ∨ x.used < (v.toNat + cqSize x - x.cqHead.toNat) % cqSize x →
        ∃ t, exec (.cqHeadDoorbell i q v) s = .next t ∧ seen i t = seen i { put { x with st := .error, err := 1 } with pages := raised (cancelKey pgPcie s) pgPcie 0x1 })) ∧
    (∀ cfg : Word32, 1 ≤ bits cfg 8 4 → bits cfg 8 4 ≤ 12 → 1 ≤ bits cfg 0 4 → bits cfg 0 4 ≤ 12 →
      let y := { x with ien := bitOf cfg 30, vec := BitVec.ofNat 5 (bits cfg 25 5), qmax := BitVec.ofNat 8 (bits cfg 17 8), cqLog := BitVec.ofNat 4 (bits cfg 8 4), sqLog := BitVec.ofNat 4 (bits cfg 0 4) }
      let same := bits cfg 8 4 = x.cqLog.toNat ∧ bits cfg 0 4 = x.sqLog.toNat
      (x.st = .disabled →
        (∃ t, exec (.queueEnable i q cfg) s = .next t ∧
          seen i t = seen i (put { y with en := true, st := .running, head := 0, tail := 0, cqHead := 0, cqTail := 0, used := 0, phase := true, err := 0, unsent := 0 })) ∧
        (∃ t, exec (.queueDisable i q cfg) s = .next t ∧ seen i t = seen i (put { y with en := false }))) ∧
      (same → x.st = .running ∨ x.st = .error →
        (∃ t, exec (.queueEnable i q cfg) s = .next t ∧ seen i t = seen i (put { y with en := true })) ∧
        (∃ t, exec (.queueDisable i q cfg) s = .next t ∧ seen i t = seen i (put { y with en := false, st := .draining }))) ∧
      (same → x.st = .draining →
        (∃ t, exec (.queueEnable i q cfg) s = .next t ∧ seen i t = seen i (put { y with en := true })) ∧
        (∃ t, exec (.queueDisable i q cfg) s = .next t ∧ seen i t = seen i (put { y with en := false }))) ∧
      (¬same → x.st ≠ .disabled →
        ∃ t, exec (.queueEnable i q cfg) s = .next t ∧
          seen i t = seen i { s with pages := vUpd s.pages pgPcie fun h => { h with key := none, errStat := setBit h.errStat 1 true, errOff := BitVec.ofNat 12 (0x110 + 0x40 * q.val), errIface := i } })) ∧
    (∀ cfg : Word32, bits cfg 8 4 < 1 ∨ 12 < bits cfg 8 4 ∨ bits cfg 0 4 < 1 ∨ 12 < bits cfg 0 4 →
      ∃ t, exec (.queueEnable i q cfg) s = .next t ∧
        seen i t = seen i { s with pages := vUpd s.pages pgPcie fun h => { h with key := none, errStat := setBit h.errStat 2 true, errOff := BitVec.ofNat 12 (0x110 + 0x40 * q.val), errIface := i } }) ∧
    (∃ t, exec (.pcieCntClr i) s = .next t ∧ seen i t = seen i { cancelKey pgPcie s with pcie := { s.pcie with bar2Unbacked := 0, discardCpl := 0 } })) ∧
  (∀ (s : State) (q : Fin 4),
    ((sqOf s q.val).st = .draining → inflightOf s q.val = 0 → ∃ t, exec (.queueDrained q) s = .next t ∧ t = { s with pcie := { s.pcie with sqs := t.pcie.sqs } } ∧
      (∀ k, k ≠ q.val → sqOf t k = sqOf s k) ∧
      sqOf t q.val = if (sqOf s q.val).en then { sqOf s q.val with st := .running, head := 0, tail := 0, cqHead := 0, cqTail := 0, used := 0, phase := true, err := 0, unsent := 0 }
                     else { sqOf s q.val with st := .disabled }) ∧
    ((sqOf s q.val).st ≠ .draining ∨ inflightOf s q.val ≠ 0 → exec (.queueDrained q) s = .next s))) ∧
  ((∀ (s : State) (a n : Nat), portOpen .pcie s = true →
    let passes := fun (t : State) => ∀ q, (xq t q).st = (xq s q).st ∧ (2 ≤ q → xq t q = xq s q)
    (s.sto.parked = true ∨ s.sto.parking = true ∨ s.ast.storeBad = true ∨ pageFenced s pgSto = true →
      ∃ t bytes, exec (.bar2Read a n []) s = .next t ∧ bytes.length = n ∧ passes t ∧ t = { s with free := t.free, queues := t.queues, arb := t.arb, pcie := { s.pcie with out := s.pcie.out ++ [.readData bytes true] } }) ∧
    (s.sto.parked = false → s.sto.parking = false → s.ast.storeBad = false → pageFenced s pgSto = false →
      ((partOf s.sto (a / 65536)).isNone = true →
        ∃ t ms, exec (.bar2Read a n []) s = .next t ∧ t.pcie.bar2Unbacked = satAdd 32 s.pcie.bar2Unbacked 1 ∧
          t.pcie.out = s.pcie.out ++ ms ++ [.readData (List.replicate n 0xFF) false] ∧
          passes t ∧ hush t = hush { s with pcie := { s.pcie with bar2Unbacked := t.pcie.bar2Unbacked }, pages := raised s pgPcie 0x4, queues := t.queues, arb := t.arb }) ∧
      ((partOf s.sto (a / 65536)).isSome = true → (hdr s pgSto).injCount = 0 → s.sto.bankIso = 0 → s.sto.dead = 0 → s.sto.poison = [] →
        ∃ t, exec (.bar2Read a n []) s = .next t ∧ passes t ∧
          t = { s with queues := t.queues, arb := t.arb, pcie := { s.pcie with out := s.pcie.out ++ [.readData (((maskReserved s (a / 16 * 16) (peekLog (a / 16 * 16) (16 * ((a + n + 15) / 16 - a / 16)) s)).drop (a % 16)).take n) false] } }))) ∧
  (∀ (s : State) (a : Nat) (data : List Byte), portOpen .pcie s = true → exec (.bar2Write a data) s = .next { s with pcie := { s.pcie with out := s.pcie.out ++ [.unsupported] } }) ∧
  (∀ (s : State) (a n : Nat) (fs : List (Nat × WordCheck)) (data : List Byte), portOpen .pcie s = false → exec (.bar2Read a n fs) s = .next (queueDiscard 0 1 s) ∧ exec (.bar2Write a data) s = .next (queueDiscard 0 1 s)) ∧
  (∀ (s : State) (k : PcieReset), k = .fundamental ∨ s.pcie.linkUp = true →
    ∃ t, exec (.pcieReset k) s = .next t ∧ t.pcie.sqs = Vector.ofFn (fun q : Fin 4 => { vec := BitVec.ofNat 5 q.val }) ∧ t.pcie.msix = Vector.replicate 32 {} ∧
      t.pcie.cmds = s.pcie.cmds.filterMap pcieResetCmd ∧ t.pcie.linkUp = (s.pcie.linkUp && k == .flr) ∧ t.pcie.bme = false ∧ t.pcie.msixEn = false ∧ t.pcie.msixMask = false ∧ t.pcie.d3 = false ∧
      vGet t.ep.pins 0 none = none ∧ (∀ e ∈ t.latch, e ∈ s.latch ∧ e.1 / (256 * 4096) ≠ 0) ∧
      (∀ q, q < 2 → (xq t q).st = .severed ∨ (xq t q).st = .absent) ∧ (∀ q, 2 ≤ q → xq t q = xq s q) ∧
      (s.pcie.linkUp = true → k ≠ .flr → ∃ r ∈ t.fcr.inbox, r.src = 0x0A2) ∧
      t.sys = s.sys ∧ t.sto = s.sto ∧ t.jrn = s.jrn ∧ t.mgt = s.mgt ∧ t.ilkl = s.ilkl ∧ t.boot = s.boot) ∧
  (∀ (s : State) (width : BitVec 2) (speed : BitVec 3), ∃ t, exec (.pcieLinkUp width speed) s = .next t ∧ t = { s with pcie := { s.pcie with linkUp := true, width := width, speed := speed }, clkg := { s.clkg with pll := setBit s.clkg.pll 3 true, monOk := setBit s.clkg.monOk 3 true } }) ∧
  (∀ (s : State) (bme msixEn msixMask d3 : Bool), s.pcie.linkUp = true → s.pwr.off = false → 3 ≤ s.sys.phase →
    ∃ t, exec (.pcieConfigWrite bme msixEn msixMask d3) s = .next t ∧
      hush t = hush { s with pcie := { s.pcie with bme := bme, msixEn := msixEn, msixMask := msixMask, d3 := d3 } } ∧
      (s.pcie.pba = 0 → t.pcie.out = s.pcie.out ∧ t.pcie.pba = 0)))

/-- DESCRIPTOR_FETCH, COMMAND_COMPLETION, CQ_COAL_TIMEOUT, EVT_ACK (R324, R328, R329, R331, R332): the next descriptor of the queue whose turn it is enters flight with the first check it fails; a decided command posts its data and then its entry, an abandoned one is discarded and counted, by PCIE and by queue 1; a coalesced or acknowledged message leaves where no mask holds it. -/
def Obligations.DescriptorsAndCompletions : Prop :=
  (∀ (s : State) (d : Desc) (q : Nat), pcieMoves s = true → nextQueue s = some q → (hdr s pgPcie).injCount = 0 → cellIsolated s pgPcie 0 = false →
    (∃ t, exec (.descriptorFetch d true .good) s = .next t ∧ t.pcie.rr = (q + 1) % 4 ∧
      sqOf t q = { sqOf s q with head := BitVec.ofNat 12 (((sqOf s q).head.toNat + 1) % sqSize (sqOf s q)) } ∧ (∀ k, k ≠ q → sqOf t k = sqOf s k) ∧
      t.pcie.cmds = s.pcie.cmds ++ [{ id := { src := .sq (Fin.ofNat 4 q), cid := d.cid }, desc := d, stage := match descCheck d with | some k => .decided { result := BitVec.ofNat 8 k } | none => .fetched }] ∧
      (∀ k, k ≠ 0 → xq t k = xq s k) ∧ (xq t 0).st = (xq s 0).st ∧ t = { s with pcie := { s.pcie with rr := t.pcie.rr, sqs := t.pcie.sqs, cmds := t.pcie.cmds }, queues := t.queues }) ∧
    (∀ w : WordCheck, ∃ t, exec (.descriptorFetch d false w) s = .next t ∧ sqOf t q = { sqOf s q with st := .error, err := 2 } ∧ (∀ k, k ≠ q → sqOf t k = sqOf s k) ∧
      hush t = hush { s with pcie := { s.pcie with rr := (q + 1) % 4, sqs := t.pcie.sqs }, pages := raised s pgPcie 0x1 })) ∧
  (∀ (s : State) (d : Desc) (dma : Bool) (w : WordCheck), pcieMoves s = false ∨ nextQueue s = none → exec (.descriptorFetch d dma w) s = .next s) ∧
  (∀ (s : State) (id : CmdId) (c : Cmd) (k : Cpl), cmdOf s id = some c → c.stage = .decided k →
    (∀ q : Fin 4, id.src = .sq q → c.orphan = false → pcieMoves s = true →
      let x := sqOf s q.val
      ∃ t ms, exec (.commandCompletion id) s = .next t ∧ t.pcie.cmds = dropCmd id s.pcie.cmds ∧
        t.pcie.out = s.pcie.out ++ dataWrites c.desc k.data ++ [.write (x.cqBase.toNat + 16 * x.cqTail.toNat) (cplBytes id.cid (q.val + if x.phase then 128 else 0) k)] ++ ms ∧
        (sqOf t q.val).used = x.used + 1 ∧ (sqOf t q.val).cqTail = (if x.cqTail.toNat + 1 = cqSize x then 0 else x.cqTail + 1) ∧
        (sqOf t q.val).phase = (x.phase != decide (x.cqTail.toNat + 1 = cqSize x)) ∧ (∀ j, j ≠ q.val → sqOf t j = sqOf s j) ∧
        (∀ j, j ≠ 1 → xq t j = xq s j) ∧ (xq t 1).st = (xq s 1).st ∧ hush t = hush { s with pcie := { s.pcie with cmds := t.pcie.cmds, sqs := t.pcie.sqs }, queues := t.queues }) ∧
    (∀ q : Fin 4, id.src = .sq q → c.orphan = true →
      ∃ t, exec (.commandCompletion id) s = .next t ∧ t = { s with pcie := { s.pcie with cmds := dropCmd id s.pcie.cmds, discardCpl := satAdd 32 s.pcie.discardCpl 1 }, queues := t.queues } ∧
        (∀ j, j ≠ 1 → xq t j = xq s j) ∧ ((xq s 1).st = .severed → (xq s 1).prodRst = false → (xq t 1).discards.toNat = min ((xq s 1).discards.toNat + 1) 0xFFFF) ∧
        ((xq s 1).st ≠ .severed ∨ (xq s 1).prodRst = true → xq t 1 = xq s 1)) ∧
    (∀ q : Fin 4, id.src = .sq q → c.orphan = false → pcieMoves s = false → exec (.commandCompletion id) s = .next s) ∧
    (id.src = .mbx →
      ∃ t, exec (.commandCompletion id) s = .next t ∧ t.pcie.cmds = dropCmd id s.pcie.cmds ∧ t.mgt.mbxBusy = false ∧
        (∀ j, j < 4 → vGet t.mgt.mbxCpl j 0 = wordAt (cplBytes id.cid 0 k) (4 * j)) ∧ (k.data = [] → t.mgt.mbxData = s.mgt.mbxData) ∧
        hush t = hush { s with pcie := { s.pcie with cmds := t.pcie.cmds }, mgt := { s.mgt with mbxBusy := false, mbxCpl := t.mgt.mbxCpl, mbxData := t.mgt.mbxData }, pages := raised s pgMgt 0x4 })) ∧
  (∀ (s : State) (id : CmdId), cmdOf s id = none → exec (.commandCompletion id) s = .next s) ∧
  (∀ (s : State) (q : Fin 4), (sqOf s q.val).st = .running → (sqOf s q.val).ien = true → (sqOf s q.val).coalTime ≠ 0 → 0 < (sqOf s q.val).unsent →
    ∃ t, exec (.cqCoalTimeout q) s = .next t ∧ sqOf t q.val = { sqOf s q.val with unsent := 0 } ∧
      let e := vGet s.pcie.msix (sqOf s q.val).vec.toNat {}
      (s.pcie.msixEn = true → s.pcie.msixMask = false → e.ctrl.getLsbD 0 = false → pcieMoves s = true →
        t.pcie.out = s.pcie.out ++ [.message (sqOf s q.val).vec.toNat (e.addr.toNat + 2 ^ 32 * e.upper.toNat) e.data.toNat]) ∧
      (s.pcie.msixEn = true → s.pcie.msixMask = true → t.pcie.pba = setBit s.pcie.pba (sqOf s q.val).vec.toNat true ∧ t.pcie.out = s.pcie.out) ∧
      hush t = hush { s with pcie := { s.pcie with sqs := t.pcie.sqs } }) ∧
  (∀ (s : State) (q : Fin 4), (sqOf s q.val).st ≠ .running ∨ (sqOf s q.val).ien = false ∨ (sqOf s q.val).coalTime = 0 ∨ (sqOf s q.val).unsent = 0 → exec (.cqCoalTimeout q) s = .next s) ∧
  (∀ (s : State) (i : Iface), reaches i pgPcie s →
    ∃ t, exec (.evtAck i) s = .next t ∧ seen i t = seen i (cancelKey pgPcie s) ∧
      let e := vGet s.pcie.msix s.pcie.evtVec.toNat {}
      (summary s = true → s.pcie.evtIen = true → s.pcie.msixEn = true → s.pcie.msixMask = false → e.ctrl.getLsbD 0 = false → pcieMoves s = true →
        t.pcie.out = s.pcie.out ++ [.message s.pcie.evtVec.toNat (e.addr.toNat + 2 ^ 32 * e.upper.toNat) e.data.toNat]) ∧
      (summary s = false ∨ s.pcie.evtIen = false → t.pcie.out = s.pcie.out ∧ t.pcie.pba = s.pcie.pba))

/-- MGT_READ, MGT_WRITE, MGT_KEYED_WRITE, MGT_CS_ABORT, MBX_GO, MGT_CNT_CLR (R333 to R335, Table HIF-11): a frame clocks CLK_MGT and passes queues 2 and 3; nothing is accessed before the CRCs hold, a good frame is answered and counted, a write frame does what the register command does; an abort is counted; the mailbox starts one command at a time and checks it.

EPOCH_OPEN, EPOCH_CLOSE, EPOCH_WINDOW_READ, the TAP instructions, REG_ACCESS, TAP_RESET, UART_LINE (R56, R57, R336 to R342): opening pins the latest committed epoch for the interface and the window shows that epoch until it is closed; EXTEST, CLAMP and HIGHZ become BYPASS in RUN; a debug access does what the register command does, or sets ERROR; a console line that does not fit is dropped whole. -/
def Obligations.ManagementDebugAndConsole : Prop :=
  ((∀ (s : State) (f : MgtFrame), portOpen .mgt s = true →
    let c := mgtClocked f s
    (mgtWritesData f = false → f.hcrc ≠ mgtHcrc f →
      ∃ t, exec (.mgtRead f) s = .next t ∧ t.mgt = { s.mgt with mode3 := f.mode3, resp := mgtResp 1 [], crcErrs := satAdd 32 s.mgt.crcErrs 1 } ∧
        hush t = hush { c with mgt := t.mgt, pages := raised s pgMgt 0x1, fcr := told s 0x0A5 0 0 pgMgt }) ∧
    (mgtOp f = 2 → f.hcrc = mgtHcrc f → f.dcrc ≠ mgtDcrc f →
      ∃ t, exec (.mgtWrite f) s = .next t ∧ t.mgt = { s.mgt with mode3 := f.mode3, resp := mgtResp 2 [], crcErrs := satAdd 32 s.mgt.crcErrs 1 } ∧
        hush t = hush { c with mgt := t.mgt, pages := raised s pgMgt 0x1, fcr := told s 0x0A5 0 0 pgMgt }) ∧
    (f.hcrc = mgtHcrc f → mgtMalformed f = true → mgtWritesData f = false → ∃ t, exec (.mgtRead f) s = .next t ∧ t = { c with mgt := { s.mgt with mode3 := f.mode3, resp := mgtResp 2 [] } }) ∧
    (f.hcrc = mgtHcrc f → mgtMalformed f = false → mgtCount f = 1 →
      (∀ page : BitVec 8, mgtOp f = 1 → f.addr.toNat = page.toNat * 4096 → pagePresent s.variant page.toNat = true → pageFenced s page.toNat = false →
        ∃ t, exec (.mgtRead f) s = .next t ∧
          t = { cancelKey page.toNat c with arb := t.arb, mgt := { s.mgt with mode3 := f.mode3, frames := satAdd 32 s.mgt.frames 1, lastStat := 0, resp := mgtResp 0 [pageId s.variant page.toNat] } }) ∧
      (∀ (page : BitVec 8) (reg : BitVec 10), f.addr.toNat = page.toNat * 4096 + 4 * reg.toNat → f.dcrc = mgtDcrc f → f.mode3 = s.mgt.mode3 →
        (mgtOp f = 2 → ∃ t, exec (.mgtWrite f) s = .next t ∧ exec (.registerWrite .mgt page reg (lGet f.data 0 0) true) c = .next t ∧ t.mgt.resp = mgtResp t.mgt.lastStat []) ∧
        (∀ (mask : BitVec 12) (count : BitVec 4), mgtOp f = 3 → reg = 7 → lGet f.data 0 0 = fld 16 12 mask.toNat ||| fld 0 4 count.toNat →
          ∃ t, exec (.mgtKeyedWrite f) s = .next t ∧ exec (.errInjWrite .mgt page mask count) c = .next t ∧ t.mgt.resp = mgtResp t.mgt.lastStat [])))) ∧
  (∀ (s : State) (f : MgtFrame), let c := mgtClocked f s
    c = { s with clkg := { s.clkg with monOk := setBit s.clkg.monOk 5 true }, queues := c.queues } ∧ (∀ k, k ≠ 2 → k ≠ 3 → xq c k = xq s k) ∧ ∀ k, (xq c k).st = (xq s k).st) ∧
  (∀ (s : State) (f : MgtFrame), portOpen .mgt s = false → mgtWritesData f = false →
    ∃ t, exec (.mgtRead f) s = .next t ∧ t.mgt.resp = [] ∧ t = { s with mgt := { s.mgt with resp := [] }, clkg := { s.clkg with monOk := setBit s.clkg.monOk 5 true }, queues := t.queues }) ∧
  (∀ s : State,
    (∃ t, exec (.mgtCsAbort .early) s = .next t ∧ hush t = hush { s with mgt := { s.mgt with aborts := satAdd 32 s.mgt.aborts 1, resp := [] }, pages := raised s pgMgt 0x2 }) ∧
    (∀ a : MgtAbort, ∃ t, exec (.mgtCsAbort a) s = .next t ∧ t.mgt.resp = [] ∧ (hdr t pgMgt).evtRaw.getLsbD 1 = true)) ∧
  (∀ (s : State) (i : Iface), reaches i pgMgt s →
    (s.mgt.mbxBusy = true → ∃ t, exec (.mbxGo i) s = .next t ∧
      seen i t = seen i { s with pages := vUpd s.pages pgMgt fun h => { h with key := none, errStat := setBit h.errStat 2 true, errOff := 0x0C0, errIface := i } }) ∧
    (s.mgt.mbxBusy = false → (mbxDescOf s).flags.getLsbD 1 = false →
      let d := mbxDescOf s
      let go := fun (g : CmdStage) => ∃ t, exec (.mbxGo i) s = .next t ∧
        seen i t = seen i { cancelKey pgMgt s with mgt := { s.mgt with mbxBusy := true }, pcie := { s.pcie with cmds := s.pcie.cmds ++ [{ id := { src := .mbx, cid := d.cid }, desc := d, stage := g }] } }
      (∀ k : Nat, descCheck d = some k → go (.decided { result := BitVec.ofNat 8 k })) ∧
      (descCheck d = none → movesData d = true → 2048 < d.hostAddr.toNat + d.length.toNat → go (.decided { result := 0x0D })) ∧
      (descCheck d = none → movesData d = false ∨ d.hostAddr.toNat + d.length.toNat ≤ 2048 → go .fetched)) ∧
    (∃ t, exec (.mgtCntClr i) s = .next t ∧
      seen i t = seen i { cancelKey pgMgt s with mgt := { s.mgt with frames := 0, crcErrs := 0, aborts := 0 }, uart := { s.uart with drop := 0 } }))) ∧
  ((∀ (s : State) (i : Iface), reaches i pgSys s →
    (∀ (k : Nat) (b : EpochBuf), s.ep.latest = some k → vGet s.ep.bufs k none = some b →
      ∃ t, exec (.epochOpen i) s = .next t ∧ answered i b.epoch s t ∧
        seen i t = seen i { cancelKey pgSys s with ep := { s.ep with pins := vSet s.ep.pins (ifaceNo i) (some k) } }) ∧
    (s.ep.latest = none → ∃ t, exec (.epochOpen i) s = .next t ∧ answered i 0 s t ∧ seen i t = seen i (cancelKey pgSys s)) ∧
    (∀ v : Word32, ∃ t, exec (.epochClose i v) s = .next t ∧ seen i t = seen i { cancelKey pgSys s with ep := { s.ep with pins := vSet s.ep.pins (ifaceNo i) none } })) ∧
  (∀ (s : State) (i : Iface) (k : Fin 16), reaches i (0x30 + k.val) s → (hdr s 0x30).injCount = 0 →
    let reads := fun (reg : BitVec 10) (v : Word32) => ∃ t, exec (.epochWindowRead i k reg) s = .next t ∧ answered i v s t ∧ seen i t = seen i (cancelKey (0x30 + k.val) s)
    (pinnedBuf s i = none → ∀ reg : BitVec 10, 0x014 ≤ reg.toNat → reads reg 0) ∧
    (∀ b : EpochBuf, pinnedBuf s i = some b →
      (k.val = 0 → reads 0x010 b.epoch ∧ reads 0x013 b.crc ∧ (∀ reg : BitVec 10, 0x040 ≤ reg.toNat → reg.toNat ≤ 0x2F3 → reads reg (wordAt b.body (4 * reg.toNat - 0x100)))) ∧
      (1 ≤ k.val → k.val ≤ 8 → ∀ reg : BitVec 10, 0x010 ≤ reg.toNat → reg.toNat ≤ 0x021 → reads reg (wordAt (lGet b.frames (k.val - 1) []) (4 * reg.toNat - 0x040))))) ∧
  (∀ s : State,
    let sel := fun (ir : TapIr) => { s with dbg := { s.dbg with ir := ir, pinsScan := ir == .extest || ir == .clamp, pinsHighz := ir == .highz } }
    (s.sys.mode ≠ .run → s.ast.bscanBad = false →
      (∃ t, exec (.tapExtest none) s = .next t ∧ t = sel .extest) ∧
      (∀ l : List Bool, ∃ t, exec (.tapExtest (some l)) s = .next t ∧ t = { sel .extest with dbg := { (sel .extest).dbg with boundary := l } }) ∧
      (∃ t, exec .tapClamp s = .next t ∧ t = sel .clamp) ∧ (∃ t, exec .tapHighz s = .next t ∧ t = sel .highz)) ∧
    (s.sys.mode = .run ∨ s.ast.bscanBad = true →
      (∀ l : Option (List Bool), ∃ t, exec (.tapExtest l) s = .next t ∧ t = sel .bypass) ∧ (∃ t, exec .tapClamp s = .next t ∧ t = sel .bypass) ∧ (∃ t, exec .tapHighz s = .next t ∧ t = sel .bypass)) ∧
    (∀ l : List Bool, ∃ t, exec (.tapSamplePreload l) s = .next t ∧ t = { sel .samplePreload with dbg := { (sel .samplePreload).dbg with boundary := l } }) ∧
    (∃ t, exec .tapIdcode s = .next t ∧ t = sel .idcode) ∧ (∃ t, exec .tapBypass s = .next t ∧ t = sel .bypass) ∧
    (∃ t, exec .tapReset s = .next t ∧ t = { sel .idcode with ep := { s.ep with pins := vSet s.ep.pins 2 none } })) ∧
  (∀ (s : State) (page : BitVec 8) (reg : BitVec 10),
    let a := BitVec.ofNat 20 (page.toNat * 4096 + 4 * reg.toNat)
    (∀ v : Word32, portOpen .debug s = true → ∃ t, exec (.regAccessWrite a v false) s = .next t ∧ exec (.registerWrite .debug page reg v true) s = .next t ∧ t.dbg.addr = a) ∧
    (∀ (mask : BitVec 12) (count : BitVec 4), reg = 7 → portOpen .debug s = true →
      ∃ t, exec (.regAccessKeyedWrite a (fld 16 12 mask.toNat ||| fld 0 4 count.toNat) false) s = .next t ∧ exec (.errInjWrite .debug page mask count) s = .next t ∧ t.dbg.addr = a) ∧
    (reg = 0 → reaches .debug page.toNat s →
      ∃ t, exec (.regAccessRead a false) s = .next t ∧ t.dbg = { s.dbg with ir := .regAccess, pinsScan := false, pinsHighz := false, addr := a, error := false, data := pageId s.variant page.toNat } ∧
        t = { cancelKey page.toNat s with dbg := t.dbg, arb := t.arb }) ∧
    (∀ (v : Word32) (early : Bool), early = true ∨ portOpen .debug s = false →
      let refused := { s with dbg := { s.dbg with ir := .regAccess, pinsScan := false, pinsHighz := false, error := true } }
      (∃ t, exec (.regAccessRead a early) s = .next t ∧ t = refused) ∧ (∃ t, exec (.regAccessWrite a v early) s = .next t ∧ t = refused) ∧
      (∃ t, exec (.regAccessKeyedWrite a v early) s = .next t ∧ t = refused))) ∧
  (∀ (s : State) (n sent : Nat), s.sys.phase ≠ 0 →
    (s.uart.queued - sent + n ≤ 512 → ∃ t, exec (.uartLine n sent) s = .next t ∧ t = { s with uart := { s.uart with queued := s.uart.queued - sent + n } }) ∧
    (512 < s.uart.queued - sent + n → ∃ t, exec (.uartLine n sent) s = .next t ∧ t = { s with uart := { queued := s.uart.queued - sent, drop := satAdd 32 s.uart.drop 1 } })))

/-! ## The fault collector and the check units -/

/-- FAULT_REPORT, FAULT_CHIP_RESET, ERRN_RELEASE (R367, R372, R375 to R383): a report is counted, judged and recorded with its class; a contained or fatal event makes its source pending, a fatal one also drives ERR_N, trips and is kept as the first; the events of one cycle stand by class and then by number; the chip reset a fault asked for follows sealing and parking; ERR_N rises once nothing holds it. -/
def Obligations.FaultsAreJudgedAndRecorded : Prop :=
  (∀ (s : State) (r : Report), (srcDef s.variant r.src).isSome = true →
    let x := srcOf s r.src
    let c := countEvents r.k (now s) x
    let cls := if escalates r.src c.1 then 3 else effClass c.1
    ∃ t e, exec (.faultReport 0 [r]) s = .next t ∧ t.fcr.hist = (e :: s.fcr.hist).take 32 ∧ t.fcr.total = s.fcr.total + 1 ∧
      e.src = r.src ∧ e.cls = cls ∧ e.time = now s ∧ e.epoch = s.sys.epoch ∧ e.synd = r.synd ∧ e.promoted = c.2 ∧ e.escalated = escalates r.src c.1 ∧ e.injected = r.injected ∧
      e.coincident = false ∧ e.seq = s.fcr.total + 1 ∧ e.react = reactOf c.1 r.src cls ∧
      (srcOf t r.src).cnt = satAdd 32 x.cnt r.k ∧ (srcOf t r.src).promo = c.1.promo ∧ (srcOf t r.src).pending = (if 2 ≤ cls then max x.pending cls else x.pending) ∧
      (∀ n, n ≠ r.src → srcOf t n = srcOf s n) ∧
      (cls = 3 → t.fcr.errn = true ∧ tripped 0x13 t ∧ (fatalPend s = false → t.fcr.ff = some e)) ∧ (cls ≠ 3 → t.fcr.ff = s.fcr.ff)) ∧
  (∀ (s : State) (r : Report), srcDef s.variant r.src = none → exec (.faultReport 0 [r]) s = .next s) ∧
  (∀ (t : Nat) (rs : List Report) (s : State), (judgeAll t rs s).1.Pairwise fun a b => b.cls < a.cls ∨ (a.cls = b.cls ∧ a.r.src ≤ b.r.src)) ∧
  (∀ (s : State) (n at_ : Nat) (atLimit : Bool), s.rst.chip = some (.fault n, at_) → s.pwr.pfSet &&& 0x2F = 0 →
    (s.jrn.st = .sealed ∧ s.sto.parked = true) ∨ (atLimit = true ∧ at_ + 3 * tbMs ≤ now s) →
    ∃ t, exec (.faultChipReset atLimit) s = .next t ∧ t.sys.mode = .starting ∧ t.sys.phase = 0 ∧ t.rst.causeCode = 3 ∧ t.rst.causeSource = BitVec.ofNat 9 n ∧ t.rst.chip = none ∧
      outputsOff t ∧ t.ilkl.trip = false ∧ t.sto.mem = s.sto.mem ∧ t.tch.rows = s.tch.rows ∧ t.lmn = { s.lmn with aligned := false } ∧ t.pending = s.pending) ∧
  (∀ (s : State) (atLimit : Bool), (∀ n at_, s.rst.chip ≠ some (.fault n, at_)) → exec (.faultChipReset atLimit) s = .next s) ∧
  (∀ s : State, s.fcr.errn = true → errnHeld s = false → s.fcr.errnSince + tbMs ≤ now s →
    ∃ t, exec .errnRelease s = .next t ∧ t = { s with fcr := { s.fcr with errn := false } }) ∧
  (∀ s : State, s.fcr.errn = false ∨ errnHeld s = true ∨ now s < s.fcr.errnSince + tbMs → exec .errnRelease s = .next s)

/-- ERRN_TEST, ACK, ACK_ALL, PROMO_CLR, PROMO_CLR_ALL, SRC_CFG_WRITE, ERR_INJ_WRITE, HQ_SEL, FCR_CNT_CLR (R377, R381, R382, R385, R387, R397): each changes its registers in the modes that allow it, for every source, and is recorded in ERR_STAT with nothing changed elsewhere.

CRC_START, CRC_DONE, CRC_PERIODIC_CHECK (R386): a unit starts and computes CRC-32C over the words of the store it names, and a comparison that fails raises its event and its source; units 0 and 1 are the firmware's, which checks the copies in force while it runs. -/
def Obligations.CollectorRegistersAndCheckUnits : Prop :=
  ((∀ (s : State) (i : Iface), reaches i pgFcr s →
    let refused := fun (k off : Nat) => { s with pages := vUpd s.pages pgFcr fun h => { h with key := none, errStat := setBit h.errStat k true, errOff := BitVec.ofNat 12 off, errIface := i } }
    (s.sys.mode ≠ .run → ∃ t, exec (.errnTest i) s = .next t ∧
      seen i t = seen i { cancelKey pgFcr s with fcr := { s.fcr with errn := true, errnSince := if s.fcr.errn then s.fcr.errnSince else now s, errnHold := max s.fcr.errnHold (now s + tbMs) } }) ∧
    (s.sys.mode = .run → ∃ t, exec (.errnTest i) s = .next t ∧ seen i t = seen i (refused 1 0x008)) ∧
    (∀ src : BitVec 9, ∃ t, exec (.ack i src) s = .next t ∧
      (∀ n, srcOf t n = if n = src.toNat ∧ ¬(n = 0x057 ∧ s.sys.mode = .run) then { srcOf s n with pending := 0 } else srcOf s n) ∧
      seen i t = seen i { cancelKey pgFcr s with fcr := { s.fcr with ackSource := src, srcs := t.fcr.srcs } }) ∧
    (∀ src : BitVec 9, ∃ t, exec (.ackAll i src) s = .next t ∧
      (∀ n, srcOf t n = if n = 0x057 ∧ s.sys.mode = .run then srcOf s n else { srcOf s n with pending := 0 }) ∧
      seen i t = seen i { cancelKey pgFcr s with fcr := { s.fcr with ackSource := src, srcs := t.fcr.srcs } }) ∧
    (∀ src : BitVec 9, s.sys.mode ≠ .run →
      (∃ t, exec (.promoClr i src) s = .next t ∧ (∀ n, srcOf t n = if n = src.toNat then { srcOf s n with promo := 0, c := 0 } else srcOf s n) ∧
        seen i t = seen i { cancelKey pgFcr s with fcr := { s.fcr with promoSource := src, srcs := t.fcr.srcs } }) ∧
      (∃ t, exec (.promoClrAll i src) s = .next t ∧ (∀ n, srcOf t n = { srcOf s n with promo := 0, c := 0 }) ∧
        seen i t = seen i { cancelKey pgFcr s with fcr := { s.fcr with promoSource := src, srcs := t.fcr.srcs } })) ∧
    (∀ src : BitVec 9, s.sys.mode = .run →
      (∃ t, exec (.promoClr i src) s = .next t ∧ seen i t = seen i (refused 1 0x054)) ∧ (∃ t, exec (.promoClrAll i src) s = .next t ∧ seen i t = seen i (refused 1 0x054))) ∧
    (∀ v : Word32,
      (notRunMode s.sys.mode = true → srcCfgOk s.variant s.fcr.srcSel.toNat v = true →
        ∃ t, exec (.srcCfgWrite i v) s = .next t ∧
          (∀ n, srcOf t n = if n = s.fcr.srcSel.toNat then { srcOf s n with n := bits v 24 8, w := bits v 8 16, errn := bitOf v 6, cls := bits v 4 2, react := BitVec.ofNat 4 (bits v 0 4) } else srcOf s n) ∧
          seen i t = seen i { cancelKey pgFcr s with fcr := { s.fcr with srcs := t.fcr.srcs } }) ∧
      (notRunMode s.sys.mode = true → srcCfgOk s.variant s.fcr.srcSel.toNat v = false → ∃ t, exec (.srcCfgWrite i v) s = .next t ∧ seen i t = seen i (refused 2 0x044)) ∧
      (notRunMode s.sys.mode = false → ∃ t, exec (.srcCfgWrite i v) s = .next t ∧ seen i t = seen i (refused 1 0x044))) ∧
    (∀ age : BitVec 5, (hdr s pgFcr).injCount = 0 → ∃ t, exec (.hqSel i age) s = .next t ∧
      seen i t = seen i { cancelKey pgFcr s with fcr := { s.fcr with hqSel := age, hqUnc := false, hqData := match s.fcr.hist[age.toNat]? with | some e => histBytes e | none => zeros 32 } }) ∧
    (∃ t, exec (.fcrCntClr i) s = .next t ∧ (∀ n, srcOf t n = { srcOf s n with cnt := 0 }) ∧ seen i t = seen i { cancelKey pgFcr s with fcr := { s.fcr with srcs := t.fcr.srcs } })) ∧
  (∀ (s : State) (i : Iface) (page : BitVec 8) (mask : BitVec 12) (count : BitVec 4), reaches i page.toNat s → pageKind s.variant page.toNat ≠ .ep →
    let put := fun (f : PageHdr → PageHdr) => ∃ t, exec (.errInjWrite i page mask count) s = .next t ∧ seen i t = seen i { s with pages := vUpd s.pages page.toNat f }
    (injectable (pageKind s.variant page.toNat) page.toNat = true → notRunMode s.sys.mode = true → put fun h => { h with key := none, injMask := mask, injCount := count }) ∧
    (injectable (pageKind s.variant page.toNat) page.toNat = true → notRunMode s.sys.mode = false →
      put fun h => { h with key := none, errStat := setBit h.errStat 1 true, errOff := 0x01C, errIface := i }) ∧
    (injectable (pageKind s.variant page.toNat) page.toNat = false →
      put fun h => { h with key := none, errStat := setBit h.errStat 2 true, errOff := 0x01C, errIface := i }))) ∧
  ((∀ (s : State) (i : Iface) (n : Fin 4) (cmpEn : Bool), reaches i (pgCrc n.val) s →
    let refused := fun (k : Nat) => { s with pages := vUpd s.pages (pgCrc n.val) fun h => { h with key := none, errStat := setBit h.errStat k true, errOff := 0x008, errIface := i } }
    (2 ≤ n.val → (crcOf s n.val).busy = false → ∃ t, exec (.crcStart i n cmpEn) s = .next t ∧
      seen i t = seen i { cancelKey (pgCrc n.val) s with crc := vUpd s.crc n.val fun u => { u with cmpEn := cmpEn, busy := true, done := false, isMatch := false, err := 0 } } ∧
      ∀ fs, ∃ u, exec (.crcDone n.val fs) t = .next u ∧ (crcOf u n.val).busy = false) ∧
    (2 ≤ n.val → (crcOf s n.val).busy = true → ∃ t, exec (.crcStart i n cmpEn) s = .next t ∧ seen i t = seen i (refused 2)) ∧
    (n.val < 2 → ∃ t, exec (.crcStart i n cmpEn) s = .next t ∧ seen i t = seen i (refused 3))) ∧
  (∀ (s : State) (n : Nat), n < 4 → (crcOf s n).busy = true → (crcOf s n).addr.toNat % 16 = 0 → s.sto.parked = false → s.sto.dead = 0 → s.sto.poison = [] → (hdr s pgSto).injCount = 0 →
    (hdr s (pgCrc n)).injCount = 0 → (∀ k, k < (crcOf s n).length.toNat / 16 → ∃ p, partOf s.sto (((crcOf s n).addr.toNat + 16 * k) / 65536) = some p ∧ p.typ ≠ 3) →
    let c := crc32c (peekLog (crcOf s n).addr.toNat ((crcOf s n).length.toNat / 16 * 16) s)
    let bad := (crcOf s n).cmpEn && c != (crcOf s n).expect
    ∃ t, exec (.crcDone n []) s = .next t ∧ crcOf t n = { crcOf s n with busy := false, done := true, result := c, isMatch := c == (crcOf s n).expect } ∧
      (∀ k, k ≠ n → crcOf t k = crcOf s k) ∧
      hush t = hush { s with crc := t.crc, pages := raised s (pgCrc n) (if bad then 0x3 else 0x1), fcr := if bad then told s (0x050 + n) 0 0 (pgCrc n) else s.fcr }) ∧
  (∀ (s : State) (n : Nat) (fs : List (Nat × WordCheck)), 4 ≤ n ∨ (crcOf s n).busy = false → exec (.crcDone n fs) s = .next s) ∧
  (∀ (s : State) (k len : Nat) (v : Word32), s.dhd.frozen = false → s.dhd.halted = false → s.dhd.stopped = false → s.ilkl.active = some k → smGet s.crcRef k = some (len, v) → (crcOf s 0).busy = false →
    ∃ t, exec .crcPeriodicCheck s = .next t ∧
      crcOf t 0 = { crcOf s 0 with cmpEn := true, addr := BitVec.ofNat 30 (cfgAddr (4 * k)), length := BitVec.ofNat 30 len, expect := v, busy := true, done := false, isMatch := false, err := 0 } ∧
      (∀ n, 2 ≤ n → crcOf t n = crcOf s n) ∧ t = { s with crc := t.crc }) ∧
  (∀ s : State, s.dhd.frozen = true ∨ s.dhd.halted = true ∨ s.dhd.stopped = true → exec .crcPeriodicCheck s = .next s))

/-! ## Assay -/

/-- ASSAY_RETRY, ASSAY_LIMIT_LOST, REF_TEST_SLOT, MONITOR_TEST_SLOT, PIN_TEST_SLOT, SOT_TEST_SLOT, STORE_SEGMENT, AST_CNT_CLR (R389, R395 to R405): a test that cannot begin is retried and then skipped; a slot begins the test of its unit on a free tile; a failure has the outcome of its group; a store segment that passes leaves the array as it was. -/
def Obligations.AssayTestsBeginAndAreJudged : Prop :=
  (∀ (s : State) (test : Nat), s.sys.phase = 2 → 1 ≤ test → test ≤ 16 → (vGet s.ast.results (test - 1) {}).result ≠ 3 →
    let ms := match s.ast.retry with | some (k, n) => if k = test then n else 0 | none => 0
    (ms < 20 → s.ast.retryMs < 150 → ∃ t, exec (.assayRetry test) s = .next t ∧ t = { s with ast := { s.ast with retry := some (test, ms + 1), retryMs := s.ast.retryMs + 1 } }) ∧
    (20 ≤ ms ∨ 150 ≤ s.ast.retryMs →
      ∃ t, exec (.assayRetry test) s = .next t ∧ (vGet t.ast.results (test - 1) {}).result = 3 ∧ t.ast.skips = satAdd 32 s.ast.skips 1 ∧ t.ast.retry = none ∧
        t.ast.runBlock = (s.ast.runBlock || groupA test .whole) ∧ t.fcr = told s 0x056 0 0 pgAst ∧ hush t = hush { s with ast := t.ast, fcr := t.fcr, pages := raised s pgAst 0x8 }) ∧
    (∀ x : AssayItem, ∃ t, exec (.assayLimitLost test x) s = .next t ∧ (vGet t.ast.results (test - 1) {}).result = 3 ∧ t.ast.skips = satAdd 32 s.ast.skips 1 ∧
        t.ast.runBlock = (s.ast.runBlock || groupA test .whole) ∧ t.fcr = told s 0x056 0 0 pgAst ∧ hush t = hush { s with ast := t.ast, fcr := t.fcr, pages := raised s pgAst 0x8 })) ∧
  (∀ (s : State) (test : Nat), s.sys.phase ≠ 2 → exec (.assayRetry test) s = .next s) ∧
  (∀ (s : State) (test p : Nat) (k : PinTest), periodicOn s = true → vGet s.ast.tests p none = some k →
    ∃ t, exec (.assayLimitLost test (.tile p)) s = .next t ∧ vGet t.ast.tests p none = none ∧ vGet t.ast.tile p none = none ∧ t.ast.skips = satAdd 32 s.ast.skips 1 ∧
      (hdr t pgAst).evtRaw.getLsbD 3 = true ∧ t.links = s.links ∧ t.ilkl = s.ilkl ∧ t.sto = s.sto) ∧
  (∀ (s : State), periodicOk s = true →
    (exec (.refTestSlot none true) s = .next s) ∧
    (∃ t, exec (.refTestSlot none false) s = .next t ∧ t.ast.runBlock = true ∧ t.ast.failInfo = some (s.ast.failInfo.getD (11, 0)) ∧ (hdr t pgAst).evtRaw.getLsbD 1 = true ∧
      (∃ r ∈ t.fcr.inbox, r.src = 0x057) ∧ hush t = hush { s with ast := t.ast, pages := t.pages, fcr := t.fcr }) ∧
    (∀ (p : Fin 8) (c : Chan) (pass : Bool), tileReachable s p.val = true → vGet s.ast.tests p.val none = none →
      ∃ t, exec (.refTestSlot (some (p, c)) pass) s = .next t ∧
        t = { s with ast := { s.ast with tests := vSet s.ast.tests p.val (some { op := 4, pin := 0, path := c, typ := 0, seq := s.ast.seq }), seq := s.ast.seq + 1, test := 11 }, arb := t.arb }) ∧
    (∀ (p : Fin 2) (c : Chan), tileReachable s (6 + p.val) = true → vGet s.ast.tests (6 + p.val) none = none →
      ∃ t, exec (.sotTestSlot p c) s = .next t ∧
        t = { s with ast := { s.ast with tests := vSet s.ast.tests (6 + p.val) (some { op := 3, pin := 0, path := c, typ := 0, seq := s.ast.seq }), seq := s.ast.seq + 1, test := 15 }, arb := t.arb }) ∧
    (∀ (p : Fin 6) (u : Nat), tileReachable s p.val = true → vGet s.ast.tests p.val none = none → nextUnit s p.val (vGet s.ast.unit p.val 0) = some u →
      let n := if u < 32 then u / 2 else u - 32
      ∃ t, exec (.pinTestSlot p) s = .next t ∧ vGet t.ast.unit p.val 0 = (u + 1) % 48 ∧ t = { s with ast := t.ast, arb := t.arb } ∧
        (inSlot s (16 * p.val + n) = true → t.ast.tests = s.ast.tests) ∧
        (inSlot s (16 * p.val + n) = false → ∃ k, vGet t.ast.tests p.val none = some k ∧ k.op = (if u < 32 then 1 else 2) ∧ k.pin = n ∧ k.seq = s.ast.seq ∧
          k.path = (if u < 32 ∧ u % 2 = 1 then .b else .a) ∧ t.ast.seq = s.ast.seq + 1)) ∧
    (∀ x : AssayItem, exec (.monitorTestSlot x true) s = .next s) ∧
    (∃ t, exec (.monitorTestSlot .rail false) s = .next t ∧ t.ast.runBlock = true ∧ (∃ r ∈ t.fcr.inbox, r.src = 0x057) ∧ hush t = hush { s with ast := t.ast, pages := t.pages, fcr := t.fcr }) ∧
    (∃ t, exec (.monitorTestSlot .hold false) s = .next t ∧ t.pwr.holdUntrusted = true ∧ t.jrn.k = 0 ∧ t.ast.runBlock = s.ast.runBlock ∧ ∃ r ∈ t.fcr.inbox, r.src = 0x054) ∧
    (∀ b : Bool, ∃ t, exec (.monitorTestSlot (.feed b) false) s = .next t ∧ (if b then t.pwr.untrustedB else t.pwr.untrustedA) = true ∧ t.ast.runBlock = s.ast.runBlock ∧ ∃ r ∈ t.fcr.inbox, r.src = 0x054)) ∧
  (∀ s : State, periodicOk s = false →
    (∀ x pass, exec (.refTestSlot x pass) s = .next s) ∧ (∀ x pass, exec (.monitorTestSlot x pass) s = .next s) ∧ (∀ p, exec (.pinTestSlot p) s = .next s) ∧ (∀ p c, exec (.sotTestSlot p c) s = .next s) ∧
    (∀ b aborted pass ws, exec (.storeSegment b aborted pass ws) s = .next s)) ∧
  (∀ (s : State) (b : Fin 32), periodicOk s = true → s.ast.stoEn = true → s.boot.lock = false → s.clkg.monOk.getLsbD 2 = true → s.sto.mapOk = true → s.sto.parking = false → s.sto.parked = false →
    s.sto.dead.getLsbD b.val = false → s.ast.storeBad = false → (hdr s pgAst).injCount = 0 → cellIsolated s pgAst 0 = false →
    (∀ pass : Bool, ∃ t, exec (.storeSegment b true pass []) s = .next t ∧ t = { s with arb := t.arb }) ∧
    (∃ t, exec (.storeSegment b false true []) s = .next t ∧
      vGet t.ast.segs b.val 0 = (if bankSegments s.variant ≤ vGet s.ast.segs b.val 0 + 1 then 0 else vGet s.ast.segs b.val 0 + 1) ∧ hush t = hush { s with ast := t.ast, pages := t.pages, arb := t.arb }) ∧
    (∃ t, exec (.storeSegment b false false []) s = .next t ∧ t.sto.bankIso.getLsbD b.val = true ∧ t.sto.mem = s.sto.mem ∧ (∃ r ∈ t.fcr.inbox, r.src = 0x054) ∧
      (vGet s.sto.spare (dieOf b.val) none = none → vGet t.sto.migr (dieOf b.val) none = some b.val ∧ vGet t.sto.spare (dieOf b.val) none = some b.val))) ∧
  (∀ (s : State) (i : Iface), reaches i pgAst s →
    ∃ t, exec (.astCntClr i) s = .next t ∧ seen i t = seen i { cancelKey pgAst s with ast := { s.ast with abortTotal := 0, skips := 0 } })

/-- ASSAY_ORDERED_SET, ASSAY_RESULT, PIN_TEST_ABORT (R399 to R402, Table AST-4): a tile takes a test whose ordered set is good, refuses one it cannot run, and answers until it is acknowledged; a failing pin is marked unusable; a demand aborts the pin's test, counts it, and every sixteenth abort is reported. -/
def Obligations.TilesRunAndAnswerTests : Prop :=
  (∀ (s : State) (p : Fin 8) (k : PinTest), vGet s.ast.tests p.val none = some k →
    (exec (.assayOrderedSet p .corrupt) s = .next s ∧ exec (.assayOrderedSet p .lost) s = .next s) ∧
    (k.op ≠ 5 → vGet s.ast.tile p.val none = none →
      ∃ t x, exec (.assayOrderedSet p .good) s = .next t ∧ vGet t.ast.tile p.val none = some x ∧ x.op = k.op ∧ x.pin = k.pin ∧ x.path = k.path ∧ x.typ = k.typ ∧ x.seq = k.seq ∧
        x.result = (if (sideOf s p.val k.path).supply = .qualifying ∨ needMet s p.val k.op k.path = false then 4 else 0) ∧
        vGet t.ast.tests p.val none = some { k with started := x.result == 0 } ∧ t = { s with ast := { s.ast with tile := t.ast.tile, tests := t.ast.tests } }) ∧
    (k.op = 5 → ∃ t, exec (.assayOrderedSet p .good) s = .next t ∧ vGet t.ast.tile p.val none = none ∧ vGet t.ast.tests p.val none = none ∧
      t = { s with ast := { s.ast with tile := t.ast.tile, tests := t.ast.tests } }) ∧
    (k.op ≠ 5 → ∀ x : TileTest, vGet s.ast.tile p.val none = some x → x.result = 0 → exec (.assayOrderedSet p .good) s = .next s)) ∧
  (∀ (s : State) (p : Fin 8) (rx : Rx), vGet s.ast.tests p.val none = none → exec (.assayOrderedSet p rx) s = .next s) ∧
  (∀ (s : State) (p : Fin 8) (ended : Option (Bool × Nat)) (rx : Rx), vGet s.ast.tile p.val none = none → exec (.assayResult p ended rx) s = .next s) ∧
  (∀ (s : State) (p : Fin 8) (x : TileTest) (k : PinTest), vGet s.ast.tile p.val none = some x → x.result = 0 → vGet s.ast.tests p.val none = some k → k.op ≠ 5 → k.seq = x.seq →
    (∀ rx : Rx, ∃ t, exec (.assayResult p none rx) s = .next t ∧ t = s) ∧
    (∃ t, exec (.assayResult p (some (true, 0)) .good) s = .next t ∧ vGet t.ast.tile p.val none = some { x with result := 1, step := 0 } ∧
      vGet t.ast.tests p.val none = some { k with op := 5 } ∧ t.ast.unusable = s.ast.unusable ∧ t.ast.runBlock = s.ast.runBlock ∧ t.fcr = s.fcr) ∧
    (∀ ok step, ∃ t, exec (.assayResult p (some (ok, step)) .lost) s = .next t ∧
      vGet t.ast.tile p.val none = some { x with result := if ok then 1 else 2, step := if ok then 0 else step } ∧ t.ast.tests = s.ast.tests) ∧
    (∀ step, k.op = 1 → k.pin < 16 → p.val < 6 → tilePresent s.variant p.val = true →
      ∃ t, exec (.assayResult p (some (false, step)) .good) s = .next t ∧ t.ast.unusable.getLsbD (16 * p.val + k.pin) = true ∧
        (∀ n, n ≠ 16 * p.val + k.pin → t.ast.unusable.getLsbD n = s.ast.unusable.getLsbD n) ∧ (∃ r ∈ t.fcr.inbox, r.src = 0x140 + (16 * p.val + k.pin)) ∧ t.ast.runBlock = s.ast.runBlock)) ∧
  (∀ (s : State) (p : Fin 6) (pin : Fin 16) (x : TileTest), vGet s.ast.tile p.val none = some x → x.result = 0 → x.op = 1 ∨ x.op = 2 → x.pin = pin.val →
    ∃ t, exec (.pinTestAbort p pin) s = .next t ∧ vGet t.ast.tile p.val none = some { x with result := 3 } ∧ t.ast.abortTotal = satAdd 16 s.ast.abortTotal 1 ∧ t.ast.tests = s.ast.tests ∧
      (smGetD s.ast.aborts (16 * p.val + pin.val) 0 + 1 < 16 → smGetD t.ast.aborts (16 * p.val + pin.val) 0 = smGetD s.ast.aborts (16 * p.val + pin.val) 0 + 1 ∧ t.fcr = s.fcr) ∧
      (16 ≤ smGetD s.ast.aborts (16 * p.val + pin.val) 0 + 1 → t.fcr = told s 0x055 0 (16 * p.val + pin.val) pgAst ∧ (hdr t pgAst).evtRaw.getLsbD 4 = true) ∧
      t.ilkl = s.ilkl ∧ t.links = s.links) ∧
  (∀ (s : State) (p : Fin 6) (pin : Fin 16), vGet s.ast.tile p.val none = none → exec (.pinTestAbort p pin) s = .next s)

/-! ## Touchmark, Hallmark and Lengthman -/

/-- TCH_READ, PROG, OVERRIDE, CLEAR_OVR, TCH_CNT_CLR (R413, R420, R421, R424, Tables TCH-6, TCH-7 and TCH-10): a read gives the row's value or its raw bits and never an identity row; a programming that passes the checks runs, and the first check that fails names its code; an override stands in the shadow of its row alone; while a command runs every other ends BUSY. -/
def Obligations.TouchmarkCommands : Prop :=
  (∀ (s : State) (i : Iface), reaches i pgTch s → s.tch.run = none →
    let ended := fun (t : State) (code : Nat) (x : Tch) => seen i t = seen i { cancelKey pgTch s with
      tch := { x with cmd := t.tch.cmd, result := code }, pages := raised (cancelKey pgTch s) pgTch (if code < 0x10 then 0x1 else 0x2) }
    (∀ (margin : BitVec 2) (row : BitVec 10),
      (543 < row.toNat ∨ margin = 3 → ∃ t, exec (.tchRead i margin row) s = .next t ∧ ended t 0x11 s.tch) ∧
      (margin ≠ 3 → 48 ≤ row.toNat → row.toNat ≤ 63 → ∃ t, exec (.tchRead i margin row) s = .next t ∧ ended t 0x18 { s.tch with rdData := 0, rdStat := 0 }) ∧
      (row.toNat < 48 ∨ 63 < row.toNat →
        (margin = 0 → row.toNat < 512 →
          let w := (fuseAt s (servingRow s row.toNat)).n
          ∃ t, exec (.tchRead i margin row) s = .next t ∧
            ended t 0 { s.tch with rdData := if w = 0 then 0 else ((wordDecode w row.toNat).map Prod.fst).getD (w.setWidth 128),
                                   rdStat := rdStatWord w (rdState w row.toNat) (shadowOf s row.toNat).spare }) ∧
        (margin = 1 ∨ margin = 2 → row.toNat < 512 →
          let w := if margin = 1 then (fuseAt s row.toNat).l else (fuseAt s row.toNat).h
          ∃ t, exec (.tchRead i margin row) s = .next t ∧
            ended t 0 { s.tch with rdData := w.setWidth 128, rdStat := rdStatWord w (rdState w row.toNat) none }) ∧
        (margin ≠ 3 → 512 ≤ row.toNat → row.toNat ≤ 543 →
          let f := fuseAt s row.toNat
          let w := if margin = 0 then f.n else if margin = 1 then f.l else f.h
          ∃ t st, exec (.tchRead i margin row) s = .next t ∧ t.tch.result = 0 ∧ t.tch.rdData = w.setWidth 128 ∧ t.tch.rdStat = rdStatWord w st none ∧ (w = 0 → st = 0) ∧
            t.tch.rows = s.tch.rows ∧ t.tch.shadow = s.tch.shadow ∧ (hdr t pgTch).evtRaw.getLsbD 0 = true))) ∧
    (∀ (row : BitVec 10) (force : Bool),
      (511 < row.toNat → ∃ t, exec (.prog i row force) s = .next t ∧ ended t 0x11 s.tch) ∧
      (row.toNat ≤ 511 → s.sys.mode ≠ .service → s.sys.mode ≠ .incomplete → ∃ t, exec (.prog i row force) s = .next t ∧ ended t 0x12 s.tch) ∧
      (row.toNat ≤ 511 → s.sys.mode = .service →
        (rowReserved row.toNat = true ∨ (s.tch.flags.getLsbD 0 = true ∧ rowMfg row.toNat = true) → ∃ t, exec (.prog i row force) s = .next t ∧ ended t 0x13 s.tch) ∧
        (rowReserved row.toNat = false → s.tch.flags.getLsbD 0 = false ∨ rowMfg row.toNat = false →
          (rowWritten s row.toNat (wordEncode (tchData s) row.toNat) = true → ∃ t, exec (.prog i row force) s = .next t ∧ ended t 0x14 s.tch) ∧
          (rowWritten s row.toNat (wordEncode (tchData s) row.toNat) = false → row.toNat ≤ 3 → tchData s ≠ flagPattern →
            ∃ t, exec (.prog i row force) s = .next t ∧ ended t 0x15 s.tch))) ∧
      (progChecks row.toNat (tchData s) s = none →
        (row.toNat ≠ 1 ∨ force = true → progWindow s = false → ∃ t, exec (.prog i row force) s = .next t ∧ ended t 0x16 s.tch) ∧
        (row.toNat ≠ 1 ∨ force = true → progWindow s = true →
          ∃ t, exec (.prog i row force) s = .next t ∧ seen i t = seen i { cancelKey pgTch s with
            tch := { s.tch with cmd := t.tch.cmd, run := some { row := row.toNat, data := tchData s, pattern := wordEncode (tchData s) row.toNat } } } ∧
            (fuseAt s row.toNat = {} → s.sys.mode = .service → ∀ spares entries, ∃ u, exec (.progComplete none spares entries) t = .next u ∧
              fuseAt u row.toNat = exactFuse (wordEncode (tchData s) row.toNat) ∧ u.tch.run = none ∧ u.tch.result = 0 ∧
              shadowOf u row.toNat = { shadowOf s row.toNat with st := .good, value := tchData s, ovr := none })) ∧
        (row.toNat = 1 → force = false → (shadowOf s 5).st = .blank →
          ∃ t, exec (.prog i row force) s = .next t ∧ t.tch.result = 0x19 ∧ t.tch.run = none ∧ t.tch.rows = s.tch.rows ∧ t.sys.mode = s.sys.mode))) ∧
    (∀ row : BitVec 10,
      (s.sys.mode ≠ .service → ∃ t, exec (.override i row) s = .next t ∧ ended t 0x12 s.tch) ∧
      (s.sys.mode = .service → 511 < row.toNat → ∃ t, exec (.override i row) s = .next t ∧ ended t 0x11 s.tch) ∧
      (s.sys.mode = .service → row.toNat ≤ 511 →
        (row.toNat < 256 → s.tch.flags.getLsbD 0 = true ∨ row.toNat < 64 ∨ 191 < row.toNat → ∃ t, exec (.override i row) s = .next t ∧ ended t 0x13 s.tch) ∧
        (256 ≤ row.toNat ∨ (s.tch.flags.getLsbD 0 = false ∧ 64 ≤ row.toNat ∧ row.toNat ≤ 191) →
          ((shadowOf s row.toNat).st ≠ .blank ∨ (fuseAt s row.toNat).n ≠ 0 → ∃ t, exec (.override i row) s = .next t ∧ ended t 0x14 s.tch) ∧
          ((shadowOf s row.toNat).st = .blank → (fuseAt s row.toNat).n = 0 →
            ∃ t, exec (.override i row) s = .next t ∧ ended t 0 { s.tch with shadow := t.tch.shadow } ∧
              shadowOf t row.toNat = { shadowOf s row.toNat with ovr := some (tchData s) } ∧ ∀ n, n ≠ row.toNat → shadowOf t n = shadowOf s n))) ∧
      (row.toNat ≠ 0x3FF → 511 < row.toNat → ∃ t, exec (.clearOvr i row) s = .next t ∧ ended t 0x11 s.tch) ∧
      (row.toNat = 0x3FF ∨ row.toNat ≤ 511 →
        ∃ t, exec (.clearOvr i row) s = .next t ∧ ended t 0 { s.tch with shadow := t.tch.shadow } ∧
          ∀ n, shadowOf t n = if row.toNat = 0x3FF ∨ n = row.toNat then { shadowOf s n with ovr := none } else shadowOf s n))) ∧
  (∀ (s : State) (i : Iface) (r : ProgRun), reaches i pgTch s → s.tch.run = some r →
    ∀ c : Instr, (∃ m row, c = .tchRead i m row) ∨ (∃ row f, c = .prog i row f) ∨ (∃ row, c = .override i row) ∨ (∃ row, c = .clearOvr i row) →
      ∃ t, exec c s = .next t ∧ seen i t = seen i { cancelKey pgTch s with tch := { s.tch with cmd := t.tch.cmd, result := 0x17 }, pages := raised (cancelKey pgTch s) pgTch 0x2 }) ∧
  (∀ (s : State) (i : Iface), reaches i pgTch s → ∃ t, exec (.tchCntClr i) s = .next t ∧ seen i t = seen i { cancelKey pgTch s with tch := { s.tch with progFails := 0 } })

/-- PROG_COMPLETE, PROG_WINDOW_LOST, ROW_MOVE (R406, R415, R418, R422, R423): a blown antifuse never clears; a pattern blown whole makes its row GOOD; a window that is lost leaves the row part-programmed; a waiting move takes the lowest free spare row and the lowest BLANK entry. -/
def Obligations.AntifuseRowsOnlyGain : Prop :=
  (∀ (s : State) (c : Instr), (∃ back spares entries, c = .progComplete back spares entries) ∨ (∃ back, c = .progWindowLost back) ∨ (∃ spares entries, c = .rowMove spares entries) →
    ∃ t, exec c s = .next t ∧ ∀ row, (fuseAt t row).n &&& (fuseAt s row).n = (fuseAt s row).n ∧ (fuseAt t row).l &&& (fuseAt s row).l = (fuseAt s row).l ∧
      (fuseAt t row).h &&& (fuseAt s row).h = (fuseAt s row).h) ∧
  (∀ s : State, s.tch.run = none → (∀ back spares entries, exec (.progComplete back spares entries) s = .next s) ∧ ∀ back, exec (.progWindowLost back) s = .next s) ∧
  (∀ (s : State) (r : ProgRun), s.tch.run = some r →
    (∀ spares entries, fuseAt s r.row = {} → s.sys.mode ≠ .incomplete →
      ∃ t, exec (.progComplete none spares entries) s = .next t ∧ fuseAt t r.row = { n := r.pattern, l := r.pattern, h := r.pattern } ∧ (∀ n, n ≠ r.row → fuseAt t n = fuseAt s n) ∧
        shadowOf t r.row = { shadowOf s r.row with st := .good, value := r.data, ovr := none } ∧ (∀ n, n ≠ r.row → shadowOf t n = shadowOf s n) ∧
        hush t = hush { s with tch := { s.tch with run := none, result := 0, rows := t.tch.rows, shadow := t.tch.shadow }, pages := raised s pgTch 0x1 }) ∧
    (∀ f : Fuse, spareMode s r.row = false → blow (fuseAt s r.row) r.pattern f = f → wordDecode f.l r.row = none → ¬(f.l = r.pattern ∧ f.h = r.pattern) →
      ∃ t, exec (.progComplete (some f) [] []) s = .next t ∧ t.tch.result = 0x1A ∧ t.tch.run = none ∧ fuseAt t r.row = f ∧ (shadowOf t r.row).st = .invalid ∧
        t.tch.progFails = satAdd 8 s.tch.progFails 1 ∧ t.fcr = told s 0x05B 0 0 pgTch ∧ (hdr t pgTch).evtRaw.getLsbD 2 = true) ∧
    (∀ back : Fuse, ∃ t, exec (.progWindowLost back) s = .next t ∧ fuseAt t r.row = blow (fuseAt s r.row) r.pattern back ∧ (∀ n, n ≠ r.row → fuseAt t n = fuseAt s n) ∧
      hush t = hush { s with tch := { s.tch with run := none, result := 0x16, rows := t.tch.rows }, pages := raised s pgTch 0x2 })) ∧
  (∀ (s : State) (spares entries : List Fuse), s.tch.moves = [] ∨ s.sys.phase ≠ 15 ∨ progWindow s = false ∨ s.tch.run.isSome = true → exec (.rowMove spares entries) s = .next s) ∧
  (∀ (s : State) (n : Nat) (rest : List Nat) (v : BitVec 128), s.tch.moves = n :: rest → s.sys.phase = 15 → progWindow s = true → s.tch.run = none → rowValue (shadowOf s n) = some v →
    (((List.range 16).filter (spareFree s)) = [] → ∀ spares entries, ∃ t, exec (.rowMove spares entries) s = .next t ∧ t = { s with tch := { s.tch with moves := rest, noSpare := true } }) ∧
    (∀ i e : Nat, ((List.range 16).filter (spareFree s)).head? = some i → (blankEntries s).head? = some e → fuseAt s (512 + i) = {} → fuseAt s (528 + e / 4) = {} →
      ∃ t, exec (.rowMove [] []) s = .next t ∧ t.tch.moves = rest ∧ fuseAt t (512 + i) = exactFuse (wordEncode v n) ∧ entryBits (fuseAt t (528 + e / 4)).n e = entryWord n i ∧
        shadowOf t n = { shadowOf s n with st := .good, value := v, spare := some i } ∧ (∀ k, k ≠ n → shadowOf t k = shadowOf s k) ∧
        hush t = hush { s with tch := { s.tch with moves := rest, rows := t.tch.rows, shadow := t.tch.shadow }, pages := raised s pgTch 0x20 }))

/-- VERIFY_REQUEST, VERIFY_DONE, MEAS_SEL, HMK_CNT_CLR, KEYREC_REPAIR, PATCH_REPAIR (R433, R434, R438, R441, R452, Table HMK-14): one verification runs and the others wait by rank, and none ends while a step of a signature runs; its end counts it, lets the signature that waits go on, or refuses it; a measurement is captured; a copy that lacks a key, or an older patch, is rewritten after P7.

ATTEST, SIGNING_STEP (R433, R449 to R451, Table HMK-13): a report is refused for the first reason that holds, or waits for the engine; the engine captures its fields as it begins it, signs step by step, pauses at the end of a step while a verification is asked for, checks its own signature and writes the report. -/
def Obligations.EngineVerifiesRepairsAndSigns : Prop :=
  ((∀ (s : State) (rank obj copy slot : Nat) (pk msg sig : List Byte),
    let r : VerReq := { rank := rank, obj := obj, copy := copy, slot := slot, pk := pk, msg := msg, sig := sig }
    (s.hmk.cur = none → ∃ t, exec (.verifyRequest rank obj copy slot pk msg sig) s = .next t ∧ t = { s with hmk := { s.hmk with cur := some r }, arb := t.arb } ∧
      ∀ us : Nat, stepRuns s.hmk = false → ∃ u, exec (.verifyDone us) t = .next u ∧ u.hmk.cur = s.hmk.queue.head? ∧ u.hmk.queue = s.hmk.queue.tail ∧ u.hmk.verifyMaxUs = max s.hmk.verifyMaxUs (min us 65535)) ∧
    (s.hmk.cur.isSome = true → ∃ t, exec (.verifyRequest rank obj copy slot pk msg sig) s = .next t ∧ t = { s with hmk := { s.hmk with queue := t.hmk.queue }, arb := t.arb } ∧
      ∃ a b, s.hmk.queue = a ++ b ∧ t.hmk.queue = a ++ r :: b ∧ (∀ x ∈ a, x.rank ≤ rank) ∧ ∀ x, b.head? = some x → rank < x.rank)) ∧
  (∀ (s : State) (us : Nat), s.hmk.cur = none ∨ stepRuns s.hmk = true → exec (.verifyDone us) s = .next s) ∧
  (∀ (s : State) (us : Nat) (r : VerReq) (a : AttRun) (rest : List AttRun), s.hmk.cur = some r → s.hmk.queue = [] → s.hmk.atts = a :: rest →
    (a.body.isSome = true → a.paused = true → ∃ t, exec (.verifyDone us) s = .next t ∧ t.hmk.cur = none ∧ t.hmk.atts = { a with paused := false } :: rest) ∧
    (∀ c : Cmd, a.body = none → cmdOf s a.id = some c → ∃ t, exec (.verifyDone us) s = .next t ∧ t.hmk.cur = none ∧ t.hmk.atts.map (·.id) = s.hmk.atts.map (·.id) ∧ stepRuns t.hmk = !a.paused)) ∧
  (∀ (s : State) (us : Nat) (r : VerReq), s.hmk.cur = some r → stepRuns s.hmk = false → s.hmk.atts = [] ∨ s.hmk.queue ≠ [] → (hdr s pgHmk).injCount = 0 →
    let next := fun (h : Hmk) => { h with cur := s.hmk.queue.head?, queue := s.hmk.queue.tail, verifyMaxUs := max s.hmk.verifyMaxUs (min us 65535) }
    let refused := fun (reason : Nat) (h : Hmk) => { h with reject := some (fld 10 2 r.slot ||| fld 8 2 r.copy ||| fld 4 4 r.obj ||| fld 0 4 reason), rejects := satAdd 32 s.hmk.rejects 1 }
    (s.hmk.katOk = true → Config.slhVerify r.pk r.msg r.sig = true →
      ∃ t, exec (.verifyDone us) s = .next t ∧ t = { s with hmk := next { s.hmk with verifies := satAdd 32 s.hmk.verifies 1 } }) ∧
    (s.hmk.katOk = true → Config.slhVerify r.pk r.msg r.sig = false →
      ∃ t, exec (.verifyDone us) s = .next t ∧ hush t = hush { s with hmk := next (refused 2 { s.hmk with verifies := satAdd 32 s.hmk.verifies 1 }), fcr := told s 0x05D 0 0 pgHmk, pages := raised s pgHmk 0x1 }) ∧
    (s.hmk.katOk = false →
      ∃ t, exec (.verifyDone us) s = .next t ∧ hush t = hush { s with hmk := next (refused 5 s.hmk), fcr := told s 0x05D 0 0 pgHmk, pages := raised s pgHmk 0x1 })) ∧
  (∀ (s : State) (i : Iface), reaches i pgHmk s →
    (∀ index : BitVec 3, ∃ t, exec (.measSel i index) s = .next t ∧ seen i t = seen i { cancelKey pgHmk s with
      hmk := { s.hmk with measSel := index, measData := if index.toNat < 6 then vGet s.hmk.meas index.toNat (zeros 32) else zeros 32 } }) ∧
    (∃ t, exec (.hmkCntClr i) s = .next t ∧ seen i t = seen i { cancelKey pgHmk s with hmk := { s.hmk with verifies := 0, rejects := 0, verifyMaxUs := 0 } })) ∧
  (∀ s : State, s.hmk.keyRepair = [] ∨ s.sys.phase ≠ 15 ∨ s.sto.parked = true ∨ s.sto.parking = true → exec .keyrecRepair s = .next s) ∧
  (∀ (s : State) (copy : Nat) (rest : List Nat), s.hmk.keyRepair = copy :: rest → itemFree (cfgAddr (12 + copy)) 160 s = false → exec .keyrecRepair s = .next s) ∧
  (∀ (s : State) (copy : Nat) (rest : List Nat), s.hmk.keyRepair = copy :: rest → s.sys.phase = 15 → s.sto.parked = false → s.sto.parking = false → itemFree (cfgAddr (12 + copy)) 160 s = true → storeCanonical s →
    ∃ t, exec .keyrecRepair s = .next t ∧ peekLog (cfgAddr (12 + copy)) (keyRecord s).length t = keyRecord s ∧
      (∀ p, p / 65536 ≠ physIngot s.sto (2048 + (12 + copy)) → memGet t.sto.mem p = memGet s.sto.mem p) ∧
      hush t = hush { s with hmk := { s.hmk with keyRepair := rest }, sto := { s.sto with mem := t.sto.mem, poison := t.sto.poison }, pages := raised s pgHmk 0x8 }) ∧
  (∀ s : State, s.hmk.patchRepair = none ∨ s.sys.phase ≠ 15 ∨ s.sto.parked = true ∨ s.sto.parking = true → exec .patchRepair s = .next s) ∧
  (∀ (s : State) (copy : Nat), s.hmk.patchRepair = some copy → itemFree (cfgAddr (16 + 16 * copy)) 1048576 s = false → exec .patchRepair s = .next s) ∧
  (∀ (s : State) (copy : Nat), s.hmk.patchRepair = some copy → s.sys.phase = 15 → s.sto.parked = false → s.sto.parking = false → itemFree (cfgAddr (16 + 16 * copy)) 1048576 s = true →
    let r := readImage (cfgAddr (16 + 16 * (1 - copy))) (ascii "GWFP") 20 1048576 s
    (r.1 = none → exec .patchRepair s = .next r.2) ∧
    (∀ l, r.1 = some l → storeCanonical s → (∀ a b, a < 16 → b < 16 → physIngot s.sto (2048 + (16 + 16 * copy) + a) = physIngot s.sto (2048 + (16 + 16 * copy) + b) → a = b) → l.length ≤ 1048576 →
      ∃ t, exec .patchRepair s = .next t ∧ t.hmk.patchRepair = none ∧ peekLog (cfgAddr (16 + 16 * copy)) l.length t = l ∧ (hdr t pgHmk).evtRaw.getLsbD 4 = true ∧ t.hmk.patchCopy = s.hmk.patchCopy))) ∧
  ((∀ (s : State) (id : CmdId), fetchedCmd s id 0x20 = none → exec (.attest id) s = .next s) ∧
  (∀ (s : State) (id : CmdId) (c : Cmd), fetchedCmd s id 0x20 = some c →
    let refused := fun (code : Nat) => ∃ t, exec (.attest id) s = .next t ∧ decidedTo id { result := BitVec.ofNat 8 code } s t ∧ t = { s with pcie := t.pcie }
    (s.sys.phase ≠ 15 → refused 0x64) ∧
    (s.sys.phase = 15 → (s.jrn.st = .sealing ∨ s.jrn.st = .sealed → refused 0x65) ∧
      (s.jrn.st = .recovering ∨ s.jrn.st = .running →
        (c.desc.length.toNat < 17440 → refused 0x60) ∧
        (17440 ≤ c.desc.length.toNat →
          (s.hmk.idOk = false → refused 0x62) ∧
          (s.hmk.idOk = true → s.hmk.katOk = false → refused 0x63) ∧
          (s.hmk.idOk = true → s.hmk.katOk = true → 4 ≤ s.hmk.atts.length → refused 0x61) ∧
          (s.hmk.idOk = true → s.hmk.katOk = true → s.hmk.atts.length < 4 →
            ∃ t, exec (.attest id) s = .next t ∧ stageTo id .waiting s t ∧ t = { s with pcie := t.pcie, hmk := { s.hmk with atts := t.hmk.atts } } ∧
              t.hmk.atts.length = s.hmk.atts.length + 1 ∧ (t.hmk.atts.getLast?.map (·.id)) = some id ∧
              (s.hmk.atts = [] → t.hmk.atts = [if s.hmk.cur = none then { id := id, body := some (attBody c.desc.oparg s) } else { id := id }])))))) ∧
  (∀ (s : State) (last selfOk dma : Bool), s.hmk.atts = [] → exec (.signingStep last selfOk dma) s = .next s) ∧
  (∀ (s : State) (a : AttRun) (rest : List AttRun), s.hmk.atts = a :: rest →
    (∀ (last selfOk dma : Bool) (c : Cmd), a.body = none → s.hmk.cur = none → cmdOf s a.id = some c →
      ∃ t, exec (.signingStep last selfOk dma) s = .next t ∧ t = { s with hmk := { s.hmk with atts := { a with body := some (attBody c.desc.oparg s) } :: rest } }) ∧
    (∀ b : List Byte, a.body = some b →
      (∀ last selfOk dma : Bool, a.paused = true → exec (.signingStep last selfOk dma) s = .next s) ∧
      (∀ last selfOk dma : Bool, a.paused = false → last = false ∨ s.hmk.cur.isSome = true →
        ∃ t, exec (.signingStep last selfOk dma) s = .next t ∧ t = { s with hmk := { s.hmk with atts := { a with steps := a.steps + 1, paused := s.hmk.cur.isSome } :: rest } }) ∧
      (a.paused = false → s.hmk.cur = none → rest = [] → (hdr s pgHmk).injCount = 0 →
        (∃ t, exec (.signingStep true true true) s = .next t ∧ decidedTo a.id { result := 0, count := 17440, data := b ++ Config.slhSign s.hmk.idSk b } s t ∧
          hush t = hush { s with pcie := t.pcie, hmk := { s.hmk with atts := [], attests := s.hmk.attests + 1 }, pages := raised s pgHmk 0x4 }) ∧
        (∃ t, exec (.signingStep true true false) s = .next t ∧ decidedTo a.id { result := 0x0B } s t ∧ t.hmk = { s.hmk with atts := [], attests := s.hmk.attests + 1 } ∧
          (hdr t pgPcie).evtRaw.getLsbD 1 = true ∧ (hdr t pgHmk).evtRaw.getLsbD 2 = true) ∧
        (∀ dma : Bool, ∃ t, exec (.signingStep true false dma) s = .next t ∧ decidedTo a.id { result := 0x63 } s t ∧ t.fcr = told s 0x05C 0 0 pgHmk ∧
          hush t = hush { s with pcie := t.pcie, hmk := { s.hmk with atts := [] }, fcr := t.fcr, pages := raised s pgHmk 0x6 })))))

/-- LMN_POWER_ON, LMN_ROUND_START, LMN_ROUND_DECISION, WAKE_RELEASE, LMN_ALIGNMENT, LOGIC_DEAD, VSTBY_LOW, WAKE_TEST, LMN_CONFIG_WRITE, ENTRY_SEL (R44, R454 to R459, R461 to R464, R467 to R469, Table LMN-2): a loss of state clears the Lengthman; a round applies the writes that have crossed, samples, and where an input asks for it writes an entry or drives WAKE_OUT; alignment attends it; ENTRY_SEL captures a held entry. -/
def Obligations.LengthmanWatchesAndAligns : Prop :=
  (∀ s : State, ∃ t, exec .lmnPowerOn s = .next t ∧ t.lmn = { vLow := s.lmn.vLow, vLowSeen := s.lmn.vLow } ∧ hdr t pgLmn = {} ∧
    (s.pwr.off = true → t = { s with lmn := t.lmn, pages := t.pages }) ∧ hush t = hush { s with lmn := t.lmn, pages := t.pages, queues := t.queues, fcr := t.fcr } ∧
    (s.pwr.off = false → (xq s 24).st = .joined → (xq s 25).st = .joined → (xq t 24).st = .severed ∧ (xq t 25).st = .severed)) ∧
  (∀ (s : State) (ticks crossed : Nat) (chk : WordCheck),
    let due := s.lmn.lastStart = none ∨ ∃ at_ hz, s.lmn.lastStart = some (at_, hz) ∧ (at_ + (32768 + hz - 1) / hz) % 2 ^ 48 = (s.lmn.counter + ticks) % 2 ^ 48
    (s.lmn.round.isSome = true ∨ ¬due → exec (.lmnRoundStart ticks crossed chk) s = .next s) ∧
    (s.lmn.round = none → due → (s.lmn.log = [] ∨ (s.lmn.rounds + 1) % 256 ≠ 0) →
      let begun := fun (l : Lmn) => { l with round := some { start := (s.lmn.counter + ticks) % 2 ^ 48, attended := s.lmn.attended }, lastStart := some ((s.lmn.counter + ticks) % 2 ^ 48, min 100 (max 1 l.rate.toNat)), rounds := s.lmn.rounds + 1, counter := (s.lmn.counter + ticks) % 2 ^ 48 }
      (s.lmn.writes = [] → ∃ t, exec (.lmnRoundStart ticks crossed chk) s = .next t ∧ t = { s with lmn := begun s.lmn }) ∧
      (∀ w : LmnWrite, s.lmn.writes = [w] → now s < w.at_ + 12208 →
        (crossed = 0 → ∃ t, exec (.lmnRoundStart ticks crossed chk) s = .next t ∧ t = { s with lmn := begun s.lmn }) ∧
        (1 ≤ crossed → w.off = 0x060 → ∃ t, exec (.lmnRoundStart ticks crossed chk) s = .next t ∧ t = { s with lmn := begun { s.lmn with writes := [], rate := BitVec.ofNat 7 (bits w.v 0 7) } }) ∧
        (∀ k : Fin 8, 1 ≤ crossed → w.off = 0x040 + 4 * k.val →
          ∃ t, exec (.lmnRoundStart ticks crossed chk) s = .next t ∧ t = { s with lmn := begun { s.lmn with writes := [], watch := t.lmn.watch } } ∧
            (∀ j, j ≠ k.val → vGet t.lmn.watch j {} = vGet s.lmn.watch j {}) ∧
            let x := vGet t.lmn.watch k.val {}
            x.wake = bitOf w.v 7 ∧ x.log = bitOf w.v 6 ∧ x.trig.toNat = bits w.v 4 2 ∧ x.filt5 = bitOf w.v 3 ∧ x.inv = bitOf w.v 2 ∧ x.en = bitOf w.v 0 ∧
              (x.en = true ∧ (vGet s.lmn.watch k.val {}).en = true ∧ x.filt5 = (vGet s.lmn.watch k.val {}).filt5 ∧ x.inv = (vGet s.lmn.watch k.val {}).inv ∨
                x.samples = [] ∧ x.level = none)) ∧
        (1 ≤ crossed → w.off = 0x008 → bitOf w.v 0 = true → s.lmn.attended = true → s.lmn.wakeOut = false →
          ∃ t, exec (.lmnRoundStart ticks crossed chk) s = .next t ∧
            t = { s with lmn := begun { s.lmn with writes := [], wakeOut := true, wakeAt := (s.lmn.counter + ticks) % 2 ^ 48, wakeTest := true, wakeAligned := false } })))) ∧
  (∀ (s : State) (pins : BitVec 8), s.lmn.round = none → exec (.lmnRoundDecision pins) s = .next s) ∧
  (∀ (s : State) (pins : BitVec 8) (r : LmnRound), s.lmn.round = some r →
    let new_ := fun (k : Nat) => watchSample (pins.getLsbD k) (vGet s.lmn.watch k {})
    let sel := fun (k : Nat) => watchSelected (vGet s.lmn.watch k {}) (new_ k)
    let logs := (List.range 8).any fun k => sel k && (new_ k).log
    let wakes := (List.range 8).any fun k => sel k && (new_ k).wake
    ∃ t, exec (.lmnRoundDecision pins) s = .next t ∧ t.lmn.round = none ∧ (∀ k : Fin 8, vGet t.lmn.watch k.val {} = new_ k.val) ∧ hush t = hush { s with lmn := t.lmn, pages := t.pages } ∧
      (r.attended = true → t.lmn.log = s.lmn.log ∧ t.lmn.lseq = s.lmn.lseq ∧ t.lmn.wakeOut = s.lmn.wakeOut ∧
        (hdr t pgLmn).evtRaw = (hdr s pgLmn).evtRaw ||| (if logs then 0x4 else 0) ||| (if wakes then 0x8 else 0)) ∧
      (r.attended = false → t.pages = s.pages ∧
        (logs = false → t.lmn.log = s.lmn.log ∧ t.lmn.lseq = s.lmn.lseq) ∧
        (logs = true → t.lmn.lseq = (s.lmn.lseq + 1) % 2 ^ 32 ∧ ∃ e : LmnEntry, t.lmn.log = (if 256 ≤ s.lmn.log.length then s.lmn.log.drop 1 else s.lmn.log) ++ [e] ∧
          entryTime e = r.start % 2 ^ 48 ∧ entryLseq e = s.lmn.lseq % 2 ^ 32 ∧ e.bad = false ∧ e.word.getLsbD 112 = decide (256 ≤ s.lmn.log.length)) ∧
        (wakes = true → s.lmn.attended = false → s.lmn.wakeOut = false → t.lmn.wakeOut = true ∧ t.lmn.wakeAt = (r.start + 17) % 2 ^ 48 ∧ t.lmn.wakeTest = false) ∧
        (wakes = false ∨ s.lmn.attended = true ∨ s.lmn.wakeOut = true → t.lmn.wakeOut = s.lmn.wakeOut ∧ t.lmn.wakeAt = s.lmn.wakeAt))) ∧
  (∀ (s : State) (ticks : Nat),
    let held := (s.lmn.counter + ticks) % 2 ^ 48
    let free := s.lmn.wakeOut = true ∧ (s.lmn.wakeTest = true ∨ s.lmn.wakeAligned = true) ∧ 33 ≤ lmnSince s.lmn.wakeAt held ∧ lmnSince s.lmn.wakeAt held < 2 ^ 47
    (free → ∃ t, exec (.wakeRelease ticks) s = .next t ∧ t = { s with lmn := { s.lmn with counter := held, wakeOut := false, wakeTest := false, wakeAligned := false } }) ∧
    (¬free → exec (.wakeRelease ticks) s = .next s)) ∧
  (∀ (s : State) (ticks : Nat),
    (s.lmn.aligned = true ∨ s.sys.phase = 0 ∨ s.tb.running = false ∨ (xq s 24).st ≠ .joined ∨ (xq s 25).st ≠ .joined → exec (.lmnAlignment ticks) s = .next s) ∧
    (s.lmn.aligned = false → s.sys.phase ≠ 0 → s.tb.running = true → (xq s 24).st = .joined → (xq s 25).st = .joined →
      ∃ t, exec (.lmnAlignment ticks) s = .next t ∧ hush t = hush { s with lmn := t.lmn, pages := t.pages, fcr := t.fcr } ∧ (hdr t pgLmn).evtRaw.getLsbD 0 = true ∧
        t.lmn = { s.lmn with attended := true, aligned := true, cold := s.lmn.lostState, lostState := false, counter := (s.lmn.counter + ticks) % 2 ^ 48, alignL := (s.lmn.counter + ticks) % 2 ^ 48,
                             alignT := (now s + 2 ^ 64 - 2) % 2 ^ 64, wakeAligned := true, wakeOut := t.lmn.wakeOut, wakeTest := t.lmn.wakeTest } ∧
        (s.lmn.lost ≠ 0 → (hdr t pgLmn).evtRaw.getLsbD 4 = true ∧ ∃ r ∈ t.fcr.inbox, r.src = 0x0B1) ∧ (s.lmn.log.any entryVlow = true → ∃ r ∈ t.fcr.inbox, r.src = 0x0B2) ∧
        (s.lmn.lost = 0 → s.lmn.log.any entryVlow = false → t.fcr = s.fcr))) ∧
  (∀ s : State, ∃ t, exec .logicDead s = .next t ∧ t = { s with lmn := { s.lmn with attended := false } }) ∧
  (∀ (s : State) (low : Bool), (low = false ∨ s.lmn.vLow = true ∨ s.lmn.attended = false →
      ∃ t, exec (.vstbyLow low) s = .next t ∧ t = { s with lmn := { s.lmn with vLow := low, vLowSeen := s.lmn.vLowSeen || low } }) ∧
    (low = true → s.lmn.vLow = false → s.lmn.attended = true →
      ∃ t, exec (.vstbyLow low) s = .next t ∧ hush t = hush { s with lmn := { s.lmn with vLow := true, vLowSeen := true }, fcr := told s 0x0B2 0 0 pgLmn, pages := raised s pgLmn 0x20 })) ∧
  (∀ (s : State) (i : Iface), reaches i pgLmn s →
    let waiting := (s.lmn.writes.filter fun w => decide (now s < w.at_ + 12208)).length
    (∀ (c : Instr) (off : Nat) (v : Word32), (c = .wakeTest i ∧ off = 0x008 ∧ v = 1) ∨ (∃ (r : Fin 9) (x : Word32), c = .lmnConfigWrite i r x ∧ off = 0x040 + 4 * r.val ∧ v = x &&& (if r.val = 8 then 0x7F else 0xFD)) →
      ((xq s 25).st = .joined → waiting < 4 →
        ∃ t, exec c s = .next t ∧ seen i t = seen i { cancelKey pgLmn s with lmn := { s.lmn with writes := s.lmn.writes ++ [{ off := off, v := v, at_ := now s }] } }) ∧
      ((xq s 25).st = .joined → 4 ≤ waiting → ∃ t, exec c s = .next t ∧ t.lmn = s.lmn ∧ (hdr t pgLmn).errStat.getLsbD 2 = true) ∧
      ((xq s 25).st ≠ .joined → ∃ t, exec c s = .next t ∧ t.lmn = s.lmn ∧ seen i t = seen i { cancelKey pgLmn s with queues := t.queues } ∧
        ((xq s 25).st = .severed → (xq s 25).prodRst = false → (xq t 25).discards.toNat = min ((xq s 25).discards.toNat + 1) 0xFFFF))) ∧
    (∀ age : BitVec 8,
      (s.lmn.log.length ≤ age.toNat → ∃ t, exec (.entrySel i age) s = .next t ∧ seen i t = seen i { cancelKey pgLmn s with lmn := { s.lmn with entrySel := age, entry := 0 } }) ∧
      (∀ e : LmnEntry, s.lmn.log.reverse[age.toNat]? = some e → (hdr s pgLmn).injCount = 0 →
        (e.bad = false → ∃ t, exec (.entrySel i age) s = .next t ∧ seen i t = seen i { cancelKey pgLmn s with lmn := { s.lmn with entrySel := age, entry := e.word } }) ∧
        (e.bad = true → ∃ t, exec (.entrySel i age) s = .next t ∧ t.lmn = { s.lmn with entrySel := age, entry := t.lmn.entry }))))

/-! ## Supplies, modes, resets and start-up -/

/-- FEED_WINDOW_ENTER, FEED_WINDOW_LEAVE, FEED_QUALIFIED, FEED_FAIL, SWAP, PWR_CNT_CLR, CHARGE_DONE, CHARGE_RESUME (R478 to R482, R484, R492, Table PWR-6): a feed qualifies inside its window; the first trusted one that has qualified becomes ACTIVE, a further one STANDBY; when the ACTIVE feed fails a trusted STANDBY feed takes over, and without one the power-fail sequence begins; SWAP exchanges the two. -/
def Obligations.FeedsCarryAndSwitch : Prop :=
  (∀ (s : State) (b : Bool) (v : BitVec 12),
    (∃ t, exec (.feedWindowEnter b v) s = .next t ∧ t = setFeed b (if feedSt s b = .failed then .qualifying else feedSt s b) (setFeedV b v s)) ∧
    (∃ t, exec (.feedWindowLeave b v) s = .next t ∧ t = setFeed b (if feedSt s b = .qualifying then .failed else feedSt s b) (setFeedV b v s))) ∧
  (∀ (s : State) (b : Bool),
    (feedSt s b ≠ .qualifying → exec (.feedQualified b) s = .next s) ∧
    (feedSt s b = .qualifying → s.sys.mode ≠ .parked ∨ s.pwr.bridge ≠ 0 ∨ s.pwr.off = true →
      (carried s = false → feedTrusted s b = true →
        ∃ t, exec (.feedQualified b) s = .next t ∧ feedSt t b = .active ∧ feedSt t (!b) = feedSt s (!b) ∧
          t.pwr.charging = (if s.pwr.pfRun then false else if measStop s then s.pwr.charging else true) ∧
          hush t = hush { s with pwr := { s.pwr with feedA := t.pwr.feedA, feedB := t.pwr.feedB, charging := t.pwr.charging }, pages := raised s pgPwr 0x2 }) ∧
      (carried s = true ∨ feedTrusted s b = false →
        ∃ t, exec (.feedQualified b) s = .next t ∧ hush t = hush { setFeed b .standby s with fcr := told s 0x012 0 0 pgPwr, pages := raised s pgPwr 0x2 })) ∧
    (feedSt s b = .qualifying → s.sys.mode = .parked → s.pwr.bridge = 0 → s.pwr.off = false → ∃ t, exec (.feedQualified b) s = .next t ∧ chipFresh 5 s t)) ∧
  (∀ (s : State) (gap : Nat) (va vb : BitVec 12),
    (exec (.feedFail false false gap va vb) s = .next s) ∧
    (∀ b : Bool,
      let w := setFeed b .failed (setFeedV b (if b then vb else va) s)
      (feedSt s b = .failed ∨ feedSt s b = .qualifying → ∃ t, exec (.feedFail (!b) b gap va vb) s = .next t ∧ t = w) ∧
      (feedSt s b = .standby → ∃ t, exec (.feedFail (!b) b gap va vb) s = .next t ∧ hush t = hush { w with pages := raised s pgPwr 0x4 }) ∧
      (feedSt s b = .active → feedSt s (!b) = .standby → feedTrusted s (!b) = true → s.pwr.pfRun = false →
        ∃ t, exec (.feedFail (!b) b gap va vb) s = .next t ∧ feedSt t b = .failed ∧ feedSt t (!b) = .active ∧
          t.pwr = { (setFeed (!b) .active w).pwr with switches := satAdd 32 s.pwr.switches 1, switchTime := now s, switchGap := min gap 64 } ∧
          hush t = hush { s with pwr := t.pwr, fcr := told s 0x011 0 0 pgPwr, pages := raised s pgPwr 0x1 }) ∧
      (feedSt s b = .active → feedSt s (!b) ≠ .standby ∨ feedTrusted s (!b) = false → s.pwr.pfRun = false → ∃ t, exec (.feedFail (!b) b gap va vb) s = .next t ∧ failing 1 w t) ∧
      (feedSt s b = .active → s.pwr.pfRun = true →
        ∃ t, exec (.feedFail (!b) b gap va vb) s = .next t ∧ t = { w with pwr := { w.pwr with charging := false, pfSet := setBit s.pwr.pfSet 0 true } })) ∧
    (let w := setFeed true .failed (setFeed false .failed (setFeedV true vb (setFeedV false va s)))
     let spare := feedSt s false = .standby ∨ feedSt s true = .standby
     let pages := if spare then raised s pgPwr 0x4 else s.pages
     (carried s = false → ∃ t, exec (.feedFail true true gap va vb) s = .next t ∧ hush t = hush { w with pages := pages }) ∧
     (carried s = true → s.pwr.pfRun = false → ∃ t, exec (.feedFail true true gap va vb) s = .next t ∧ failing 1 w t ∧ (spare → (hdr t pgPwr).evtRaw.getLsbD 2 = true)) ∧
     (carried s = true → s.pwr.pfRun = true →
       ∃ t, exec (.feedFail true true gap va vb) s = .next t ∧ hush t = hush { w with pwr := { w.pwr with charging := false, pfSet := setBit s.pwr.pfSet 0 true }, pages := pages }))) ∧
  (∀ (s : State) (i : Iface), reaches i pgPwr s →
    let ended := fun (t : State) (p : Pwr) (code : Nat) (m : Word32) => seen i t = seen i { cancelKey pgPwr s with pwr := { p with cmd := t.pwr.cmd, result := code }, pages := raised (cancelKey pgPwr s) pgPwr m }
    (s.pwr.pfRun = true → (∃ t, exec (.swap i) s = .next t ∧ t.pwr.cmd = 1 ∧ ended t s.pwr 5 0x200) ∧ ∃ t, exec (.shutdown i) s = .next t ∧ t.pwr.cmd = 2 ∧ ended t s.pwr 5 0x200) ∧
    (s.pwr.pfRun = false →
      (swapReady s = true → ∃ t, exec (.swap i) s = .next t ∧ t.pwr.cmd = 1 ∧ ended t { s.pwr with feedA := s.pwr.feedB, feedB := s.pwr.feedA, switches := satAdd 32 s.pwr.switches 1 } 0 0x101) ∧
      (swapReady s = false → ∃ t, exec (.swap i) s = .next t ∧ t.pwr.cmd = 1 ∧ ended t s.pwr 1 0x200)) ∧
    (∃ t, exec (.pwrCntClr i) s = .next t ∧ seen i t = seen i { cancelKey pgPwr s with pwr := { s.pwr with switches := 0 } })) ∧
  (∀ s : State,
    (s.pwr.charging = true → ∃ t, exec .chargeDone s = .next t ∧ hush t = hush { s with pwr := { s.pwr with charging := false }, pages := raised s pgPwr 0x80 }) ∧
    (s.pwr.charging = false → exec .chargeDone s = .next s) ∧
    (measStop s = true → exec .chargeResume s = .next s) ∧
    (measStop s = false → ∃ t, exec .chargeResume s = .next t ∧ t = { s with pwr := { s.pwr with charging := carried s && !s.pwr.pfRun } }))

/-- BROWNOUT, POWER_FAIL_START, SHUTDOWN, RAIL_RANGE, BRIDGE_TAKEOVER, ENTER_PARKED, RAIL_SHUTDOWN, BRIDGE_LOCKOUT, POWER_ON_RESET_RELEASE (R471, R473, R474, R487 to R491, Tables PWR-10 and PWR-11): a cause begins the power-fail sequence or is added to the one that runs; sealed and parked, the module is PARKED; the rails go down with the bridge converter; power returns through a chip reset. -/
def Obligations.PowerFailParksTheModule : Prop :=
  (∀ (s : State) (r : Fin 3),
    (s.pwr.pfRun = false → ∃ t, exec (.brownout r) s = .next t ∧ failing (2 + r.val) s t) ∧
    (s.pwr.pfRun = true → ∃ t, exec (.brownout r) s = .next t ∧ t = { s with pwr := { s.pwr with pfSet := setBit s.pwr.pfSet (1 + r.val) true } }) ∧
    (∀ mv : BitVec 12,
      let rails := if r = 0 then { s.pwr.rails with vcore := mv.toNat } else if r = 1 then { s.pwr.rails with vio := mv.toNat } else { s.pwr.rails with vana := mv.toNat }
      (∃ t, exec (.railRange r mv false) s = .next t ∧ t = { s with pwr := { s.pwr with rails := rails } }) ∧
      (∃ t, exec (.railRange r mv true) s = .next t ∧ hush t = hush { s with pwr := { s.pwr with rails := rails }, fcr := told s (0x014 + r.val) 0 0 pgPwr, pages := raised s pgPwr 0x40 }) ∧
      (∃ t, exec (.bridgeTakeover r mv) s = .next t ∧ hush t = hush { s with pwr := { s.pwr with rails := rails, bridge := setBit s.pwr.bridge r.val true }, pages := raised s pgPwr 0x20 }))) ∧
  (∀ (s : State) (causes : BitVec 4),
    (causes = 0 → exec (.powerFailStart causes) s = .next s) ∧
    (∃ t, exec (.powerFailStart causes) s = .next t ∧ (∀ j, t.pwr.pfSet.getLsbD j = (s.pwr.pfSet.getLsbD j || causes.getLsbD j)) ∧
      (s.pwr.pfRun = true → t = { s with pwr := { s.pwr with pfSet := t.pwr.pfSet } }) ∧
      (∀ k, s.pwr.pfRun = false → causes.getLsbD k = true → (∀ j, j < k → causes.getLsbD j = false) →
        t.pwr = { s.pwr with pfRun := true, pfFirst := k + 1, pfSet := t.pwr.pfSet, pfAt := now s, charging := false, allOff := true } ∧
        outputsOff t ∧ t.fcr = told s 0x013 0 0 pgPwr ∧ t.sys.modePend = none ∧ t.sto = s.sto ∧ t.jrn = s.jrn))) ∧
  (∀ (s : State) (i : Iface), reaches i pgPwr s → s.pwr.pfRun = false →
    (s.sys.mode = .safe ∨ s.sys.mode = .service ∨ s.sys.mode = .split ∨ s.sys.mode = .incomplete →
      ∃ t, exec (.shutdown i) s = .next t ∧ t.pwr.result = 0 ∧ t.pwr.pfRun = true ∧ t.pwr.pfFirst = 6 ∧ t.pwr.allOff = true ∧ outputsOff t ∧ t.fcr = told s 0x013 0 0 pgPwr ∧ t.sys.mode = s.sys.mode ∧ t.sto = s.sto) ∧
    (s.sys.mode = .run ∨ s.sys.mode = .starting ∨ s.sys.mode = .parked →
      ∃ t, exec (.shutdown i) s = .next t ∧ seen i t = seen i { cancelKey pgPwr s with pwr := { s.pwr with cmd := 2, result := 2 }, pages := raised (cancelKey pgPwr s) pgPwr 0x200 })) ∧
  (∀ s : State,
    let ready := s.pwr.pfRun = true ∧ s.pwr.pfSet &&& 0x2F ≠ 0 ∧ (s.jrn.st = .sealed ∨ s.jrn.st = .recovering) ∧ s.sto.parked = true ∧ s.sys.mode ≠ .parked
    (¬ready → exec .enterParked s = .next s) ∧
    (ready → s.rst.pinAfterPark = false →
      ∃ t, exec .enterParked s = .next t ∧ t.sys = { s.sys with mode := .parked } ∧ t.hmk = { s.hmk with idSk := [] } ∧ t.ilkA.st ≠ .scanning ∧ t.ilkB.st ≠ .scanning ∧
        t.ilkl.clearPend = false ∧ t.ilkl.testPend = false ∧ t.pwr = s.pwr ∧ t.sto = s.sto ∧ t.tiles = s.tiles ∧ t.rst = s.rst) ∧
    (ready → s.rst.pinAfterPark = true → ∃ t, exec .enterParked s = .next t ∧ chipFresh 2 s t)) ∧
  (∀ s : State,
    let down := { s with pwr := { s.pwr with off := true, rails := { vcore := 0, vio := 0, vana := 0 }, bridge := 0, charging := false } }
    (s.sys.mode = .parked → s.pwr.bridge ≠ 0 → ∃ t, exec .railShutdown s = .next t ∧ t = down) ∧ (s.sys.mode ≠ .parked ∨ s.pwr.bridge = 0 → exec .railShutdown s = .next s) ∧
    (s.pwr.pfRun = true → s.pwr.bridge ≠ 0 → ∃ t, exec .bridgeLockout s = .next t ∧ t = down) ∧ (s.pwr.pfRun = false ∨ s.pwr.bridge = 0 → exec .bridgeLockout s = .next s)) ∧
  (∀ (s : State) (early late : Bool),
    (s.pwr.off = false → exec (.powerOnResetRelease early late) s = .next s) ∧
    (s.pwr.off = true → ∃ t, exec (.powerOnResetRelease early late) s = .next t ∧ chipFresh 1 s t ∧
      t.pwr = { voltA := s.pwr.voltA, voltB := s.pwr.voltB, vcoreEarly := early, vioLate := late }))

/-- MODE_REQ_SAFE, MODE_REQ_RUN, MODE_REQ_SERVICE, MODE_TAKE_EFFECT (R495 to R499, Tables RST-2, RST-3 and RST-7): a request is refused for the first condition that fails and otherwise pends; it takes effect at MODE_TAKE_EFFECT while no scan runs and at the next scan start while scans run, with RESULT 0 and the new mode in force, and RUN is judged again then. -/
def Obligations.ModeRequestsAreJudged : Prop :=
  (∀ (s : State) (i : Iface), reaches i pgSys s →
    let ended := fun (t : State) (m : Nat) (code : Nat) => seen i t = seen i { cancelKey pgSys s with
      sys := { s.sys with modeReq := BitVec.ofNat 4 m, modeResult := BitVec.ofNat 8 code }, pages := raised (cancelKey pgSys s) pgSys 0x8 }
    let begun := fun (t : State) (m : Nat) (md : Mode) => seen i t = seen i { cancelKey pgSys s with sys := { s.sys with modeReq := BitVec.ofNat 4 m, modeResult := 1, modePend := some md } } ∧
      (s.sys.exitPend = false → (md = .safe → s.sys.mode = .service → s.tch.flags.getLsbD 1 = false) →
        let inForce := fun (u : State) => u.sys.mode = md ∧ u.sys.modePend = none ∧ u.sys.modeResult = 0 ∧ (hdr u pgSys).evtRaw.getLsbD 0 = true ∧ (hdr u pgSys).evtRaw.getLsbD 2 = true
        (scansRun s = false → ∃ u, exec .modeTakeEffect t = .next u ∧ inForce u) ∧
        (scansRun s = true → s.ilkl.scanning = false → ∀ k, ∃ u, exec (.scanTick k) t = .next u ∧ inForce u))
    (∀ (c : Instr) (m : Nat), (c = .modeReqSafe i ∧ m = 1) ∨ (c = .modeReqRun i ∧ m = 2) ∨ (c = .modeReqService i ∧ m = 3) →
      (s.pwr.pfRun = true → ∃ t, exec c s = .next t ∧ ended t m 0x0C) ∧
      (s.pwr.pfRun = false → s.sys.phase ≠ 15 → ∃ t, exec c s = .next t ∧ ended t m 0x0F) ∧
      (s.pwr.pfRun = false → s.sys.phase = 15 → s.sys.modePend.isSome = true → ∃ t, exec c s = .next t ∧ ended t m 0x02)) ∧
    (s.pwr.pfRun = false → s.sys.phase = 15 → s.sys.modePend = none →
      (s.sys.mode = .run ∨ s.sys.mode = .service → ∃ t, exec (.modeReqSafe i) s = .next t ∧ begun t 1 .safe) ∧
      (s.sys.mode ≠ .run → s.sys.mode ≠ .service → ∃ t, exec (.modeReqSafe i) s = .next t ∧ ended t 1 0x03) ∧
      (s.sys.mode = .safe ∨ s.sys.mode = .incomplete → ∃ t, exec (.modeReqService i) s = .next t ∧ begun t 3 .service) ∧
      (s.sys.mode ≠ .safe → s.sys.mode ≠ .incomplete → ∃ t, exec (.modeReqService i) s = .next t ∧ ended t 3 0x03) ∧
      (let run := fun (t : State) => exec (.modeReqRun i) s = .next t
       (s.sys.mode ≠ .safe → ∃ t, run t ∧ ended t 2 0x03) ∧
       (s.sys.mode = .safe →
        (tableIn s = false → ∃ t, run t ∧ ended t 2 0x04) ∧
        (tableIn s = true →
         (s.ast.runBlock = true → ∃ t, run t ∧ ended t 2 0x05) ∧
         (s.ast.runBlock = false →
          (lockstepReport s = false ∨ s.dhd.cmpFail = true ∨ s.tab.cmpFail = true ∨ logicFenced s = true → ∃ t, run t ∧ ended t 2 0x06) ∧
          (lockstepReport s = true → s.dhd.cmpFail = false → s.tab.cmpFail = false → logicFenced s = false →
           (fatalPend s = true → ∃ t, run t ∧ ended t 2 0x08) ∧
           (fatalPend s = false →
            (s.ilkl.trip = true → ∃ t, run t ∧ ended t 2 0x09) ∧
            (s.ilkl.trip = false →
             (s.jrn.st ≠ .running → ∃ t, run t ∧ ended t 2 0x0A) ∧
             (s.jrn.st = .running →
              (feedActive s = false → ∃ t, run t ∧ ended t 2 0x0B) ∧
              (feedActive s = true → s.jrn.k < 262144 → ∃ t, run t ∧ ended t 2 0x07) ∧
              (feedActive s = true → 262144 ≤ s.jrn.k → ∃ t, run t ∧ begun t 2 .run))))))))))) ∧
  (∀ s : State, scansRun s = true ∨ (s.sys.modePend = none ∧ s.sys.exitPend = false) → exec .modeTakeEffect s = .next s) ∧
  (∀ s : State, scansRun s = false → s.sys.exitPend = false →
    (∀ c, s.sys.modePend = some .run → runCheck s = some c →
      ∃ t, exec .modeTakeEffect s = .next t ∧ hush t = hush { s with sys := { s.sys with modePend := none, modeResult := BitVec.ofNat 8 c }, pages := raised s pgSys 0x8 }) ∧
    (s.sys.modePend = some .safe → s.sys.mode ≠ .service →
      ∃ t, exec .modeTakeEffect s = .next t ∧ t.sys = { s.sys with mode := .safe, modePend := none, modeResult := 0 } ∧
        hush t = hush { s with sys := t.sys, jrn := t.jrn, fcr := t.fcr, pages := t.pages } ∧ (hdr t pgSys).evtRaw.getLsbD 0 = true ∧ (hdr t pgSys).evtRaw.getLsbD 2 = true) ∧
    (s.sys.modePend = some .safe → s.sys.mode = .service → s.tch.flags.getLsbD 1 = false →
      ∃ t, exec .modeTakeEffect s = .next t ∧ t.sys = { s.sys with mode := .safe, modePend := none, modeResult := 0 } ∧ t.tch.manChecked = true ∧ t.sto = s.sto ∧ t.ilkl = s.ilkl) ∧
    (s.sys.modePend = some .service →
      ∃ t, exec .modeTakeEffect s = .next t ∧ t.sys = { s.sys with mode := .service, modePend := none, modeResult := 0 } ∧ t.ilkA.st ≠ .scanning ∧ t.ilkB.st ≠ .scanning ∧
        t.ilkA.table = s.ilkA.table ∧ t.ilkB.table = s.ilkB.table ∧ t.sto = s.sto ∧ t.tch = s.tch)) ∧
  (∀ s : State, scansRun s = false → s.sys.exitPend = true → s.sys.mode = .incomplete → s.sys.modePend = none →
    ∃ t, exec .modeTakeEffect s = .next t ∧ t.sys = { s.sys with mode := .safe, exitPend := false } ∧ (hdr t pgSys).evtRaw.getLsbD 0 = true ∧ (hdr t pgTch).evtRaw.getLsbD 6 = true)

/-- RST_CMD_CHIP, RST_CMD_REGION, RST_CMD_BLOCK, STORAGE_RESET_DRAINED, RESET_END, RESET_N, RESET_N_RELEASE, CHIP_RESET (R28, R30, R96, R507 to R511, Tables RST-8, RST-9 and RST-11): RST.CMD is refused for the first condition that fails; a reset fences the pages it reaches and one of the Logic region trips; it ends with its fences removed, and the end of a region reset raises REGION_RESET; RESET_N seals and parks before the chip reset, which begins start-up anew. -/
def Obligations.ResetsFenceAndRestart : Prop :=
  (∀ (s : State) (i : Iface), reaches i pgRst s →
    let ended := fun (t : State) (code : Nat) => seen i t = seen i { cancelKey pgRst s with
      rst := { s.rst with cmd := t.rst.cmd, cmdResult := BitVec.ofNat 8 code }, pages := raised (cancelKey pgRst s) pgRst 0x2 }
    (s.sys.mode = .parked → ∃ t, exec (.rstCmdChip i) s = .next t ∧ chipFresh 4 s t) ∧
    (s.sys.mode ≠ .parked → ∃ t, exec (.rstCmdChip i) s = .next t ∧ ended t (if s.pwr.pfRun then 5 else 1)) ∧
    (∀ c : Instr, (∃ g, c = .rstCmdRegion i g) ∨ (∃ p, c = .rstCmdBlock i p) →
      (s.pwr.pfRun = true → ∃ t, exec c s = .next t ∧ ended t 5) ∧ (s.pwr.pfRun = false → s.sys.phase ≠ 15 → ∃ t, exec c s = .next t ∧ ended t 1)) ∧
    (s.pwr.pfRun = false → s.sys.phase = 15 →
      let taken := fun (c : Instr) (x : ResetTarget) (l : List Nat) (trips : Bool) => ∃ t, exec c s = .next t ∧ t.rst.cmdResult = 0 ∧
        t.rst.running = [{ target := x, fromFcr := false, waiting := resetWaits x s }] ∧ (hdr t pgRst).evtRaw.getLsbD 0 = true ∧ t.sto.mem = s.sto.mem ∧ t.tch.rows = s.tch.rows ∧
        (resetWaits x s = true → t.jrn.closed = true ∧ t.fab = s.fab) ∧
        (resetWaits x s = false → (∀ p ∈ l, pagePresent s.variant p = true → t.fab.fenced.getLsbD p = true) ∧ (trips = true → tripped 0x10 t))
      (∀ (g : BitVec 3) (r : Region), regionOf g.toNat = some r →
        (resetAllowed (.region r) s.sys.mode = false → ∃ t, exec (.rstCmdRegion i g) s = .next t ∧ ended t 1) ∧
        (resetAllowed (.region r) s.sys.mode = true → s.rst.running ≠ [] → ∃ t, exec (.rstCmdRegion i g) s = .next t ∧ ended t 3) ∧
        (resetAllowed (.region r) s.sys.mode = true → s.rst.running = [] → taken (.rstCmdRegion i g) (.region r) (regionPages r) (r == .logic))) ∧
      (∀ g : BitVec 3, 4 < g.toNat → ∃ t, exec (.rstCmdRegion i g) s = .next t ∧ ended t 2) ∧
      (∀ p : BitVec 8,
        (pagePresent s.variant p.toNat = false ∨ regionIndex p.toNat = 5 ∨ 0x30 ≤ p.toNat → ∃ t, exec (.rstCmdBlock i p) s = .next t ∧ ended t 2) ∧
        (pagePresent s.variant p.toNat = true → regionIndex p.toNat ≠ 5 → p.toNat < 0x30 →
          (resetAllowed (.block p.toNat) s.sys.mode = false → ∃ t, exec (.rstCmdBlock i p) s = .next t ∧ ended t 1) ∧
          (resetAllowed (.block p.toNat) s.sys.mode = true → s.rst.running ≠ [] → ∃ t, exec (.rstCmdBlock i p) s = .next t ∧ ended t 3) ∧
          (resetAllowed (.block p.toNat) s.sys.mode = true → s.rst.running = [] → taken (.rstCmdBlock i p) (.block p.toNat) [p.toNat] (safetyPage p.toNat)))))) ∧
  (∀ s : State,
    (s.jrn.waiting ≠ [] ∨ s.jrn.buf ≠ [] → exec .storageResetDrained s = .next s) ∧
    (∀ r : ResetRun, s.jrn.waiting = [] → s.jrn.buf = [] → s.rst.running = [r] →
      (r.waiting = false → exec .storageResetDrained s = .next s) ∧
      (r.waiting = true → ∃ t, exec .storageResetDrained s = .next t ∧ t.rst.running = [{ r with waiting := false }] ∧ t.sto.mem = s.sto.mem ∧
        (r.target = .region .storage → (∀ p ∈ regionPages .storage, t.fab.fenced.getLsbD p = true) ∧ t.jrn.st = .recovering ∧ t.sto.mapOk = false)))) ∧
  (∀ (s : State) (bad : BitVec 64) (readBack : Bool) (fs : List (Nat × WordCheck)),
    (s.rst.running = [] → exec (.resetEnd bad readBack fs) s = .next s) ∧
    (∀ (r : ResetRun) (rest : List ResetRun), s.rst.running = r :: rest →
      (resetMayEnd r s = false → exec (.resetEnd bad readBack fs) s = .next s) ∧
      (resetMayEnd r s = true →
        ∃ t, exec (.resetEnd bad readBack fs) s = .next t ∧ t.rst.running = rest ∧ (hdr t pgRst).evtRaw.getLsbD 2 = true ∧
          (∀ p, p ∈ targetPages r.target → s.fab.stuck.getLsbD p = false → pageInReset p { s with rst := { s.rst with running := rest } } = false → t.fab.fenced.getLsbD p = false) ∧
          (∀ g, r.target = .region g → ∃ e ∈ t.fcr.inbox, e.src = 0x019 ∧ e.detail = regionNo g) ∧
          (r.target = .region .field ∨ r.target = .region .host ∨ r.target = .region .standby →
            hush t = hush { s with rst := { s.rst with running := rest }, fab := t.fab, jrn := { s.jrn with closed := t.jrn.closed }, fcr := t.fcr, pages := raised s pgRst 0x4 }) ∧
          (r.target = .block pgDhd → t.dhd = { s.dhd with injDone := true, injFail := s.dhd.injFail ||| bad, cmpFail := s.dhd.cmpFail || bad != 0, lockstep := !s.dhd.cmpFail && bad == 0 })))) ∧
  (∀ (s : State) (ns : Nat),
    (ns < 1000 ∨ s.rst.pinLow = true → exec (.resetN ns) s = .next s) ∧
    (1000 ≤ ns → s.rst.pinLow = false →
      (s.pwr.pfRun = true → s.sys.mode ≠ .parked → ∃ t, exec (.resetN ns) s = .next t ∧ t = { s with rst := { s.rst with pinLow := true, pinAfterPark := true } }) ∧
      (s.pwr.pfRun = false → ∃ t, exec (.resetN ns) s = .next t ∧ t.rst = { s.rst with pinLow := true, pinAfterPark := true, chip := some (.pin, now s) } ∧ failing 5 s t) ∧
      (s.pwr.pfRun = true → s.sys.mode = .parked → ∃ t, exec (.resetN ns) s = .next t ∧
        t = { s with rst := { s.rst with pinLow := true, pinAfterPark := true, chip := some (.pin, now s) }, pwr := { s.pwr with pfSet := setBit s.pwr.pfSet 4 true } }))) ∧
  (∀ s : State, ∃ t, exec .resetNRelease s = .next t ∧ t = { s with rst := { s.rst with pinLow := false } }) ∧
  (∀ (s : State) (atLimit : Bool),
    (s.rst.chip = none → exec (.chipReset atLimit) s = .next s) ∧
    (∀ (c : ChipCause) (at_ : Nat), s.rst.chip = some (c, at_) →
      let ready := ((s.jrn.st = .sealed ∧ s.sto.parked = true) ∨ (atLimit = true ∧ (at_ + 3 * tbMs ≤ now s ∨ s.tb.running = false))) ∧ (s.pwr.pfSet &&& 0x2F = 0 ∨ s.sys.mode = .parked)
      (¬ready → exec (.chipReset atLimit) s = .next s) ∧
      (ready → ∃ t, exec (.chipReset atLimit) s = .next t ∧ chipFresh (causeCode c).1 s t)))

/-- STARTUP_P0 to STARTUP_P7 (R497, R500 to R503, Tables RST-5 and RST-6): the phases follow one another, each noting its end and raising PHASE_CHG; the straps are sampled once; P0 tests queues 4 to 7 and serves SFDP; a phase whose condition does not hold stays; P7 puts the first mode in force. -/
def Obligations.StartupRunsInPhases : Prop :=
  let passes := fun (n us : Nat) (s t : State) => t.sys.phase = (if n = 7 then 15 else n + 1) ∧ t.sys.phaseEnd = vSet s.sys.phaseEnd n (min us (2 ^ 20 - 1)) ∧ (hdr t pgSys).evtRaw.getLsbD 4 = true ∧ t.pending = s.pending ∧ t.variant = s.variant ∧ t.tch.rows = s.tch.rows
  (∀ s : State, (∀ strap pll xinOk xinExt mon queuesBad us, startIn s 0 = false ∨ s.rst.pinLow = true → exec (.startupP0 strap pll xinOk xinExt ⟨mon, queuesBad⟩ us) s = .next s) ∧
    (∀ romOk fcrOk kat line us, startIn s 1 = false → exec (.startupP1 romOk fcrOk kat line us) s = .next s) ∧ (∀ r us, startIn s 2 = false → exec (.startupP2 r us) s = .next s) ∧
    (∀ groups items us, startIn s 3 = false → exec (.startupP3 groups items us) s = .next s) ∧
    (∀ kat readBack us, startIn s 4 = false ∨ (s.sto.mapOk = false ∧ s.ast.storeBad = false) → exec (.startupP4 kat readBack us) s = .next s) ∧
    (∀ us, startIn s 5 = false → exec (.startupP5 us) s = .next s) ∧ (∀ fs us, startIn s 6 = false → exec (.startupP6 fs us) s = .next s) ∧ (∀ us, startIn s 7 = false → exec (.startupP7 us) s = .next s)) ∧
  (∀ (s : State) (strap : BitVec 2) (pll : BitVec 4) (xinOk xinExt : Bool) (mon : BitVec 7) (queuesBad : BitVec 4) (us : Nat), startIn s 0 = true → s.rst.pinLow = false →
    ∃ t, exec (.startupP0 strap pll xinOk xinExt ⟨mon, queuesBad⟩ us) s = .next t ∧ t.clkg = { s.clkg with pll := pll, xinOk := xinOk, xinExt := xinExt, monOk := mon } ∧ t.sys.sampled = true ∧
      (s.sys.sampled = false → t.sys.strap = strap ∧ t.sys.strapErr = (strap == 3) ∧ t.sys.splitStrap = (strap == 2)) ∧ (s.sys.sampled = true → t.sys.strap = s.sys.strap ∧ t.sys.splitStrap = s.sys.splitStrap) ∧
      (pll.getLsbD 0 = true → pll.getLsbD 1 = true → pll.getLsbD 2 = true → passes 0 us s t ∧ t.boot.sfdp = true ∧ (queuesBad = 0 → t.boot = { s.boot with sfdp := true } ∧ t.fcr = s.fcr ∧ t.ast = s.ast) ∧
        (queuesBad ≠ 0 → (vGet t.ast.results 6 {}).result = 2 ∧ ∃ r ∈ t.fcr.inbox, r.src = 0x054)) ∧ (pll.getLsbD 0 = false ∨ pll.getLsbD 1 = false ∨ pll.getLsbD 2 = false → t.sys.phase = 0 ∧ t.pages = s.pages) ∧
      hush t = hush { s with clkg := t.clkg, sys := t.sys, pages := t.pages, boot := t.boot, ast := t.ast, fcr := t.fcr }) ∧
  (∀ (s : State) (romOk fcrOk kat : Bool) (line us : Nat), startIn s 1 = true →
    (s.tch.marginDone = false → romOk = false → ∃ t, exec (.startupP1 romOk fcrOk kat line us) s = .next t ∧ t = { s with uart := t.uart }) ∧
    (s.tch.marginDone = true → feedActive s = false → us < 150000 → exec (.startupP1 romOk fcrOk kat line us) s = .next s) ∧
    (s.tch.marginDone = true → feedActive s = true ∨ 150000 ≤ us → ∃ t, exec (.startupP1 romOk fcrOk kat line us) s = .next t ∧ passes 1 us s t ∧ hush t = hush { s with sys := t.sys, pages := t.pages }) ∧
    (s.tch.marginDone = false → romOk = true →
      ∃ t, exec (.startupP1 romOk fcrOk kat line us) s = .next t ∧ t.tch.marginDone = true ∧ t.tch.rows = s.tch.rows ∧ t.hmk.katOk = (kat && !s.hmk.katBad) ∧ vGet t.hmk.meas 0 [] = Config.romHash ∧
        (feedActive s = true ∨ 150000 ≤ us → passes 1 us s t) ∧ (feedActive s = false → us < 150000 → t.sys.phase = 1))) ∧
  (∀ (s : State) (r : StartSet) (us : Nat), startIn s 2 = true →
    ∃ t, exec (.startupP2 r us) s = .next t ∧ passes 2 us s t ∧ (hdr t pgAst).evtRaw.getLsbD 0 = true ∧ t.sys.mode = .starting ∧ (r.fails = [] → r.skips = [] → t.ast.runBlock = s.ast.runBlock ∧ t.sto = s.sto ∧ t.fcr = s.fcr)) ∧
  (∀ (s : State) (groups : BitVec 64) (items : BitVec 9) (us : Nat), startIn s 3 = true →
    ∃ t, exec (.startupP3 groups items us) s = .next t ∧ passes 3 us s t ∧ hush t = hush { s with dhd := t.dhd, tab := t.tab, sys := t.sys, pages := t.pages } ∧
      t.dhd = { s.dhd with injDone := true, injFail := s.dhd.injFail ||| groups, cmpFail := s.dhd.cmpFail || groups != 0, lockstep := !s.dhd.cmpFail && groups == 0 } ∧
      t.tab = { s.tab with injDone := true, injFail := items, cmpFail := items != 0 }) ∧
  (∀ (s : State) (kat readBack : Bool) (us : Nat), startIn s 4 = true → s.sto.mapOk = true ∨ s.ast.storeBad = true →
    ∃ t, exec (.startupP4 kat readBack us) s = .next t ∧ passes 4 us s t ∧ t.sys.mode = .starting ∧ t.hmk.katOk = (kat && !s.hmk.katBad) ∧ t.sto.mem = s.sto.mem) ∧
  (∀ (s : State) (us : Nat), startIn s 5 = true →
    ∃ t, exec (.startupP5 us) s = .next t ∧ t.sys.calLoaded = true ∧ t.sto = s.sto ∧
      ((tilesWanted s).all (tileUp s) = true ∨ vGet s.sys.phaseEnd 4 0 + 20000 ≤ us → passes 5 us s t) ∧
      ((tilesWanted s).all (tileUp s) = false → us < vGet s.sys.phaseEnd 4 0 + 20000 → t.sys.phase = 5) ∧
      (vGet s.sys.phaseEnd 4 0 + 20000 ≤ us → ∀ p ∈ tilesWanted s, tileUp s p = false → (hdr t (pgTile p)).evtRaw.getLsbD 0 = true ∧ ∃ r ∈ t.fcr.inbox, r.src = 0x0C0 + 16 * p)) ∧
  (∀ (s : State) (fs : List (Nat × WordCheck)) (us : Nat), startIn s 6 = true →
    (vGet s.sys.phaseEnd 5 0 + 20000 ≤ us → ∃ t, exec (.startupP6 fs us) s = .next t ∧ passes 6 us s t) ∧
    (us < vGet s.sys.phaseEnd 5 0 + 20000 →
      (s.jrn.st ≠ .recovering → mergeSealed s = true → ∃ t, exec (.startupP6 fs us) s = .next t ∧ passes 6 us s t ∧ hush t = hush { s with sys := t.sys, pages := t.pages }) ∧
      (s.jrn.st ≠ .recovering → mergeSealed s = false → exec (.startupP6 fs us) s = .next s) ∧
      (s.jrn.st = .recovering → s.ast.storeBad = true ∨ s.sto.mapOk = false → exec (.startupP6 fs us) s = .next s)) ∧
    (s.jrn.st = .recovering → s.ast.storeBad = false → s.sto.mapOk = true → (partOfType s.sto 4).isSome = true → ∃ t, exec (.startupP6 fs us) s = .next t ∧ t.jrn.st = .running ∧ t.sys.starts = t.jrn.starts)) ∧
  (∀ (s : State) (us : Nat), startIn s 7 = true →
    let m := if s.sys.splitFlag = true ∨ s.sys.splitStrap = true then Mode.split else if s.sys.manifestBad then .incomplete else if s.sys.strap = 1 then .service else .safe
    ∃ t, exec (.startupP7 us) s = .next t ∧ passes 7 us s t ∧ t.sys.mode = m ∧ (hdr t pgSys).evtRaw.getLsbD 0 = true ∧ (hdr t pgSys).evtRaw.getLsbD 1 = true ∧
      t.dhd.split = (m == .split) ∧ t.tab.split = (m == .split) ∧ t.ast = { s.ast with set := 2 } ∧ t.sto = s.sto ∧ (s.sys.manifestBad = true → ∃ r ∈ t.fcr.inbox, r.src = 0x05A))

/-! ## The machine -/

/-- A step takes the command at the front of the queue and answers what that command does with the queue's rest; on an empty queue the block idles for one cycle of the Station clock (the model's choice, log 5). -/
def Obligations.StepRunsTheFrontCommand : Prop :=
  (∀ (c : Instr) (s : State), step { s with pending := c :: s.pending } = exec c s) ∧
  (∀ (c : Instr) (rest : List Instr) (s : State), s.pending = c :: rest → step s = exec c { s with pending := rest }) ∧
  (∀ s : State, s.pending = [] → ∃ t, step s = .next t ∧ t.pending = [] ∧ t.sto.mem = s.sto.mem ∧ t.sto.map = s.sto.map ∧ t.sto.log = s.sto.log ∧ t.sto.migr = s.sto.migr ∧ ((∀ d : Fin 2, vGet s.sto.migr d.val none = none) → t.sto = s.sto) ∧ t.tch = s.tch ∧ t.sys = s.sys ∧ t.ilkl = s.ilkl)

/-- Reset leaves the module in STARTING at P0 with cause power-on, every output commanded off, no trip latched, every event and enable clear, each input invalid, an empty queue (R20, R497, R507, Tables RST-1, RST-8 and RST-11); the store's map and bytes are in canonical form (the model's own invariant). -/
def Obligations.ResetLeavesTheStatedValues : Prop :=
  State.reset.sys.mode = .starting ∧ State.reset.sys.phase = 0 ∧ State.reset.rst.causeCode = 1 ∧ outputsOff State.reset ∧ State.reset.ilkl.trip = false ∧ State.reset.ilkA.table = none ∧
  State.reset.ilkB.table = none ∧ State.reset.pending = [] ∧ (∀ p, (hdr State.reset p).evtRaw = 0 ∧ (hdr State.reset p).evtEn = 0 ∧ (hdr State.reset p).errStat = 0 ∧ (hdr State.reset p).injCount = 0) ∧
  State.reset.sys.epoch = 0 ∧ State.reset.fcr.inbox = [] ∧ State.reset.jrn.st = .recovering ∧ State.reset.lmn.rate = 10 ∧ State.reset.lmn.cold = true ∧ State.reset.lmn.attended = false ∧
  State.reset.pwr.feedA = .failed ∧ State.reset.pwr.feedB = .failed ∧ State.reset.pwr.pfRun = false ∧ State.reset.pcie.cmds = [] ∧
  storeCanonical State.reset ∧ mapRising State.reset

/-- From every state whose store is in canonical form and whose ingot map and snapshots list each ingot once, a step answers a next state with the same three properties; it consumes the front command alone, leaves the variant as fitted, and clears no blown antifuse (R406). The three properties are the model's own invariant. -/
def Obligations.EveryStepKeepsTheInvariant : Prop :=
  ∀ s : State, storeCanonical s → mapRising s →
    ∃ t, step s = .next t ∧ storeCanonical t ∧ mapRising t ∧ t.pending = s.pending.tail ∧ t.variant = s.variant ∧
      ∀ row, (fuseAt t row).n &&& (fuseAt s row).n = (fuseAt s row).n ∧ (fuseAt t row).l &&& (fuseAt s row).l = (fuseAt s row).l ∧ (fuseAt t row).h &&& (fuseAt s row).h = (fuseAt s row).h

/-- A chip reset clears the trip latch; a Logic region reset sets it with cause FENCE (R96). -/
def Obligations.ChipResetClearsAndLogicResetTrips : Prop :=
  (∀ (c : ChipCause) (s : State), (chipReset c s).ilkl.trip = false ∧ (chipReset c s).ilkl.tripSet = 0) ∧
  (∀ s : State, tripped 0x10 (regionResetStart .logic s) ∧ (s.ilkl.trip = false → (regionResetStart .logic s).ilkl.cause = 0x10))

/-- Only the owner writes a compare channel or a timer: a write through any interface to one that neither the host owns nor the table leaves to it with HOST_ACCESS is discarded and recorded in ERR_STAT of its page (R242). -/
def Obligations.OnlyOwnersWriteChannelsAndTimers : Prop :=
  (∀ (s : State) (kind index : Nat), hostMayWrite s kind index = true ↔ ownerOf s kind index = .host ∨ (ownerOf s kind index = .table ∧ hostAccess s kind index = true)) ∧
  (∀ (s : State) (i : Iface) (n : Fin 32) (v : Word32), reaches i pgTbase s → hostMayWrite s 2 n.val = false →
    (∀ r : CmpReg, ∃ t, exec (.compareWrite i n r v) s = .next t ∧ t.tb = s.tb ∧ (hdr t pgTbase).errStat.getLsbD 3 = true ∧ (hdr t pgTbase).errIface = i) ∧
    (∀ r : BitVec 10, r.toNat / 8 = 8 + n.val →
      ∃ t, exec (.registerWrite i 0x04 r v true) s = .next t ∧ t.tb = s.tb ∧
        (r.toNat % 8 ≤ 3 ∨ r.toNat % 8 = 6 → (hdr t pgTbase).errStat.getLsbD 3 = true ∧ (hdr t pgTbase).errIface = i))) ∧
  (∀ (s : State) (i : Iface) (n : Fin 8) (v : Word32), reaches i pgTmr s → hostMayWrite s 3 n.val = false →
    (∀ c : Instr, c = .timerStart i n ∨ c = .timerStop i n ∨ c = .timerClear i n →
      ∃ t, exec c s = .next t ∧ t.tmr = s.tmr ∧ (hdr t pgTmr).errStat.getLsbD 3 = true ∧ (hdr t pgTmr).errIface = i) ∧
    (∀ r : BitVec 10, r.toNat / 8 = 8 + n.val →
      ∃ t, exec (.registerWrite i 0x05 r v true) s = .next t ∧ t.tmr = s.tmr ∧
        (r.toNat % 8 = 0 ∨ r.toNat % 8 = 1 ∨ r.toNat % 8 = 3 → (hdr t pgTmr).errStat.getLsbD 3 = true ∧ (hdr t pgTmr).errIface = i)))

/-- The EDGE block: Q is TRUE for exactly the one scan in which IN differs from its value in the previous scan in the selected direction; in the first scan Q is FALSE and IN is recorded (R154). -/
def Obligations.EdgeFiresForOneScan : Prop :=
  ∀ (c : Ctx) (k : Blk) (m : BlkMem), k.typ = 0x06 →
    let i := boolIn c (refAt k 0)
    ∃ q : Bool, runBlk c k m = ({ m with f1 := i }, [(refAt k 1, .b q)]) ∧
      (c.first = true → q = false) ∧
      (c.first = false → (varBits k 0 2 = 1 → (q = true ↔ m.f1 = false ∧ i = true)) ∧ (varBits k 0 2 = 2 → (q = true ↔ m.f1 = true ∧ i = false)) ∧
        (varBits k 0 2 ≠ 1 → varBits k 0 2 ≠ 2 → (q = true ↔ i ≠ m.f1)))
end

