-- ==== Sys2Proof/Laws/Maps.lean ====
section
/-! SUPPORT. Laws of vectors and sparse maps: what a write leaves at its place and at every other, and that sparse maps keep their keys rising. -/

namespace Sys2Proof.Machine

theorem vGet_vSet_self {α : Type} {n : Nat} (v : Vector α n) (i : Nat) (a d : α) (h : i < n) : vGet (vSet v i a) i d = a := by
  simp [vGet, vSet, h]

theorem vGet_vSet_ne {α : Type} {n : Nat} (v : Vector α n) (i j : Nat) (a d : α) (h : j ≠ i) : vGet (vSet v i a) j d = vGet v j d := by
  simp [vGet, vSet, Ne.symm h]

theorem vGet_vUpd_self {α : Type} {n : Nat} (v : Vector α n) (i : Nat) (f : α → α) (d : α) (h : i < n) : vGet (vUpd v i f) i d = f (vGet v i d) := by
  simp [vGet, vUpd, h]

theorem vGet_vUpd_ne {α : Type} {n : Nat} (v : Vector α n) (i j : Nat) (f : α → α) (d : α) (h : j ≠ i) : vGet (vUpd v i f) j d = vGet v j d := by
  unfold vGet vUpd
  split
  · simp [Ne.symm h]
  · rfl

/-- The reading of one element after a change of another or of itself, where the place is inside the vector. -/
theorem vGet_vUpd {α : Type} {n : Nat} (v : Vector α n) (i j : Nat) (f : α → α) (d : α) (h : i < n) :
    vGet (vUpd v i f) j d = if j = i then f (vGet v j d) else vGet v j d := by
  split
  · rename_i e; subst e; exact vGet_vUpd_self v j f d h
  · exact vGet_vUpd_ne v i j f d ‹_›

theorem smGet_smSet_self {α : Type} (m : SMap α) (k : Nat) (a : α) : smGet (smSet m k a) k = some a := by
  induction m with
  | nil => simp [smSet, smGet]
  | cons e t ih =>
    obtain ⟨j, b⟩ := e
    simp only [smSet]
    split
    · simp [smGet]
    split
    · simp [smGet]
    · simp [smGet, *]

theorem smGet_smSet_ne {α : Type} (m : SMap α) (k j : Nat) (a : α) (h : j ≠ k) : smGet (smSet m k a) j = smGet m j := by
  induction m with
  | nil => simp [smSet, smGet, Ne.symm h]
  | cons e t ih =>
    obtain ⟨i, b⟩ := e
    simp only [smSet]
    split
    · rename_i hi; subst hi; simp [smGet, Ne.symm h]
    split
    · simp [smGet, Ne.symm h]
    · simp [smGet, ih]

theorem smGet_smErase_ne {α : Type} (m : SMap α) (k j : Nat) (h : j ≠ k) : smGet (smErase m k) j = smGet m j := by
  induction m with
  | nil => rfl
  | cons e t ih =>
    obtain ⟨i, b⟩ := e
    simp only [smErase]
    split
    · rename_i hi; subst hi; simp [smGet, Ne.symm h]
    · simp [smGet, ih]

theorem smGetD_smSet_self {α : Type} (m : SMap α) (k : Nat) (a d : α) : smGetD (smSet m k a) k d = a := by simp [smGetD, smGet_smSet_self]

theorem smGetD_smSet_ne {α : Type} (m : SMap α) (k j : Nat) (a d : α) (h : j ≠ k) : smGetD (smSet m k a) j d = smGetD m j d := by
  simp [smGetD, smGet_smSet_ne m k j a h]

/-- The keys of a map rise strictly, so that equal maps are equal lists. -/
abbrev keysRise {α : Type} (m : SMap α) : Prop := (m.map Prod.fst).Pairwise (· < ·)

theorem mem_keys_smSet {α : Type} (m : SMap α) (k : Nat) (a : α) (x : Nat) (h : x ∈ (smSet m k a).map Prod.fst) : x = k ∨ x ∈ m.map Prod.fst := by
  induction m with
  | nil => simpa [smSet] using h
  | cons e t ih =>
    obtain ⟨j, b⟩ := e
    simp only [smSet] at h
    split at h
    · simp_all
    split at h
    · simpa using h
    · simp only [List.map_cons, List.mem_cons] at h ⊢
      rcases h with h | h
      · exact .inr (.inl h)
      · rcases ih h with h | h
        · exact .inl h
        · exact .inr (.inr h)

theorem keysRise_smSet {α : Type} (m : SMap α) (k : Nat) (a : α) (h : keysRise m) : keysRise (smSet m k a) := by
  induction m with
  | nil => simp [smSet, keysRise]
  | cons e t ih =>
    obtain ⟨j, b⟩ := e
    simp only [keysRise, List.map_cons, List.pairwise_cons] at h
    simp only [keysRise, smSet]
    split
    · rename_i e; subst e; simpa using h
    split
    · rename_i hk
      simp only [List.map_cons, List.pairwise_cons, List.mem_cons]
      exact ⟨fun x hx => hx.elim (· ▸ hk) fun hx => Nat.lt_trans hk (h.1 x hx), h⟩
    · simp only [List.map_cons, List.pairwise_cons]
      refine ⟨fun x hx => ?_, ih h.2⟩
      rcases mem_keys_smSet t k a x hx with hx | hx
      · omega
      · exact h.1 x hx

theorem mem_keys_smErase {α : Type} (m : SMap α) (k x : Nat) (h : x ∈ (smErase m k).map Prod.fst) : x ∈ m.map Prod.fst := by
  induction m with
  | nil => exact h
  | cons e t ih =>
    obtain ⟨j, b⟩ := e
    simp only [smErase] at h
    split at h
    · exact List.mem_cons_of_mem _ h
    · simp only [List.map_cons, List.mem_cons] at h ⊢
      exact h.imp_right ih

theorem keysRise_smErase {α : Type} (m : SMap α) (k : Nat) (h : keysRise m) : keysRise (smErase m k) := by
  induction m with
  | nil => exact h
  | cons e t ih =>
    obtain ⟨j, b⟩ := e
    simp only [keysRise, List.map_cons, List.pairwise_cons] at h
    simp only [keysRise, smErase]
    split
    · exact h.2
    · simp only [List.map_cons, List.pairwise_cons]
      exact ⟨fun x hx => h.1 x (mem_keys_smErase t k x hx), ih h.2⟩

/-- One bit of a mask after a bit has been written. -/
theorem getLsbD_setBit {n : Nat} (v : BitVec n) (i k : Nat) (b : Bool) (h : i < n) : (setBit v i b).getLsbD k = if k = i then b else v.getLsbD k := by
  have e : ∀ k, (BitVec.ofNat n (2 ^ i)).getLsbD k = (decide (k < n) && decide (i = k)) := by
    intro k; rw [BitVec.getLsbD_ofNat, Nat.testBit_two_pow]
  unfold setBit; dsimp only
  by_cases hk : k = i
  · subst hk
    cases b
    · rw [if_neg Bool.false_ne_true, BitVec.getLsbD_and, BitVec.getLsbD_not, e, if_pos rfl, decide_eq_true h, decide_eq_true rfl]; exact Bool.and_false _
    · rw [if_pos rfl, BitVec.getLsbD_or, e, if_pos rfl, decide_eq_true h, decide_eq_true rfl]; exact Bool.or_true _
  · have hk' : decide (i = k) = false := decide_eq_false fun e => hk e.symm
    cases b
    · rw [if_neg Bool.false_ne_true, BitVec.getLsbD_and, BitVec.getLsbD_not, e, if_neg hk, hk', Bool.and_false, Bool.not_false, Bool.and_true]
      cases hv : v.getLsbD k
      · rfl
      · rw [decide_eq_true (BitVec.lt_of_getLsbD hv)]; rfl
    · rw [if_pos rfl, BitVec.getLsbD_or, e, if_neg hk, hk', Bool.and_false, Bool.or_false]

end Sys2Proof.Machine
end

