-- ==== Sys2Proof/Laws/State.lean ====
section
/-! SUPPORT. What each update of State writes and what it leaves: one lemma per field per update. -/

namespace Sys2Proof.Machine

@[simp] theorem updHdr_pending (p : Nat) (f : PageHdr → PageHdr) (s : State) : (updHdr p f s).pending = s.pending := rfl
@[simp] theorem updHdr_variant (p : Nat) (f : PageHdr → PageHdr) (s : State) : (updHdr p f s).variant = s.variant := rfl
@[simp] theorem updHdr_free (p : Nat) (f : PageHdr → PageHdr) (s : State) : (updHdr p f s).free = s.free := rfl
@[simp] theorem updHdr_pages (p : Nat) (f : PageHdr → PageHdr) (s : State) : (updHdr p f s).pages = vUpd s.pages p f := rfl
@[simp] theorem updHdr_sys (p : Nat) (f : PageHdr → PageHdr) (s : State) : (updHdr p f s).sys = s.sys := rfl
@[simp] theorem updHdr_rst (p : Nat) (f : PageHdr → PageHdr) (s : State) : (updHdr p f s).rst = s.rst := rfl
@[simp] theorem updHdr_clkg (p : Nat) (f : PageHdr → PageHdr) (s : State) : (updHdr p f s).clkg = s.clkg := rfl
@[simp] theorem updHdr_queues (p : Nat) (f : PageHdr → PageHdr) (s : State) : (updHdr p f s).queues = s.queues := rfl
@[simp] theorem updHdr_fab (p : Nat) (f : PageHdr → PageHdr) (s : State) : (updHdr p f s).fab = s.fab := rfl
@[simp] theorem updHdr_arb (p : Nat) (f : PageHdr → PageHdr) (s : State) : (updHdr p f s).arb = s.arb := rfl
@[simp] theorem updHdr_tb (p : Nat) (f : PageHdr → PageHdr) (s : State) : (updHdr p f s).tb = s.tb := rfl
@[simp] theorem updHdr_tmr (p : Nat) (f : PageHdr → PageHdr) (s : State) : (updHdr p f s).tmr = s.tmr := rfl
@[simp] theorem updHdr_fcr (p : Nat) (f : PageHdr → PageHdr) (s : State) : (updHdr p f s).fcr = s.fcr := rfl
@[simp] theorem updHdr_crc (p : Nat) (f : PageHdr → PageHdr) (s : State) : (updHdr p f s).crc = s.crc := rfl
@[simp] theorem updHdr_crcRef (p : Nat) (f : PageHdr → PageHdr) (s : State) : (updHdr p f s).crcRef = s.crcRef := rfl
@[simp] theorem updHdr_pcie (p : Nat) (f : PageHdr → PageHdr) (s : State) : (updHdr p f s).pcie = s.pcie := rfl
@[simp] theorem updHdr_mgt (p : Nat) (f : PageHdr → PageHdr) (s : State) : (updHdr p f s).mgt = s.mgt := rfl
@[simp] theorem updHdr_dbg (p : Nat) (f : PageHdr → PageHdr) (s : State) : (updHdr p f s).dbg = s.dbg := rfl
@[simp] theorem updHdr_uart (p : Nat) (f : PageHdr → PageHdr) (s : State) : (updHdr p f s).uart = s.uart := rfl
@[simp] theorem updHdr_latch (p : Nat) (f : PageHdr → PageHdr) (s : State) : (updHdr p f s).latch = s.latch := rfl
@[simp] theorem updHdr_ilkA (p : Nat) (f : PageHdr → PageHdr) (s : State) : (updHdr p f s).ilkA = s.ilkA := rfl
@[simp] theorem updHdr_ilkB (p : Nat) (f : PageHdr → PageHdr) (s : State) : (updHdr p f s).ilkB = s.ilkB := rfl
@[simp] theorem updHdr_ilkl (p : Nat) (f : PageHdr → PageHdr) (s : State) : (updHdr p f s).ilkl = s.ilkl := rfl
@[simp] theorem updHdr_tab (p : Nat) (f : PageHdr → PageHdr) (s : State) : (updHdr p f s).tab = s.tab := rfl
@[simp] theorem updHdr_dhd (p : Nat) (f : PageHdr → PageHdr) (s : State) : (updHdr p f s).dhd = s.dhd := rfl
@[simp] theorem updHdr_ep (p : Nat) (f : PageHdr → PageHdr) (s : State) : (updHdr p f s).ep = s.ep := rfl
@[simp] theorem updHdr_tiles (p : Nat) (f : PageHdr → PageHdr) (s : State) : (updHdr p f s).tiles = s.tiles := rfl
@[simp] theorem updHdr_links (p : Nat) (f : PageHdr → PageHdr) (s : State) : (updHdr p f s).links = s.links := rfl
@[simp] theorem updHdr_tbl (p : Nat) (f : PageHdr → PageHdr) (s : State) : (updHdr p f s).tbl = s.tbl := rfl
@[simp] theorem updHdr_sto (p : Nat) (f : PageHdr → PageHdr) (s : State) : (updHdr p f s).sto = s.sto := rfl
@[simp] theorem updHdr_boot (p : Nat) (f : PageHdr → PageHdr) (s : State) : (updHdr p f s).boot = s.boot := rfl
@[simp] theorem updHdr_jrn (p : Nat) (f : PageHdr → PageHdr) (s : State) : (updHdr p f s).jrn = s.jrn := rfl
@[simp] theorem updHdr_ast (p : Nat) (f : PageHdr → PageHdr) (s : State) : (updHdr p f s).ast = s.ast := rfl
@[simp] theorem updHdr_tch (p : Nat) (f : PageHdr → PageHdr) (s : State) : (updHdr p f s).tch = s.tch := rfl
@[simp] theorem updHdr_hmk (p : Nat) (f : PageHdr → PageHdr) (s : State) : (updHdr p f s).hmk = s.hmk := rfl
@[simp] theorem updHdr_lmn (p : Nat) (f : PageHdr → PageHdr) (s : State) : (updHdr p f s).lmn = s.lmn := rfl
@[simp] theorem updHdr_pwr (p : Nat) (f : PageHdr → PageHdr) (s : State) : (updHdr p f s).pwr = s.pwr := rfl

@[simp] theorem updQ_pending (i : Nat) (f : XQueue → XQueue) (s : State) : (updQ i f s).pending = s.pending := rfl
@[simp] theorem updQ_variant (i : Nat) (f : XQueue → XQueue) (s : State) : (updQ i f s).variant = s.variant := rfl
@[simp] theorem updQ_free (i : Nat) (f : XQueue → XQueue) (s : State) : (updQ i f s).free = s.free := rfl
@[simp] theorem updQ_pages (i : Nat) (f : XQueue → XQueue) (s : State) : (updQ i f s).pages = s.pages := rfl
@[simp] theorem updQ_sys (i : Nat) (f : XQueue → XQueue) (s : State) : (updQ i f s).sys = s.sys := rfl
@[simp] theorem updQ_rst (i : Nat) (f : XQueue → XQueue) (s : State) : (updQ i f s).rst = s.rst := rfl
@[simp] theorem updQ_clkg (i : Nat) (f : XQueue → XQueue) (s : State) : (updQ i f s).clkg = s.clkg := rfl
@[simp] theorem updQ_queues (i : Nat) (f : XQueue → XQueue) (s : State) : (updQ i f s).queues = vUpd s.queues i f := rfl
@[simp] theorem updQ_fab (i : Nat) (f : XQueue → XQueue) (s : State) : (updQ i f s).fab = s.fab := rfl
@[simp] theorem updQ_arb (i : Nat) (f : XQueue → XQueue) (s : State) : (updQ i f s).arb = s.arb := rfl
@[simp] theorem updQ_tb (i : Nat) (f : XQueue → XQueue) (s : State) : (updQ i f s).tb = s.tb := rfl
@[simp] theorem updQ_tmr (i : Nat) (f : XQueue → XQueue) (s : State) : (updQ i f s).tmr = s.tmr := rfl
@[simp] theorem updQ_fcr (i : Nat) (f : XQueue → XQueue) (s : State) : (updQ i f s).fcr = s.fcr := rfl
@[simp] theorem updQ_crc (i : Nat) (f : XQueue → XQueue) (s : State) : (updQ i f s).crc = s.crc := rfl
@[simp] theorem updQ_crcRef (i : Nat) (f : XQueue → XQueue) (s : State) : (updQ i f s).crcRef = s.crcRef := rfl
@[simp] theorem updQ_pcie (i : Nat) (f : XQueue → XQueue) (s : State) : (updQ i f s).pcie = s.pcie := rfl
@[simp] theorem updQ_mgt (i : Nat) (f : XQueue → XQueue) (s : State) : (updQ i f s).mgt = s.mgt := rfl
@[simp] theorem updQ_dbg (i : Nat) (f : XQueue → XQueue) (s : State) : (updQ i f s).dbg = s.dbg := rfl
@[simp] theorem updQ_uart (i : Nat) (f : XQueue → XQueue) (s : State) : (updQ i f s).uart = s.uart := rfl
@[simp] theorem updQ_latch (i : Nat) (f : XQueue → XQueue) (s : State) : (updQ i f s).latch = s.latch := rfl
@[simp] theorem updQ_ilkA (i : Nat) (f : XQueue → XQueue) (s : State) : (updQ i f s).ilkA = s.ilkA := rfl
@[simp] theorem updQ_ilkB (i : Nat) (f : XQueue → XQueue) (s : State) : (updQ i f s).ilkB = s.ilkB := rfl
@[simp] theorem updQ_ilkl (i : Nat) (f : XQueue → XQueue) (s : State) : (updQ i f s).ilkl = s.ilkl := rfl
@[simp] theorem updQ_tab (i : Nat) (f : XQueue → XQueue) (s : State) : (updQ i f s).tab = s.tab := rfl
@[simp] theorem updQ_dhd (i : Nat) (f : XQueue → XQueue) (s : State) : (updQ i f s).dhd = s.dhd := rfl
@[simp] theorem updQ_ep (i : Nat) (f : XQueue → XQueue) (s : State) : (updQ i f s).ep = s.ep := rfl
@[simp] theorem updQ_tiles (i : Nat) (f : XQueue → XQueue) (s : State) : (updQ i f s).tiles = s.tiles := rfl
@[simp] theorem updQ_links (i : Nat) (f : XQueue → XQueue) (s : State) : (updQ i f s).links = s.links := rfl
@[simp] theorem updQ_tbl (i : Nat) (f : XQueue → XQueue) (s : State) : (updQ i f s).tbl = s.tbl := rfl
@[simp] theorem updQ_sto (i : Nat) (f : XQueue → XQueue) (s : State) : (updQ i f s).sto = s.sto := rfl
@[simp] theorem updQ_boot (i : Nat) (f : XQueue → XQueue) (s : State) : (updQ i f s).boot = s.boot := rfl
@[simp] theorem updQ_jrn (i : Nat) (f : XQueue → XQueue) (s : State) : (updQ i f s).jrn = s.jrn := rfl
@[simp] theorem updQ_ast (i : Nat) (f : XQueue → XQueue) (s : State) : (updQ i f s).ast = s.ast := rfl
@[simp] theorem updQ_tch (i : Nat) (f : XQueue → XQueue) (s : State) : (updQ i f s).tch = s.tch := rfl
@[simp] theorem updQ_hmk (i : Nat) (f : XQueue → XQueue) (s : State) : (updQ i f s).hmk = s.hmk := rfl
@[simp] theorem updQ_lmn (i : Nat) (f : XQueue → XQueue) (s : State) : (updQ i f s).lmn = s.lmn := rfl
@[simp] theorem updQ_pwr (i : Nat) (f : XQueue → XQueue) (s : State) : (updQ i f s).pwr = s.pwr := rfl

@[simp] theorem updTmr_pending (n : Nat) (f : Tmr → Tmr) (s : State) : (updTmr n f s).pending = s.pending := rfl
@[simp] theorem updTmr_variant (n : Nat) (f : Tmr → Tmr) (s : State) : (updTmr n f s).variant = s.variant := rfl
@[simp] theorem updTmr_free (n : Nat) (f : Tmr → Tmr) (s : State) : (updTmr n f s).free = s.free := rfl
@[simp] theorem updTmr_pages (n : Nat) (f : Tmr → Tmr) (s : State) : (updTmr n f s).pages = s.pages := rfl
@[simp] theorem updTmr_sys (n : Nat) (f : Tmr → Tmr) (s : State) : (updTmr n f s).sys = s.sys := rfl
@[simp] theorem updTmr_rst (n : Nat) (f : Tmr → Tmr) (s : State) : (updTmr n f s).rst = s.rst := rfl
@[simp] theorem updTmr_clkg (n : Nat) (f : Tmr → Tmr) (s : State) : (updTmr n f s).clkg = s.clkg := rfl
@[simp] theorem updTmr_queues (n : Nat) (f : Tmr → Tmr) (s : State) : (updTmr n f s).queues = s.queues := rfl
@[simp] theorem updTmr_fab (n : Nat) (f : Tmr → Tmr) (s : State) : (updTmr n f s).fab = s.fab := rfl
@[simp] theorem updTmr_arb (n : Nat) (f : Tmr → Tmr) (s : State) : (updTmr n f s).arb = s.arb := rfl
@[simp] theorem updTmr_tb (n : Nat) (f : Tmr → Tmr) (s : State) : (updTmr n f s).tb = s.tb := rfl
@[simp] theorem updTmr_tmr (n : Nat) (f : Tmr → Tmr) (s : State) : (updTmr n f s).tmr = vUpd s.tmr n f := rfl
@[simp] theorem updTmr_fcr (n : Nat) (f : Tmr → Tmr) (s : State) : (updTmr n f s).fcr = s.fcr := rfl
@[simp] theorem updTmr_crc (n : Nat) (f : Tmr → Tmr) (s : State) : (updTmr n f s).crc = s.crc := rfl
@[simp] theorem updTmr_crcRef (n : Nat) (f : Tmr → Tmr) (s : State) : (updTmr n f s).crcRef = s.crcRef := rfl
@[simp] theorem updTmr_pcie (n : Nat) (f : Tmr → Tmr) (s : State) : (updTmr n f s).pcie = s.pcie := rfl
@[simp] theorem updTmr_mgt (n : Nat) (f : Tmr → Tmr) (s : State) : (updTmr n f s).mgt = s.mgt := rfl
@[simp] theorem updTmr_dbg (n : Nat) (f : Tmr → Tmr) (s : State) : (updTmr n f s).dbg = s.dbg := rfl
@[simp] theorem updTmr_uart (n : Nat) (f : Tmr → Tmr) (s : State) : (updTmr n f s).uart = s.uart := rfl
@[simp] theorem updTmr_latch (n : Nat) (f : Tmr → Tmr) (s : State) : (updTmr n f s).latch = s.latch := rfl
@[simp] theorem updTmr_ilkA (n : Nat) (f : Tmr → Tmr) (s : State) : (updTmr n f s).ilkA = s.ilkA := rfl
@[simp] theorem updTmr_ilkB (n : Nat) (f : Tmr → Tmr) (s : State) : (updTmr n f s).ilkB = s.ilkB := rfl
@[simp] theorem updTmr_ilkl (n : Nat) (f : Tmr → Tmr) (s : State) : (updTmr n f s).ilkl = s.ilkl := rfl
@[simp] theorem updTmr_tab (n : Nat) (f : Tmr → Tmr) (s : State) : (updTmr n f s).tab = s.tab := rfl
@[simp] theorem updTmr_dhd (n : Nat) (f : Tmr → Tmr) (s : State) : (updTmr n f s).dhd = s.dhd := rfl
@[simp] theorem updTmr_ep (n : Nat) (f : Tmr → Tmr) (s : State) : (updTmr n f s).ep = s.ep := rfl
@[simp] theorem updTmr_tiles (n : Nat) (f : Tmr → Tmr) (s : State) : (updTmr n f s).tiles = s.tiles := rfl
@[simp] theorem updTmr_links (n : Nat) (f : Tmr → Tmr) (s : State) : (updTmr n f s).links = s.links := rfl
@[simp] theorem updTmr_tbl (n : Nat) (f : Tmr → Tmr) (s : State) : (updTmr n f s).tbl = s.tbl := rfl
@[simp] theorem updTmr_sto (n : Nat) (f : Tmr → Tmr) (s : State) : (updTmr n f s).sto = s.sto := rfl
@[simp] theorem updTmr_boot (n : Nat) (f : Tmr → Tmr) (s : State) : (updTmr n f s).boot = s.boot := rfl
@[simp] theorem updTmr_jrn (n : Nat) (f : Tmr → Tmr) (s : State) : (updTmr n f s).jrn = s.jrn := rfl
@[simp] theorem updTmr_ast (n : Nat) (f : Tmr → Tmr) (s : State) : (updTmr n f s).ast = s.ast := rfl
@[simp] theorem updTmr_tch (n : Nat) (f : Tmr → Tmr) (s : State) : (updTmr n f s).tch = s.tch := rfl
@[simp] theorem updTmr_hmk (n : Nat) (f : Tmr → Tmr) (s : State) : (updTmr n f s).hmk = s.hmk := rfl
@[simp] theorem updTmr_lmn (n : Nat) (f : Tmr → Tmr) (s : State) : (updTmr n f s).lmn = s.lmn := rfl
@[simp] theorem updTmr_pwr (n : Nat) (f : Tmr → Tmr) (s : State) : (updTmr n f s).pwr = s.pwr := rfl

@[simp] theorem updChan_pending (n : Nat) (f : CmpChan → CmpChan) (s : State) : (updChan n f s).pending = s.pending := rfl
@[simp] theorem updChan_variant (n : Nat) (f : CmpChan → CmpChan) (s : State) : (updChan n f s).variant = s.variant := rfl
@[simp] theorem updChan_free (n : Nat) (f : CmpChan → CmpChan) (s : State) : (updChan n f s).free = s.free := rfl
@[simp] theorem updChan_pages (n : Nat) (f : CmpChan → CmpChan) (s : State) : (updChan n f s).pages = s.pages := rfl
@[simp] theorem updChan_sys (n : Nat) (f : CmpChan → CmpChan) (s : State) : (updChan n f s).sys = s.sys := rfl
@[simp] theorem updChan_rst (n : Nat) (f : CmpChan → CmpChan) (s : State) : (updChan n f s).rst = s.rst := rfl
@[simp] theorem updChan_clkg (n : Nat) (f : CmpChan → CmpChan) (s : State) : (updChan n f s).clkg = s.clkg := rfl
@[simp] theorem updChan_queues (n : Nat) (f : CmpChan → CmpChan) (s : State) : (updChan n f s).queues = s.queues := rfl
@[simp] theorem updChan_fab (n : Nat) (f : CmpChan → CmpChan) (s : State) : (updChan n f s).fab = s.fab := rfl
@[simp] theorem updChan_arb (n : Nat) (f : CmpChan → CmpChan) (s : State) : (updChan n f s).arb = s.arb := rfl
@[simp] theorem updChan_tb (n : Nat) (f : CmpChan → CmpChan) (s : State) : (updChan n f s).tb = { s.tb with chans := vUpd s.tb.chans n f } := rfl
@[simp] theorem updChan_tmr (n : Nat) (f : CmpChan → CmpChan) (s : State) : (updChan n f s).tmr = s.tmr := rfl
@[simp] theorem updChan_fcr (n : Nat) (f : CmpChan → CmpChan) (s : State) : (updChan n f s).fcr = s.fcr := rfl
@[simp] theorem updChan_crc (n : Nat) (f : CmpChan → CmpChan) (s : State) : (updChan n f s).crc = s.crc := rfl
@[simp] theorem updChan_crcRef (n : Nat) (f : CmpChan → CmpChan) (s : State) : (updChan n f s).crcRef = s.crcRef := rfl
@[simp] theorem updChan_pcie (n : Nat) (f : CmpChan → CmpChan) (s : State) : (updChan n f s).pcie = s.pcie := rfl
@[simp] theorem updChan_mgt (n : Nat) (f : CmpChan → CmpChan) (s : State) : (updChan n f s).mgt = s.mgt := rfl
@[simp] theorem updChan_dbg (n : Nat) (f : CmpChan → CmpChan) (s : State) : (updChan n f s).dbg = s.dbg := rfl
@[simp] theorem updChan_uart (n : Nat) (f : CmpChan → CmpChan) (s : State) : (updChan n f s).uart = s.uart := rfl
@[simp] theorem updChan_latch (n : Nat) (f : CmpChan → CmpChan) (s : State) : (updChan n f s).latch = s.latch := rfl
@[simp] theorem updChan_ilkA (n : Nat) (f : CmpChan → CmpChan) (s : State) : (updChan n f s).ilkA = s.ilkA := rfl
@[simp] theorem updChan_ilkB (n : Nat) (f : CmpChan → CmpChan) (s : State) : (updChan n f s).ilkB = s.ilkB := rfl
@[simp] theorem updChan_ilkl (n : Nat) (f : CmpChan → CmpChan) (s : State) : (updChan n f s).ilkl = s.ilkl := rfl
@[simp] theorem updChan_tab (n : Nat) (f : CmpChan → CmpChan) (s : State) : (updChan n f s).tab = s.tab := rfl
@[simp] theorem updChan_dhd (n : Nat) (f : CmpChan → CmpChan) (s : State) : (updChan n f s).dhd = s.dhd := rfl
@[simp] theorem updChan_ep (n : Nat) (f : CmpChan → CmpChan) (s : State) : (updChan n f s).ep = s.ep := rfl
@[simp] theorem updChan_tiles (n : Nat) (f : CmpChan → CmpChan) (s : State) : (updChan n f s).tiles = s.tiles := rfl
@[simp] theorem updChan_links (n : Nat) (f : CmpChan → CmpChan) (s : State) : (updChan n f s).links = s.links := rfl
@[simp] theorem updChan_tbl (n : Nat) (f : CmpChan → CmpChan) (s : State) : (updChan n f s).tbl = s.tbl := rfl
@[simp] theorem updChan_sto (n : Nat) (f : CmpChan → CmpChan) (s : State) : (updChan n f s).sto = s.sto := rfl
@[simp] theorem updChan_boot (n : Nat) (f : CmpChan → CmpChan) (s : State) : (updChan n f s).boot = s.boot := rfl
@[simp] theorem updChan_jrn (n : Nat) (f : CmpChan → CmpChan) (s : State) : (updChan n f s).jrn = s.jrn := rfl
@[simp] theorem updChan_ast (n : Nat) (f : CmpChan → CmpChan) (s : State) : (updChan n f s).ast = s.ast := rfl
@[simp] theorem updChan_tch (n : Nat) (f : CmpChan → CmpChan) (s : State) : (updChan n f s).tch = s.tch := rfl
@[simp] theorem updChan_hmk (n : Nat) (f : CmpChan → CmpChan) (s : State) : (updChan n f s).hmk = s.hmk := rfl
@[simp] theorem updChan_lmn (n : Nat) (f : CmpChan → CmpChan) (s : State) : (updChan n f s).lmn = s.lmn := rfl
@[simp] theorem updChan_pwr (n : Nat) (f : CmpChan → CmpChan) (s : State) : (updChan n f s).pwr = s.pwr := rfl

@[simp] theorem updCrc_pending (n : Nat) (f : CrcUnit → CrcUnit) (s : State) : (updCrc n f s).pending = s.pending := rfl
@[simp] theorem updCrc_variant (n : Nat) (f : CrcUnit → CrcUnit) (s : State) : (updCrc n f s).variant = s.variant := rfl
@[simp] theorem updCrc_free (n : Nat) (f : CrcUnit → CrcUnit) (s : State) : (updCrc n f s).free = s.free := rfl
@[simp] theorem updCrc_pages (n : Nat) (f : CrcUnit → CrcUnit) (s : State) : (updCrc n f s).pages = s.pages := rfl
@[simp] theorem updCrc_sys (n : Nat) (f : CrcUnit → CrcUnit) (s : State) : (updCrc n f s).sys = s.sys := rfl
@[simp] theorem updCrc_rst (n : Nat) (f : CrcUnit → CrcUnit) (s : State) : (updCrc n f s).rst = s.rst := rfl
@[simp] theorem updCrc_clkg (n : Nat) (f : CrcUnit → CrcUnit) (s : State) : (updCrc n f s).clkg = s.clkg := rfl
@[simp] theorem updCrc_queues (n : Nat) (f : CrcUnit → CrcUnit) (s : State) : (updCrc n f s).queues = s.queues := rfl
@[simp] theorem updCrc_fab (n : Nat) (f : CrcUnit → CrcUnit) (s : State) : (updCrc n f s).fab = s.fab := rfl
@[simp] theorem updCrc_arb (n : Nat) (f : CrcUnit → CrcUnit) (s : State) : (updCrc n f s).arb = s.arb := rfl
@[simp] theorem updCrc_tb (n : Nat) (f : CrcUnit → CrcUnit) (s : State) : (updCrc n f s).tb = s.tb := rfl
@[simp] theorem updCrc_tmr (n : Nat) (f : CrcUnit → CrcUnit) (s : State) : (updCrc n f s).tmr = s.tmr := rfl
@[simp] theorem updCrc_fcr (n : Nat) (f : CrcUnit → CrcUnit) (s : State) : (updCrc n f s).fcr = s.fcr := rfl
@[simp] theorem updCrc_crc (n : Nat) (f : CrcUnit → CrcUnit) (s : State) : (updCrc n f s).crc = vUpd s.crc n f := rfl
@[simp] theorem updCrc_crcRef (n : Nat) (f : CrcUnit → CrcUnit) (s : State) : (updCrc n f s).crcRef = s.crcRef := rfl
@[simp] theorem updCrc_pcie (n : Nat) (f : CrcUnit → CrcUnit) (s : State) : (updCrc n f s).pcie = s.pcie := rfl
@[simp] theorem updCrc_mgt (n : Nat) (f : CrcUnit → CrcUnit) (s : State) : (updCrc n f s).mgt = s.mgt := rfl
@[simp] theorem updCrc_dbg (n : Nat) (f : CrcUnit → CrcUnit) (s : State) : (updCrc n f s).dbg = s.dbg := rfl
@[simp] theorem updCrc_uart (n : Nat) (f : CrcUnit → CrcUnit) (s : State) : (updCrc n f s).uart = s.uart := rfl
@[simp] theorem updCrc_latch (n : Nat) (f : CrcUnit → CrcUnit) (s : State) : (updCrc n f s).latch = s.latch := rfl
@[simp] theorem updCrc_ilkA (n : Nat) (f : CrcUnit → CrcUnit) (s : State) : (updCrc n f s).ilkA = s.ilkA := rfl
@[simp] theorem updCrc_ilkB (n : Nat) (f : CrcUnit → CrcUnit) (s : State) : (updCrc n f s).ilkB = s.ilkB := rfl
@[simp] theorem updCrc_ilkl (n : Nat) (f : CrcUnit → CrcUnit) (s : State) : (updCrc n f s).ilkl = s.ilkl := rfl
@[simp] theorem updCrc_tab (n : Nat) (f : CrcUnit → CrcUnit) (s : State) : (updCrc n f s).tab = s.tab := rfl
@[simp] theorem updCrc_dhd (n : Nat) (f : CrcUnit → CrcUnit) (s : State) : (updCrc n f s).dhd = s.dhd := rfl
@[simp] theorem updCrc_ep (n : Nat) (f : CrcUnit → CrcUnit) (s : State) : (updCrc n f s).ep = s.ep := rfl
@[simp] theorem updCrc_tiles (n : Nat) (f : CrcUnit → CrcUnit) (s : State) : (updCrc n f s).tiles = s.tiles := rfl
@[simp] theorem updCrc_links (n : Nat) (f : CrcUnit → CrcUnit) (s : State) : (updCrc n f s).links = s.links := rfl
@[simp] theorem updCrc_tbl (n : Nat) (f : CrcUnit → CrcUnit) (s : State) : (updCrc n f s).tbl = s.tbl := rfl
@[simp] theorem updCrc_sto (n : Nat) (f : CrcUnit → CrcUnit) (s : State) : (updCrc n f s).sto = s.sto := rfl
@[simp] theorem updCrc_boot (n : Nat) (f : CrcUnit → CrcUnit) (s : State) : (updCrc n f s).boot = s.boot := rfl
@[simp] theorem updCrc_jrn (n : Nat) (f : CrcUnit → CrcUnit) (s : State) : (updCrc n f s).jrn = s.jrn := rfl
@[simp] theorem updCrc_ast (n : Nat) (f : CrcUnit → CrcUnit) (s : State) : (updCrc n f s).ast = s.ast := rfl
@[simp] theorem updCrc_tch (n : Nat) (f : CrcUnit → CrcUnit) (s : State) : (updCrc n f s).tch = s.tch := rfl
@[simp] theorem updCrc_hmk (n : Nat) (f : CrcUnit → CrcUnit) (s : State) : (updCrc n f s).hmk = s.hmk := rfl
@[simp] theorem updCrc_lmn (n : Nat) (f : CrcUnit → CrcUnit) (s : State) : (updCrc n f s).lmn = s.lmn := rfl
@[simp] theorem updCrc_pwr (n : Nat) (f : CrcUnit → CrcUnit) (s : State) : (updCrc n f s).pwr = s.pwr := rfl

@[simp] theorem updSrc_pending (n : Nat) (f : Src → Src) (s : State) : (updSrc n f s).pending = s.pending := rfl
@[simp] theorem updSrc_variant (n : Nat) (f : Src → Src) (s : State) : (updSrc n f s).variant = s.variant := rfl
@[simp] theorem updSrc_free (n : Nat) (f : Src → Src) (s : State) : (updSrc n f s).free = s.free := rfl
@[simp] theorem updSrc_pages (n : Nat) (f : Src → Src) (s : State) : (updSrc n f s).pages = s.pages := rfl
@[simp] theorem updSrc_sys (n : Nat) (f : Src → Src) (s : State) : (updSrc n f s).sys = s.sys := rfl
@[simp] theorem updSrc_rst (n : Nat) (f : Src → Src) (s : State) : (updSrc n f s).rst = s.rst := rfl
@[simp] theorem updSrc_clkg (n : Nat) (f : Src → Src) (s : State) : (updSrc n f s).clkg = s.clkg := rfl
@[simp] theorem updSrc_queues (n : Nat) (f : Src → Src) (s : State) : (updSrc n f s).queues = s.queues := rfl
@[simp] theorem updSrc_fab (n : Nat) (f : Src → Src) (s : State) : (updSrc n f s).fab = s.fab := rfl
@[simp] theorem updSrc_arb (n : Nat) (f : Src → Src) (s : State) : (updSrc n f s).arb = s.arb := rfl
@[simp] theorem updSrc_tb (n : Nat) (f : Src → Src) (s : State) : (updSrc n f s).tb = s.tb := rfl
@[simp] theorem updSrc_tmr (n : Nat) (f : Src → Src) (s : State) : (updSrc n f s).tmr = s.tmr := rfl
@[simp] theorem updSrc_fcr (n : Nat) (f : Src → Src) (s : State) : (updSrc n f s).fcr = { s.fcr with srcs := smSet s.fcr.srcs n (f (srcOf s n)) } := rfl
@[simp] theorem updSrc_crc (n : Nat) (f : Src → Src) (s : State) : (updSrc n f s).crc = s.crc := rfl
@[simp] theorem updSrc_crcRef (n : Nat) (f : Src → Src) (s : State) : (updSrc n f s).crcRef = s.crcRef := rfl
@[simp] theorem updSrc_pcie (n : Nat) (f : Src → Src) (s : State) : (updSrc n f s).pcie = s.pcie := rfl
@[simp] theorem updSrc_mgt (n : Nat) (f : Src → Src) (s : State) : (updSrc n f s).mgt = s.mgt := rfl
@[simp] theorem updSrc_dbg (n : Nat) (f : Src → Src) (s : State) : (updSrc n f s).dbg = s.dbg := rfl
@[simp] theorem updSrc_uart (n : Nat) (f : Src → Src) (s : State) : (updSrc n f s).uart = s.uart := rfl
@[simp] theorem updSrc_latch (n : Nat) (f : Src → Src) (s : State) : (updSrc n f s).latch = s.latch := rfl
@[simp] theorem updSrc_ilkA (n : Nat) (f : Src → Src) (s : State) : (updSrc n f s).ilkA = s.ilkA := rfl
@[simp] theorem updSrc_ilkB (n : Nat) (f : Src → Src) (s : State) : (updSrc n f s).ilkB = s.ilkB := rfl
@[simp] theorem updSrc_ilkl (n : Nat) (f : Src → Src) (s : State) : (updSrc n f s).ilkl = s.ilkl := rfl
@[simp] theorem updSrc_tab (n : Nat) (f : Src → Src) (s : State) : (updSrc n f s).tab = s.tab := rfl
@[simp] theorem updSrc_dhd (n : Nat) (f : Src → Src) (s : State) : (updSrc n f s).dhd = s.dhd := rfl
@[simp] theorem updSrc_ep (n : Nat) (f : Src → Src) (s : State) : (updSrc n f s).ep = s.ep := rfl
@[simp] theorem updSrc_tiles (n : Nat) (f : Src → Src) (s : State) : (updSrc n f s).tiles = s.tiles := rfl
@[simp] theorem updSrc_links (n : Nat) (f : Src → Src) (s : State) : (updSrc n f s).links = s.links := rfl
@[simp] theorem updSrc_tbl (n : Nat) (f : Src → Src) (s : State) : (updSrc n f s).tbl = s.tbl := rfl
@[simp] theorem updSrc_sto (n : Nat) (f : Src → Src) (s : State) : (updSrc n f s).sto = s.sto := rfl
@[simp] theorem updSrc_boot (n : Nat) (f : Src → Src) (s : State) : (updSrc n f s).boot = s.boot := rfl
@[simp] theorem updSrc_jrn (n : Nat) (f : Src → Src) (s : State) : (updSrc n f s).jrn = s.jrn := rfl
@[simp] theorem updSrc_ast (n : Nat) (f : Src → Src) (s : State) : (updSrc n f s).ast = s.ast := rfl
@[simp] theorem updSrc_tch (n : Nat) (f : Src → Src) (s : State) : (updSrc n f s).tch = s.tch := rfl
@[simp] theorem updSrc_hmk (n : Nat) (f : Src → Src) (s : State) : (updSrc n f s).hmk = s.hmk := rfl
@[simp] theorem updSrc_lmn (n : Nat) (f : Src → Src) (s : State) : (updSrc n f s).lmn = s.lmn := rfl
@[simp] theorem updSrc_pwr (n : Nat) (f : Src → Src) (s : State) : (updSrc n f s).pwr = s.pwr := rfl

@[simp] theorem updSq_pending (q : Nat) (f : Sq → Sq) (s : State) : (updSq q f s).pending = s.pending := rfl
@[simp] theorem updSq_variant (q : Nat) (f : Sq → Sq) (s : State) : (updSq q f s).variant = s.variant := rfl
@[simp] theorem updSq_free (q : Nat) (f : Sq → Sq) (s : State) : (updSq q f s).free = s.free := rfl
@[simp] theorem updSq_pages (q : Nat) (f : Sq → Sq) (s : State) : (updSq q f s).pages = s.pages := rfl
@[simp] theorem updSq_sys (q : Nat) (f : Sq → Sq) (s : State) : (updSq q f s).sys = s.sys := rfl
@[simp] theorem updSq_rst (q : Nat) (f : Sq → Sq) (s : State) : (updSq q f s).rst = s.rst := rfl
@[simp] theorem updSq_clkg (q : Nat) (f : Sq → Sq) (s : State) : (updSq q f s).clkg = s.clkg := rfl
@[simp] theorem updSq_queues (q : Nat) (f : Sq → Sq) (s : State) : (updSq q f s).queues = s.queues := rfl
@[simp] theorem updSq_fab (q : Nat) (f : Sq → Sq) (s : State) : (updSq q f s).fab = s.fab := rfl
@[simp] theorem updSq_arb (q : Nat) (f : Sq → Sq) (s : State) : (updSq q f s).arb = s.arb := rfl
@[simp] theorem updSq_tb (q : Nat) (f : Sq → Sq) (s : State) : (updSq q f s).tb = s.tb := rfl
@[simp] theorem updSq_tmr (q : Nat) (f : Sq → Sq) (s : State) : (updSq q f s).tmr = s.tmr := rfl
@[simp] theorem updSq_fcr (q : Nat) (f : Sq → Sq) (s : State) : (updSq q f s).fcr = s.fcr := rfl
@[simp] theorem updSq_crc (q : Nat) (f : Sq → Sq) (s : State) : (updSq q f s).crc = s.crc := rfl
@[simp] theorem updSq_crcRef (q : Nat) (f : Sq → Sq) (s : State) : (updSq q f s).crcRef = s.crcRef := rfl
@[simp] theorem updSq_pcie (q : Nat) (f : Sq → Sq) (s : State) : (updSq q f s).pcie = { s.pcie with sqs := vUpd s.pcie.sqs q f } := rfl
@[simp] theorem updSq_mgt (q : Nat) (f : Sq → Sq) (s : State) : (updSq q f s).mgt = s.mgt := rfl
@[simp] theorem updSq_dbg (q : Nat) (f : Sq → Sq) (s : State) : (updSq q f s).dbg = s.dbg := rfl
@[simp] theorem updSq_uart (q : Nat) (f : Sq → Sq) (s : State) : (updSq q f s).uart = s.uart := rfl
@[simp] theorem updSq_latch (q : Nat) (f : Sq → Sq) (s : State) : (updSq q f s).latch = s.latch := rfl
@[simp] theorem updSq_ilkA (q : Nat) (f : Sq → Sq) (s : State) : (updSq q f s).ilkA = s.ilkA := rfl
@[simp] theorem updSq_ilkB (q : Nat) (f : Sq → Sq) (s : State) : (updSq q f s).ilkB = s.ilkB := rfl
@[simp] theorem updSq_ilkl (q : Nat) (f : Sq → Sq) (s : State) : (updSq q f s).ilkl = s.ilkl := rfl
@[simp] theorem updSq_tab (q : Nat) (f : Sq → Sq) (s : State) : (updSq q f s).tab = s.tab := rfl
@[simp] theorem updSq_dhd (q : Nat) (f : Sq → Sq) (s : State) : (updSq q f s).dhd = s.dhd := rfl
@[simp] theorem updSq_ep (q : Nat) (f : Sq → Sq) (s : State) : (updSq q f s).ep = s.ep := rfl
@[simp] theorem updSq_tiles (q : Nat) (f : Sq → Sq) (s : State) : (updSq q f s).tiles = s.tiles := rfl
@[simp] theorem updSq_links (q : Nat) (f : Sq → Sq) (s : State) : (updSq q f s).links = s.links := rfl
@[simp] theorem updSq_tbl (q : Nat) (f : Sq → Sq) (s : State) : (updSq q f s).tbl = s.tbl := rfl
@[simp] theorem updSq_sto (q : Nat) (f : Sq → Sq) (s : State) : (updSq q f s).sto = s.sto := rfl
@[simp] theorem updSq_boot (q : Nat) (f : Sq → Sq) (s : State) : (updSq q f s).boot = s.boot := rfl
@[simp] theorem updSq_jrn (q : Nat) (f : Sq → Sq) (s : State) : (updSq q f s).jrn = s.jrn := rfl
@[simp] theorem updSq_ast (q : Nat) (f : Sq → Sq) (s : State) : (updSq q f s).ast = s.ast := rfl
@[simp] theorem updSq_tch (q : Nat) (f : Sq → Sq) (s : State) : (updSq q f s).tch = s.tch := rfl
@[simp] theorem updSq_hmk (q : Nat) (f : Sq → Sq) (s : State) : (updSq q f s).hmk = s.hmk := rfl
@[simp] theorem updSq_lmn (q : Nat) (f : Sq → Sq) (s : State) : (updSq q f s).lmn = s.lmn := rfl
@[simp] theorem updSq_pwr (q : Nat) (f : Sq → Sq) (s : State) : (updSq q f s).pwr = s.pwr := rfl

@[simp] theorem updLink_pending (p : Nat) (f : Link → Link) (s : State) : (updLink p f s).pending = s.pending := rfl
@[simp] theorem updLink_variant (p : Nat) (f : Link → Link) (s : State) : (updLink p f s).variant = s.variant := rfl
@[simp] theorem updLink_free (p : Nat) (f : Link → Link) (s : State) : (updLink p f s).free = s.free := rfl
@[simp] theorem updLink_pages (p : Nat) (f : Link → Link) (s : State) : (updLink p f s).pages = s.pages := rfl
@[simp] theorem updLink_sys (p : Nat) (f : Link → Link) (s : State) : (updLink p f s).sys = s.sys := rfl
@[simp] theorem updLink_rst (p : Nat) (f : Link → Link) (s : State) : (updLink p f s).rst = s.rst := rfl
@[simp] theorem updLink_clkg (p : Nat) (f : Link → Link) (s : State) : (updLink p f s).clkg = s.clkg := rfl
@[simp] theorem updLink_queues (p : Nat) (f : Link → Link) (s : State) : (updLink p f s).queues = s.queues := rfl
@[simp] theorem updLink_fab (p : Nat) (f : Link → Link) (s : State) : (updLink p f s).fab = s.fab := rfl
@[simp] theorem updLink_arb (p : Nat) (f : Link → Link) (s : State) : (updLink p f s).arb = s.arb := rfl
@[simp] theorem updLink_tb (p : Nat) (f : Link → Link) (s : State) : (updLink p f s).tb = s.tb := rfl
@[simp] theorem updLink_tmr (p : Nat) (f : Link → Link) (s : State) : (updLink p f s).tmr = s.tmr := rfl
@[simp] theorem updLink_fcr (p : Nat) (f : Link → Link) (s : State) : (updLink p f s).fcr = s.fcr := rfl
@[simp] theorem updLink_crc (p : Nat) (f : Link → Link) (s : State) : (updLink p f s).crc = s.crc := rfl
@[simp] theorem updLink_crcRef (p : Nat) (f : Link → Link) (s : State) : (updLink p f s).crcRef = s.crcRef := rfl
@[simp] theorem updLink_pcie (p : Nat) (f : Link → Link) (s : State) : (updLink p f s).pcie = s.pcie := rfl
@[simp] theorem updLink_mgt (p : Nat) (f : Link → Link) (s : State) : (updLink p f s).mgt = s.mgt := rfl
@[simp] theorem updLink_dbg (p : Nat) (f : Link → Link) (s : State) : (updLink p f s).dbg = s.dbg := rfl
@[simp] theorem updLink_uart (p : Nat) (f : Link → Link) (s : State) : (updLink p f s).uart = s.uart := rfl
@[simp] theorem updLink_latch (p : Nat) (f : Link → Link) (s : State) : (updLink p f s).latch = s.latch := rfl
@[simp] theorem updLink_ilkA (p : Nat) (f : Link → Link) (s : State) : (updLink p f s).ilkA = s.ilkA := rfl
@[simp] theorem updLink_ilkB (p : Nat) (f : Link → Link) (s : State) : (updLink p f s).ilkB = s.ilkB := rfl
@[simp] theorem updLink_ilkl (p : Nat) (f : Link → Link) (s : State) : (updLink p f s).ilkl = s.ilkl := rfl
@[simp] theorem updLink_tab (p : Nat) (f : Link → Link) (s : State) : (updLink p f s).tab = s.tab := rfl
@[simp] theorem updLink_dhd (p : Nat) (f : Link → Link) (s : State) : (updLink p f s).dhd = s.dhd := rfl
@[simp] theorem updLink_ep (p : Nat) (f : Link → Link) (s : State) : (updLink p f s).ep = s.ep := rfl
@[simp] theorem updLink_tiles (p : Nat) (f : Link → Link) (s : State) : (updLink p f s).tiles = s.tiles := rfl
@[simp] theorem updLink_links (p : Nat) (f : Link → Link) (s : State) : (updLink p f s).links = vUpd s.links p f := rfl
@[simp] theorem updLink_tbl (p : Nat) (f : Link → Link) (s : State) : (updLink p f s).tbl = s.tbl := rfl
@[simp] theorem updLink_sto (p : Nat) (f : Link → Link) (s : State) : (updLink p f s).sto = s.sto := rfl
@[simp] theorem updLink_boot (p : Nat) (f : Link → Link) (s : State) : (updLink p f s).boot = s.boot := rfl
@[simp] theorem updLink_jrn (p : Nat) (f : Link → Link) (s : State) : (updLink p f s).jrn = s.jrn := rfl
@[simp] theorem updLink_ast (p : Nat) (f : Link → Link) (s : State) : (updLink p f s).ast = s.ast := rfl
@[simp] theorem updLink_tch (p : Nat) (f : Link → Link) (s : State) : (updLink p f s).tch = s.tch := rfl
@[simp] theorem updLink_hmk (p : Nat) (f : Link → Link) (s : State) : (updLink p f s).hmk = s.hmk := rfl
@[simp] theorem updLink_lmn (p : Nat) (f : Link → Link) (s : State) : (updLink p f s).lmn = s.lmn := rfl
@[simp] theorem updLink_pwr (p : Nat) (f : Link → Link) (s : State) : (updLink p f s).pwr = s.pwr := rfl

@[simp] theorem updStream_pending (p : Nat) (c : Chan) (f : Stream → Stream) (s : State) : (updStream p c f s).pending = s.pending := rfl
@[simp] theorem updStream_variant (p : Nat) (c : Chan) (f : Stream → Stream) (s : State) : (updStream p c f s).variant = s.variant := rfl
@[simp] theorem updStream_free (p : Nat) (c : Chan) (f : Stream → Stream) (s : State) : (updStream p c f s).free = s.free := rfl
@[simp] theorem updStream_pages (p : Nat) (c : Chan) (f : Stream → Stream) (s : State) : (updStream p c f s).pages = s.pages := rfl
@[simp] theorem updStream_sys (p : Nat) (c : Chan) (f : Stream → Stream) (s : State) : (updStream p c f s).sys = s.sys := rfl
@[simp] theorem updStream_rst (p : Nat) (c : Chan) (f : Stream → Stream) (s : State) : (updStream p c f s).rst = s.rst := rfl
@[simp] theorem updStream_clkg (p : Nat) (c : Chan) (f : Stream → Stream) (s : State) : (updStream p c f s).clkg = s.clkg := rfl
@[simp] theorem updStream_queues (p : Nat) (c : Chan) (f : Stream → Stream) (s : State) : (updStream p c f s).queues = s.queues := rfl
@[simp] theorem updStream_fab (p : Nat) (c : Chan) (f : Stream → Stream) (s : State) : (updStream p c f s).fab = s.fab := rfl
@[simp] theorem updStream_arb (p : Nat) (c : Chan) (f : Stream → Stream) (s : State) : (updStream p c f s).arb = s.arb := rfl
@[simp] theorem updStream_tb (p : Nat) (c : Chan) (f : Stream → Stream) (s : State) : (updStream p c f s).tb = s.tb := rfl
@[simp] theorem updStream_tmr (p : Nat) (c : Chan) (f : Stream → Stream) (s : State) : (updStream p c f s).tmr = s.tmr := rfl
@[simp] theorem updStream_fcr (p : Nat) (c : Chan) (f : Stream → Stream) (s : State) : (updStream p c f s).fcr = s.fcr := rfl
@[simp] theorem updStream_crc (p : Nat) (c : Chan) (f : Stream → Stream) (s : State) : (updStream p c f s).crc = s.crc := rfl
@[simp] theorem updStream_crcRef (p : Nat) (c : Chan) (f : Stream → Stream) (s : State) : (updStream p c f s).crcRef = s.crcRef := rfl
@[simp] theorem updStream_pcie (p : Nat) (c : Chan) (f : Stream → Stream) (s : State) : (updStream p c f s).pcie = s.pcie := rfl
@[simp] theorem updStream_mgt (p : Nat) (c : Chan) (f : Stream → Stream) (s : State) : (updStream p c f s).mgt = s.mgt := rfl
@[simp] theorem updStream_dbg (p : Nat) (c : Chan) (f : Stream → Stream) (s : State) : (updStream p c f s).dbg = s.dbg := rfl
@[simp] theorem updStream_uart (p : Nat) (c : Chan) (f : Stream → Stream) (s : State) : (updStream p c f s).uart = s.uart := rfl
@[simp] theorem updStream_latch (p : Nat) (c : Chan) (f : Stream → Stream) (s : State) : (updStream p c f s).latch = s.latch := rfl
@[simp] theorem updStream_ilkA (p : Nat) (c : Chan) (f : Stream → Stream) (s : State) : (updStream p c f s).ilkA = s.ilkA := rfl
@[simp] theorem updStream_ilkB (p : Nat) (c : Chan) (f : Stream → Stream) (s : State) : (updStream p c f s).ilkB = s.ilkB := rfl
@[simp] theorem updStream_ilkl (p : Nat) (c : Chan) (f : Stream → Stream) (s : State) : (updStream p c f s).ilkl = s.ilkl := rfl
@[simp] theorem updStream_tab (p : Nat) (c : Chan) (f : Stream → Stream) (s : State) : (updStream p c f s).tab = s.tab := rfl
@[simp] theorem updStream_dhd (p : Nat) (c : Chan) (f : Stream → Stream) (s : State) : (updStream p c f s).dhd = s.dhd := rfl
@[simp] theorem updStream_ep (p : Nat) (c : Chan) (f : Stream → Stream) (s : State) : (updStream p c f s).ep = s.ep := rfl
@[simp] theorem updStream_tiles (p : Nat) (c : Chan) (f : Stream → Stream) (s : State) : (updStream p c f s).tiles = s.tiles := rfl
@[simp] theorem updStream_tbl (p : Nat) (c : Chan) (f : Stream → Stream) (s : State) : (updStream p c f s).tbl = s.tbl := rfl
@[simp] theorem updStream_sto (p : Nat) (c : Chan) (f : Stream → Stream) (s : State) : (updStream p c f s).sto = s.sto := rfl
@[simp] theorem updStream_boot (p : Nat) (c : Chan) (f : Stream → Stream) (s : State) : (updStream p c f s).boot = s.boot := rfl
@[simp] theorem updStream_jrn (p : Nat) (c : Chan) (f : Stream → Stream) (s : State) : (updStream p c f s).jrn = s.jrn := rfl
@[simp] theorem updStream_ast (p : Nat) (c : Chan) (f : Stream → Stream) (s : State) : (updStream p c f s).ast = s.ast := rfl
@[simp] theorem updStream_tch (p : Nat) (c : Chan) (f : Stream → Stream) (s : State) : (updStream p c f s).tch = s.tch := rfl
@[simp] theorem updStream_hmk (p : Nat) (c : Chan) (f : Stream → Stream) (s : State) : (updStream p c f s).hmk = s.hmk := rfl
@[simp] theorem updStream_lmn (p : Nat) (c : Chan) (f : Stream → Stream) (s : State) : (updStream p c f s).lmn = s.lmn := rfl
@[simp] theorem updStream_pwr (p : Nat) (c : Chan) (f : Stream → Stream) (s : State) : (updStream p c f s).pwr = s.pwr := rfl

@[simp] theorem updSide_pending (p : Nat) (c : Chan) (f : Side → Side) (s : State) : (updSide p c f s).pending = s.pending := rfl
@[simp] theorem updSide_variant (p : Nat) (c : Chan) (f : Side → Side) (s : State) : (updSide p c f s).variant = s.variant := rfl
@[simp] theorem updSide_free (p : Nat) (c : Chan) (f : Side → Side) (s : State) : (updSide p c f s).free = s.free := rfl
@[simp] theorem updSide_pages (p : Nat) (c : Chan) (f : Side → Side) (s : State) : (updSide p c f s).pages = s.pages := rfl
@[simp] theorem updSide_sys (p : Nat) (c : Chan) (f : Side → Side) (s : State) : (updSide p c f s).sys = s.sys := rfl
@[simp] theorem updSide_rst (p : Nat) (c : Chan) (f : Side → Side) (s : State) : (updSide p c f s).rst = s.rst := rfl
@[simp] theorem updSide_clkg (p : Nat) (c : Chan) (f : Side → Side) (s : State) : (updSide p c f s).clkg = s.clkg := rfl
@[simp] theorem updSide_queues (p : Nat) (c : Chan) (f : Side → Side) (s : State) : (updSide p c f s).queues = s.queues := rfl
@[simp] theorem updSide_fab (p : Nat) (c : Chan) (f : Side → Side) (s : State) : (updSide p c f s).fab = s.fab := rfl
@[simp] theorem updSide_arb (p : Nat) (c : Chan) (f : Side → Side) (s : State) : (updSide p c f s).arb = s.arb := rfl
@[simp] theorem updSide_tb (p : Nat) (c : Chan) (f : Side → Side) (s : State) : (updSide p c f s).tb = s.tb := rfl
@[simp] theorem updSide_tmr (p : Nat) (c : Chan) (f : Side → Side) (s : State) : (updSide p c f s).tmr = s.tmr := rfl
@[simp] theorem updSide_fcr (p : Nat) (c : Chan) (f : Side → Side) (s : State) : (updSide p c f s).fcr = s.fcr := rfl
@[simp] theorem updSide_crc (p : Nat) (c : Chan) (f : Side → Side) (s : State) : (updSide p c f s).crc = s.crc := rfl
@[simp] theorem updSide_crcRef (p : Nat) (c : Chan) (f : Side → Side) (s : State) : (updSide p c f s).crcRef = s.crcRef := rfl
@[simp] theorem updSide_pcie (p : Nat) (c : Chan) (f : Side → Side) (s : State) : (updSide p c f s).pcie = s.pcie := rfl
@[simp] theorem updSide_mgt (p : Nat) (c : Chan) (f : Side → Side) (s : State) : (updSide p c f s).mgt = s.mgt := rfl
@[simp] theorem updSide_dbg (p : Nat) (c : Chan) (f : Side → Side) (s : State) : (updSide p c f s).dbg = s.dbg := rfl
@[simp] theorem updSide_uart (p : Nat) (c : Chan) (f : Side → Side) (s : State) : (updSide p c f s).uart = s.uart := rfl
@[simp] theorem updSide_latch (p : Nat) (c : Chan) (f : Side → Side) (s : State) : (updSide p c f s).latch = s.latch := rfl
@[simp] theorem updSide_ilkA (p : Nat) (c : Chan) (f : Side → Side) (s : State) : (updSide p c f s).ilkA = s.ilkA := rfl
@[simp] theorem updSide_ilkB (p : Nat) (c : Chan) (f : Side → Side) (s : State) : (updSide p c f s).ilkB = s.ilkB := rfl
@[simp] theorem updSide_ilkl (p : Nat) (c : Chan) (f : Side → Side) (s : State) : (updSide p c f s).ilkl = s.ilkl := rfl
@[simp] theorem updSide_tab (p : Nat) (c : Chan) (f : Side → Side) (s : State) : (updSide p c f s).tab = s.tab := rfl
@[simp] theorem updSide_dhd (p : Nat) (c : Chan) (f : Side → Side) (s : State) : (updSide p c f s).dhd = s.dhd := rfl
@[simp] theorem updSide_ep (p : Nat) (c : Chan) (f : Side → Side) (s : State) : (updSide p c f s).ep = s.ep := rfl
@[simp] theorem updSide_links (p : Nat) (c : Chan) (f : Side → Side) (s : State) : (updSide p c f s).links = s.links := rfl
@[simp] theorem updSide_tbl (p : Nat) (c : Chan) (f : Side → Side) (s : State) : (updSide p c f s).tbl = s.tbl := rfl
@[simp] theorem updSide_sto (p : Nat) (c : Chan) (f : Side → Side) (s : State) : (updSide p c f s).sto = s.sto := rfl
@[simp] theorem updSide_boot (p : Nat) (c : Chan) (f : Side → Side) (s : State) : (updSide p c f s).boot = s.boot := rfl
@[simp] theorem updSide_jrn (p : Nat) (c : Chan) (f : Side → Side) (s : State) : (updSide p c f s).jrn = s.jrn := rfl
@[simp] theorem updSide_ast (p : Nat) (c : Chan) (f : Side → Side) (s : State) : (updSide p c f s).ast = s.ast := rfl
@[simp] theorem updSide_tch (p : Nat) (c : Chan) (f : Side → Side) (s : State) : (updSide p c f s).tch = s.tch := rfl
@[simp] theorem updSide_hmk (p : Nat) (c : Chan) (f : Side → Side) (s : State) : (updSide p c f s).hmk = s.hmk := rfl
@[simp] theorem updSide_lmn (p : Nat) (c : Chan) (f : Side → Side) (s : State) : (updSide p c f s).lmn = s.lmn := rfl
@[simp] theorem updSide_pwr (p : Nat) (c : Chan) (f : Side → Side) (s : State) : (updSide p c f s).pwr = s.pwr := rfl

@[simp] theorem updShadow_pending (row : Nat) (f : Shadow → Shadow) (s : State) : (updShadow row f s).pending = s.pending := rfl
@[simp] theorem updShadow_variant (row : Nat) (f : Shadow → Shadow) (s : State) : (updShadow row f s).variant = s.variant := rfl
@[simp] theorem updShadow_free (row : Nat) (f : Shadow → Shadow) (s : State) : (updShadow row f s).free = s.free := rfl
@[simp] theorem updShadow_pages (row : Nat) (f : Shadow → Shadow) (s : State) : (updShadow row f s).pages = s.pages := rfl
@[simp] theorem updShadow_sys (row : Nat) (f : Shadow → Shadow) (s : State) : (updShadow row f s).sys = s.sys := rfl
@[simp] theorem updShadow_rst (row : Nat) (f : Shadow → Shadow) (s : State) : (updShadow row f s).rst = s.rst := rfl
@[simp] theorem updShadow_clkg (row : Nat) (f : Shadow → Shadow) (s : State) : (updShadow row f s).clkg = s.clkg := rfl
@[simp] theorem updShadow_queues (row : Nat) (f : Shadow → Shadow) (s : State) : (updShadow row f s).queues = s.queues := rfl
@[simp] theorem updShadow_fab (row : Nat) (f : Shadow → Shadow) (s : State) : (updShadow row f s).fab = s.fab := rfl
@[simp] theorem updShadow_arb (row : Nat) (f : Shadow → Shadow) (s : State) : (updShadow row f s).arb = s.arb := rfl
@[simp] theorem updShadow_tb (row : Nat) (f : Shadow → Shadow) (s : State) : (updShadow row f s).tb = s.tb := rfl
@[simp] theorem updShadow_tmr (row : Nat) (f : Shadow → Shadow) (s : State) : (updShadow row f s).tmr = s.tmr := rfl
@[simp] theorem updShadow_fcr (row : Nat) (f : Shadow → Shadow) (s : State) : (updShadow row f s).fcr = s.fcr := rfl
@[simp] theorem updShadow_crc (row : Nat) (f : Shadow → Shadow) (s : State) : (updShadow row f s).crc = s.crc := rfl
@[simp] theorem updShadow_crcRef (row : Nat) (f : Shadow → Shadow) (s : State) : (updShadow row f s).crcRef = s.crcRef := rfl
@[simp] theorem updShadow_pcie (row : Nat) (f : Shadow → Shadow) (s : State) : (updShadow row f s).pcie = s.pcie := rfl
@[simp] theorem updShadow_mgt (row : Nat) (f : Shadow → Shadow) (s : State) : (updShadow row f s).mgt = s.mgt := rfl
@[simp] theorem updShadow_dbg (row : Nat) (f : Shadow → Shadow) (s : State) : (updShadow row f s).dbg = s.dbg := rfl
@[simp] theorem updShadow_uart (row : Nat) (f : Shadow → Shadow) (s : State) : (updShadow row f s).uart = s.uart := rfl
@[simp] theorem updShadow_latch (row : Nat) (f : Shadow → Shadow) (s : State) : (updShadow row f s).latch = s.latch := rfl
@[simp] theorem updShadow_ilkA (row : Nat) (f : Shadow → Shadow) (s : State) : (updShadow row f s).ilkA = s.ilkA := rfl
@[simp] theorem updShadow_ilkB (row : Nat) (f : Shadow → Shadow) (s : State) : (updShadow row f s).ilkB = s.ilkB := rfl
@[simp] theorem updShadow_ilkl (row : Nat) (f : Shadow → Shadow) (s : State) : (updShadow row f s).ilkl = s.ilkl := rfl
@[simp] theorem updShadow_tab (row : Nat) (f : Shadow → Shadow) (s : State) : (updShadow row f s).tab = s.tab := rfl
@[simp] theorem updShadow_dhd (row : Nat) (f : Shadow → Shadow) (s : State) : (updShadow row f s).dhd = s.dhd := rfl
@[simp] theorem updShadow_ep (row : Nat) (f : Shadow → Shadow) (s : State) : (updShadow row f s).ep = s.ep := rfl
@[simp] theorem updShadow_tiles (row : Nat) (f : Shadow → Shadow) (s : State) : (updShadow row f s).tiles = s.tiles := rfl
@[simp] theorem updShadow_links (row : Nat) (f : Shadow → Shadow) (s : State) : (updShadow row f s).links = s.links := rfl
@[simp] theorem updShadow_tbl (row : Nat) (f : Shadow → Shadow) (s : State) : (updShadow row f s).tbl = s.tbl := rfl
@[simp] theorem updShadow_sto (row : Nat) (f : Shadow → Shadow) (s : State) : (updShadow row f s).sto = s.sto := rfl
@[simp] theorem updShadow_boot (row : Nat) (f : Shadow → Shadow) (s : State) : (updShadow row f s).boot = s.boot := rfl
@[simp] theorem updShadow_jrn (row : Nat) (f : Shadow → Shadow) (s : State) : (updShadow row f s).jrn = s.jrn := rfl
@[simp] theorem updShadow_ast (row : Nat) (f : Shadow → Shadow) (s : State) : (updShadow row f s).ast = s.ast := rfl
@[simp] theorem updShadow_tch (row : Nat) (f : Shadow → Shadow) (s : State) : (updShadow row f s).tch = { s.tch with shadow := smSet s.tch.shadow row (f (shadowOf s row)) } := rfl
@[simp] theorem updShadow_hmk (row : Nat) (f : Shadow → Shadow) (s : State) : (updShadow row f s).hmk = s.hmk := rfl
@[simp] theorem updShadow_lmn (row : Nat) (f : Shadow → Shadow) (s : State) : (updShadow row f s).lmn = s.lmn := rfl
@[simp] theorem updShadow_pwr (row : Nat) (f : Shadow → Shadow) (s : State) : (updShadow row f s).pwr = s.pwr := rfl

@[simp] theorem updTab_pending (f : Tab → Tab) (s : State) : (updTab f s).pending = s.pending := rfl
@[simp] theorem updTab_variant (f : Tab → Tab) (s : State) : (updTab f s).variant = s.variant := rfl
@[simp] theorem updTab_free (f : Tab → Tab) (s : State) : (updTab f s).free = s.free := rfl
@[simp] theorem updTab_pages (f : Tab → Tab) (s : State) : (updTab f s).pages = s.pages := rfl
@[simp] theorem updTab_sys (f : Tab → Tab) (s : State) : (updTab f s).sys = s.sys := rfl
@[simp] theorem updTab_rst (f : Tab → Tab) (s : State) : (updTab f s).rst = s.rst := rfl
@[simp] theorem updTab_clkg (f : Tab → Tab) (s : State) : (updTab f s).clkg = s.clkg := rfl
@[simp] theorem updTab_queues (f : Tab → Tab) (s : State) : (updTab f s).queues = s.queues := rfl
@[simp] theorem updTab_fab (f : Tab → Tab) (s : State) : (updTab f s).fab = s.fab := rfl
@[simp] theorem updTab_arb (f : Tab → Tab) (s : State) : (updTab f s).arb = s.arb := rfl
@[simp] theorem updTab_tb (f : Tab → Tab) (s : State) : (updTab f s).tb = s.tb := rfl
@[simp] theorem updTab_tmr (f : Tab → Tab) (s : State) : (updTab f s).tmr = s.tmr := rfl
@[simp] theorem updTab_fcr (f : Tab → Tab) (s : State) : (updTab f s).fcr = s.fcr := rfl
@[simp] theorem updTab_crc (f : Tab → Tab) (s : State) : (updTab f s).crc = s.crc := rfl
@[simp] theorem updTab_crcRef (f : Tab → Tab) (s : State) : (updTab f s).crcRef = s.crcRef := rfl
@[simp] theorem updTab_pcie (f : Tab → Tab) (s : State) : (updTab f s).pcie = s.pcie := rfl
@[simp] theorem updTab_mgt (f : Tab → Tab) (s : State) : (updTab f s).mgt = s.mgt := rfl
@[simp] theorem updTab_dbg (f : Tab → Tab) (s : State) : (updTab f s).dbg = s.dbg := rfl
@[simp] theorem updTab_uart (f : Tab → Tab) (s : State) : (updTab f s).uart = s.uart := rfl
@[simp] theorem updTab_latch (f : Tab → Tab) (s : State) : (updTab f s).latch = s.latch := rfl
@[simp] theorem updTab_ilkA (f : Tab → Tab) (s : State) : (updTab f s).ilkA = s.ilkA := rfl
@[simp] theorem updTab_ilkB (f : Tab → Tab) (s : State) : (updTab f s).ilkB = s.ilkB := rfl
@[simp] theorem updTab_ilkl (f : Tab → Tab) (s : State) : (updTab f s).ilkl = s.ilkl := rfl
@[simp] theorem updTab_tab (f : Tab → Tab) (s : State) : (updTab f s).tab = f s.tab := rfl
@[simp] theorem updTab_dhd (f : Tab → Tab) (s : State) : (updTab f s).dhd = s.dhd := rfl
@[simp] theorem updTab_ep (f : Tab → Tab) (s : State) : (updTab f s).ep = s.ep := rfl
@[simp] theorem updTab_tiles (f : Tab → Tab) (s : State) : (updTab f s).tiles = s.tiles := rfl
@[simp] theorem updTab_links (f : Tab → Tab) (s : State) : (updTab f s).links = s.links := rfl
@[simp] theorem updTab_tbl (f : Tab → Tab) (s : State) : (updTab f s).tbl = s.tbl := rfl
@[simp] theorem updTab_sto (f : Tab → Tab) (s : State) : (updTab f s).sto = s.sto := rfl
@[simp] theorem updTab_boot (f : Tab → Tab) (s : State) : (updTab f s).boot = s.boot := rfl
@[simp] theorem updTab_jrn (f : Tab → Tab) (s : State) : (updTab f s).jrn = s.jrn := rfl
@[simp] theorem updTab_ast (f : Tab → Tab) (s : State) : (updTab f s).ast = s.ast := rfl
@[simp] theorem updTab_tch (f : Tab → Tab) (s : State) : (updTab f s).tch = s.tch := rfl
@[simp] theorem updTab_hmk (f : Tab → Tab) (s : State) : (updTab f s).hmk = s.hmk := rfl
@[simp] theorem updTab_lmn (f : Tab → Tab) (s : State) : (updTab f s).lmn = s.lmn := rfl
@[simp] theorem updTab_pwr (f : Tab → Tab) (s : State) : (updTab f s).pwr = s.pwr := rfl

@[simp] theorem updDhd_pending (f : Dhd → Dhd) (s : State) : (updDhd f s).pending = s.pending := rfl
@[simp] theorem updDhd_variant (f : Dhd → Dhd) (s : State) : (updDhd f s).variant = s.variant := rfl
@[simp] theorem updDhd_free (f : Dhd → Dhd) (s : State) : (updDhd f s).free = s.free := rfl
@[simp] theorem updDhd_pages (f : Dhd → Dhd) (s : State) : (updDhd f s).pages = s.pages := rfl
@[simp] theorem updDhd_sys (f : Dhd → Dhd) (s : State) : (updDhd f s).sys = s.sys := rfl
@[simp] theorem updDhd_rst (f : Dhd → Dhd) (s : State) : (updDhd f s).rst = s.rst := rfl
@[simp] theorem updDhd_clkg (f : Dhd → Dhd) (s : State) : (updDhd f s).clkg = s.clkg := rfl
@[simp] theorem updDhd_queues (f : Dhd → Dhd) (s : State) : (updDhd f s).queues = s.queues := rfl
@[simp] theorem updDhd_fab (f : Dhd → Dhd) (s : State) : (updDhd f s).fab = s.fab := rfl
@[simp] theorem updDhd_arb (f : Dhd → Dhd) (s : State) : (updDhd f s).arb = s.arb := rfl
@[simp] theorem updDhd_tb (f : Dhd → Dhd) (s : State) : (updDhd f s).tb = s.tb := rfl
@[simp] theorem updDhd_tmr (f : Dhd → Dhd) (s : State) : (updDhd f s).tmr = s.tmr := rfl
@[simp] theorem updDhd_fcr (f : Dhd → Dhd) (s : State) : (updDhd f s).fcr = s.fcr := rfl
@[simp] theorem updDhd_crc (f : Dhd → Dhd) (s : State) : (updDhd f s).crc = s.crc := rfl
@[simp] theorem updDhd_crcRef (f : Dhd → Dhd) (s : State) : (updDhd f s).crcRef = s.crcRef := rfl
@[simp] theorem updDhd_pcie (f : Dhd → Dhd) (s : State) : (updDhd f s).pcie = s.pcie := rfl
@[simp] theorem updDhd_mgt (f : Dhd → Dhd) (s : State) : (updDhd f s).mgt = s.mgt := rfl
@[simp] theorem updDhd_dbg (f : Dhd → Dhd) (s : State) : (updDhd f s).dbg = s.dbg := rfl
@[simp] theorem updDhd_uart (f : Dhd → Dhd) (s : State) : (updDhd f s).uart = s.uart := rfl
@[simp] theorem updDhd_latch (f : Dhd → Dhd) (s : State) : (updDhd f s).latch = s.latch := rfl
@[simp] theorem updDhd_ilkA (f : Dhd → Dhd) (s : State) : (updDhd f s).ilkA = s.ilkA := rfl
@[simp] theorem updDhd_ilkB (f : Dhd → Dhd) (s : State) : (updDhd f s).ilkB = s.ilkB := rfl
@[simp] theorem updDhd_ilkl (f : Dhd → Dhd) (s : State) : (updDhd f s).ilkl = s.ilkl := rfl
@[simp] theorem updDhd_tab (f : Dhd → Dhd) (s : State) : (updDhd f s).tab = s.tab := rfl
@[simp] theorem updDhd_dhd (f : Dhd → Dhd) (s : State) : (updDhd f s).dhd = f s.dhd := rfl
@[simp] theorem updDhd_ep (f : Dhd → Dhd) (s : State) : (updDhd f s).ep = s.ep := rfl
@[simp] theorem updDhd_tiles (f : Dhd → Dhd) (s : State) : (updDhd f s).tiles = s.tiles := rfl
@[simp] theorem updDhd_links (f : Dhd → Dhd) (s : State) : (updDhd f s).links = s.links := rfl
@[simp] theorem updDhd_tbl (f : Dhd → Dhd) (s : State) : (updDhd f s).tbl = s.tbl := rfl
@[simp] theorem updDhd_sto (f : Dhd → Dhd) (s : State) : (updDhd f s).sto = s.sto := rfl
@[simp] theorem updDhd_boot (f : Dhd → Dhd) (s : State) : (updDhd f s).boot = s.boot := rfl
@[simp] theorem updDhd_jrn (f : Dhd → Dhd) (s : State) : (updDhd f s).jrn = s.jrn := rfl
@[simp] theorem updDhd_ast (f : Dhd → Dhd) (s : State) : (updDhd f s).ast = s.ast := rfl
@[simp] theorem updDhd_tch (f : Dhd → Dhd) (s : State) : (updDhd f s).tch = s.tch := rfl
@[simp] theorem updDhd_hmk (f : Dhd → Dhd) (s : State) : (updDhd f s).hmk = s.hmk := rfl
@[simp] theorem updDhd_lmn (f : Dhd → Dhd) (s : State) : (updDhd f s).lmn = s.lmn := rfl
@[simp] theorem updDhd_pwr (f : Dhd → Dhd) (s : State) : (updDhd f s).pwr = s.pwr := rfl

@[simp] theorem updTbl_pending (f : Tbl → Tbl) (s : State) : (updTbl f s).pending = s.pending := rfl
@[simp] theorem updTbl_variant (f : Tbl → Tbl) (s : State) : (updTbl f s).variant = s.variant := rfl
@[simp] theorem updTbl_free (f : Tbl → Tbl) (s : State) : (updTbl f s).free = s.free := rfl
@[simp] theorem updTbl_pages (f : Tbl → Tbl) (s : State) : (updTbl f s).pages = s.pages := rfl
@[simp] theorem updTbl_sys (f : Tbl → Tbl) (s : State) : (updTbl f s).sys = s.sys := rfl
@[simp] theorem updTbl_rst (f : Tbl → Tbl) (s : State) : (updTbl f s).rst = s.rst := rfl
@[simp] theorem updTbl_clkg (f : Tbl → Tbl) (s : State) : (updTbl f s).clkg = s.clkg := rfl
@[simp] theorem updTbl_queues (f : Tbl → Tbl) (s : State) : (updTbl f s).queues = s.queues := rfl
@[simp] theorem updTbl_fab (f : Tbl → Tbl) (s : State) : (updTbl f s).fab = s.fab := rfl
@[simp] theorem updTbl_arb (f : Tbl → Tbl) (s : State) : (updTbl f s).arb = s.arb := rfl
@[simp] theorem updTbl_tb (f : Tbl → Tbl) (s : State) : (updTbl f s).tb = s.tb := rfl
@[simp] theorem updTbl_tmr (f : Tbl → Tbl) (s : State) : (updTbl f s).tmr = s.tmr := rfl
@[simp] theorem updTbl_fcr (f : Tbl → Tbl) (s : State) : (updTbl f s).fcr = s.fcr := rfl
@[simp] theorem updTbl_crc (f : Tbl → Tbl) (s : State) : (updTbl f s).crc = s.crc := rfl
@[simp] theorem updTbl_crcRef (f : Tbl → Tbl) (s : State) : (updTbl f s).crcRef = s.crcRef := rfl
@[simp] theorem updTbl_pcie (f : Tbl → Tbl) (s : State) : (updTbl f s).pcie = s.pcie := rfl
@[simp] theorem updTbl_mgt (f : Tbl → Tbl) (s : State) : (updTbl f s).mgt = s.mgt := rfl
@[simp] theorem updTbl_dbg (f : Tbl → Tbl) (s : State) : (updTbl f s).dbg = s.dbg := rfl
@[simp] theorem updTbl_uart (f : Tbl → Tbl) (s : State) : (updTbl f s).uart = s.uart := rfl
@[simp] theorem updTbl_latch (f : Tbl → Tbl) (s : State) : (updTbl f s).latch = s.latch := rfl
@[simp] theorem updTbl_ilkA (f : Tbl → Tbl) (s : State) : (updTbl f s).ilkA = s.ilkA := rfl
@[simp] theorem updTbl_ilkB (f : Tbl → Tbl) (s : State) : (updTbl f s).ilkB = s.ilkB := rfl
@[simp] theorem updTbl_ilkl (f : Tbl → Tbl) (s : State) : (updTbl f s).ilkl = s.ilkl := rfl
@[simp] theorem updTbl_tab (f : Tbl → Tbl) (s : State) : (updTbl f s).tab = s.tab := rfl
@[simp] theorem updTbl_dhd (f : Tbl → Tbl) (s : State) : (updTbl f s).dhd = s.dhd := rfl
@[simp] theorem updTbl_ep (f : Tbl → Tbl) (s : State) : (updTbl f s).ep = s.ep := rfl
@[simp] theorem updTbl_tiles (f : Tbl → Tbl) (s : State) : (updTbl f s).tiles = s.tiles := rfl
@[simp] theorem updTbl_links (f : Tbl → Tbl) (s : State) : (updTbl f s).links = s.links := rfl
@[simp] theorem updTbl_tbl (f : Tbl → Tbl) (s : State) : (updTbl f s).tbl = f s.tbl := rfl
@[simp] theorem updTbl_sto (f : Tbl → Tbl) (s : State) : (updTbl f s).sto = s.sto := rfl
@[simp] theorem updTbl_boot (f : Tbl → Tbl) (s : State) : (updTbl f s).boot = s.boot := rfl
@[simp] theorem updTbl_jrn (f : Tbl → Tbl) (s : State) : (updTbl f s).jrn = s.jrn := rfl
@[simp] theorem updTbl_ast (f : Tbl → Tbl) (s : State) : (updTbl f s).ast = s.ast := rfl
@[simp] theorem updTbl_tch (f : Tbl → Tbl) (s : State) : (updTbl f s).tch = s.tch := rfl
@[simp] theorem updTbl_hmk (f : Tbl → Tbl) (s : State) : (updTbl f s).hmk = s.hmk := rfl
@[simp] theorem updTbl_lmn (f : Tbl → Tbl) (s : State) : (updTbl f s).lmn = s.lmn := rfl
@[simp] theorem updTbl_pwr (f : Tbl → Tbl) (s : State) : (updTbl f s).pwr = s.pwr := rfl

@[simp] theorem updSto_pending (f : Sto → Sto) (s : State) : (updSto f s).pending = s.pending := rfl
@[simp] theorem updSto_variant (f : Sto → Sto) (s : State) : (updSto f s).variant = s.variant := rfl
@[simp] theorem updSto_free (f : Sto → Sto) (s : State) : (updSto f s).free = s.free := rfl
@[simp] theorem updSto_pages (f : Sto → Sto) (s : State) : (updSto f s).pages = s.pages := rfl
@[simp] theorem updSto_sys (f : Sto → Sto) (s : State) : (updSto f s).sys = s.sys := rfl
@[simp] theorem updSto_rst (f : Sto → Sto) (s : State) : (updSto f s).rst = s.rst := rfl
@[simp] theorem updSto_clkg (f : Sto → Sto) (s : State) : (updSto f s).clkg = s.clkg := rfl
@[simp] theorem updSto_queues (f : Sto → Sto) (s : State) : (updSto f s).queues = s.queues := rfl
@[simp] theorem updSto_fab (f : Sto → Sto) (s : State) : (updSto f s).fab = s.fab := rfl
@[simp] theorem updSto_arb (f : Sto → Sto) (s : State) : (updSto f s).arb = s.arb := rfl
@[simp] theorem updSto_tb (f : Sto → Sto) (s : State) : (updSto f s).tb = s.tb := rfl
@[simp] theorem updSto_tmr (f : Sto → Sto) (s : State) : (updSto f s).tmr = s.tmr := rfl
@[simp] theorem updSto_fcr (f : Sto → Sto) (s : State) : (updSto f s).fcr = s.fcr := rfl
@[simp] theorem updSto_crc (f : Sto → Sto) (s : State) : (updSto f s).crc = s.crc := rfl
@[simp] theorem updSto_crcRef (f : Sto → Sto) (s : State) : (updSto f s).crcRef = s.crcRef := rfl
@[simp] theorem updSto_pcie (f : Sto → Sto) (s : State) : (updSto f s).pcie = s.pcie := rfl
@[simp] theorem updSto_mgt (f : Sto → Sto) (s : State) : (updSto f s).mgt = s.mgt := rfl
@[simp] theorem updSto_dbg (f : Sto → Sto) (s : State) : (updSto f s).dbg = s.dbg := rfl
@[simp] theorem updSto_uart (f : Sto → Sto) (s : State) : (updSto f s).uart = s.uart := rfl
@[simp] theorem updSto_latch (f : Sto → Sto) (s : State) : (updSto f s).latch = s.latch := rfl
@[simp] theorem updSto_ilkA (f : Sto → Sto) (s : State) : (updSto f s).ilkA = s.ilkA := rfl
@[simp] theorem updSto_ilkB (f : Sto → Sto) (s : State) : (updSto f s).ilkB = s.ilkB := rfl
@[simp] theorem updSto_ilkl (f : Sto → Sto) (s : State) : (updSto f s).ilkl = s.ilkl := rfl
@[simp] theorem updSto_tab (f : Sto → Sto) (s : State) : (updSto f s).tab = s.tab := rfl
@[simp] theorem updSto_dhd (f : Sto → Sto) (s : State) : (updSto f s).dhd = s.dhd := rfl
@[simp] theorem updSto_ep (f : Sto → Sto) (s : State) : (updSto f s).ep = s.ep := rfl
@[simp] theorem updSto_tiles (f : Sto → Sto) (s : State) : (updSto f s).tiles = s.tiles := rfl
@[simp] theorem updSto_links (f : Sto → Sto) (s : State) : (updSto f s).links = s.links := rfl
@[simp] theorem updSto_tbl (f : Sto → Sto) (s : State) : (updSto f s).tbl = s.tbl := rfl
@[simp] theorem updSto_sto (f : Sto → Sto) (s : State) : (updSto f s).sto = f s.sto := rfl
@[simp] theorem updSto_boot (f : Sto → Sto) (s : State) : (updSto f s).boot = s.boot := rfl
@[simp] theorem updSto_jrn (f : Sto → Sto) (s : State) : (updSto f s).jrn = s.jrn := rfl
@[simp] theorem updSto_ast (f : Sto → Sto) (s : State) : (updSto f s).ast = s.ast := rfl
@[simp] theorem updSto_tch (f : Sto → Sto) (s : State) : (updSto f s).tch = s.tch := rfl
@[simp] theorem updSto_hmk (f : Sto → Sto) (s : State) : (updSto f s).hmk = s.hmk := rfl
@[simp] theorem updSto_lmn (f : Sto → Sto) (s : State) : (updSto f s).lmn = s.lmn := rfl
@[simp] theorem updSto_pwr (f : Sto → Sto) (s : State) : (updSto f s).pwr = s.pwr := rfl

@[simp] theorem updBoot_pending (f : Boot → Boot) (s : State) : (updBoot f s).pending = s.pending := rfl
@[simp] theorem updBoot_variant (f : Boot → Boot) (s : State) : (updBoot f s).variant = s.variant := rfl
@[simp] theorem updBoot_free (f : Boot → Boot) (s : State) : (updBoot f s).free = s.free := rfl
@[simp] theorem updBoot_pages (f : Boot → Boot) (s : State) : (updBoot f s).pages = s.pages := rfl
@[simp] theorem updBoot_sys (f : Boot → Boot) (s : State) : (updBoot f s).sys = s.sys := rfl
@[simp] theorem updBoot_rst (f : Boot → Boot) (s : State) : (updBoot f s).rst = s.rst := rfl
@[simp] theorem updBoot_clkg (f : Boot → Boot) (s : State) : (updBoot f s).clkg = s.clkg := rfl
@[simp] theorem updBoot_queues (f : Boot → Boot) (s : State) : (updBoot f s).queues = s.queues := rfl
@[simp] theorem updBoot_fab (f : Boot → Boot) (s : State) : (updBoot f s).fab = s.fab := rfl
@[simp] theorem updBoot_arb (f : Boot → Boot) (s : State) : (updBoot f s).arb = s.arb := rfl
@[simp] theorem updBoot_tb (f : Boot → Boot) (s : State) : (updBoot f s).tb = s.tb := rfl
@[simp] theorem updBoot_tmr (f : Boot → Boot) (s : State) : (updBoot f s).tmr = s.tmr := rfl
@[simp] theorem updBoot_fcr (f : Boot → Boot) (s : State) : (updBoot f s).fcr = s.fcr := rfl
@[simp] theorem updBoot_crc (f : Boot → Boot) (s : State) : (updBoot f s).crc = s.crc := rfl
@[simp] theorem updBoot_crcRef (f : Boot → Boot) (s : State) : (updBoot f s).crcRef = s.crcRef := rfl
@[simp] theorem updBoot_pcie (f : Boot → Boot) (s : State) : (updBoot f s).pcie = s.pcie := rfl
@[simp] theorem updBoot_mgt (f : Boot → Boot) (s : State) : (updBoot f s).mgt = s.mgt := rfl
@[simp] theorem updBoot_dbg (f : Boot → Boot) (s : State) : (updBoot f s).dbg = s.dbg := rfl
@[simp] theorem updBoot_uart (f : Boot → Boot) (s : State) : (updBoot f s).uart = s.uart := rfl
@[simp] theorem updBoot_latch (f : Boot → Boot) (s : State) : (updBoot f s).latch = s.latch := rfl
@[simp] theorem updBoot_ilkA (f : Boot → Boot) (s : State) : (updBoot f s).ilkA = s.ilkA := rfl
@[simp] theorem updBoot_ilkB (f : Boot → Boot) (s : State) : (updBoot f s).ilkB = s.ilkB := rfl
@[simp] theorem updBoot_ilkl (f : Boot → Boot) (s : State) : (updBoot f s).ilkl = s.ilkl := rfl
@[simp] theorem updBoot_tab (f : Boot → Boot) (s : State) : (updBoot f s).tab = s.tab := rfl
@[simp] theorem updBoot_dhd (f : Boot → Boot) (s : State) : (updBoot f s).dhd = s.dhd := rfl
@[simp] theorem updBoot_ep (f : Boot → Boot) (s : State) : (updBoot f s).ep = s.ep := rfl
@[simp] theorem updBoot_tiles (f : Boot → Boot) (s : State) : (updBoot f s).tiles = s.tiles := rfl
@[simp] theorem updBoot_links (f : Boot → Boot) (s : State) : (updBoot f s).links = s.links := rfl
@[simp] theorem updBoot_tbl (f : Boot → Boot) (s : State) : (updBoot f s).tbl = s.tbl := rfl
@[simp] theorem updBoot_sto (f : Boot → Boot) (s : State) : (updBoot f s).sto = s.sto := rfl
@[simp] theorem updBoot_boot (f : Boot → Boot) (s : State) : (updBoot f s).boot = f s.boot := rfl
@[simp] theorem updBoot_jrn (f : Boot → Boot) (s : State) : (updBoot f s).jrn = s.jrn := rfl
@[simp] theorem updBoot_ast (f : Boot → Boot) (s : State) : (updBoot f s).ast = s.ast := rfl
@[simp] theorem updBoot_tch (f : Boot → Boot) (s : State) : (updBoot f s).tch = s.tch := rfl
@[simp] theorem updBoot_hmk (f : Boot → Boot) (s : State) : (updBoot f s).hmk = s.hmk := rfl
@[simp] theorem updBoot_lmn (f : Boot → Boot) (s : State) : (updBoot f s).lmn = s.lmn := rfl
@[simp] theorem updBoot_pwr (f : Boot → Boot) (s : State) : (updBoot f s).pwr = s.pwr := rfl

@[simp] theorem updJrn_pending (f : Jrn → Jrn) (s : State) : (updJrn f s).pending = s.pending := rfl
@[simp] theorem updJrn_variant (f : Jrn → Jrn) (s : State) : (updJrn f s).variant = s.variant := rfl
@[simp] theorem updJrn_free (f : Jrn → Jrn) (s : State) : (updJrn f s).free = s.free := rfl
@[simp] theorem updJrn_pages (f : Jrn → Jrn) (s : State) : (updJrn f s).pages = s.pages := rfl
@[simp] theorem updJrn_sys (f : Jrn → Jrn) (s : State) : (updJrn f s).sys = s.sys := rfl
@[simp] theorem updJrn_rst (f : Jrn → Jrn) (s : State) : (updJrn f s).rst = s.rst := rfl
@[simp] theorem updJrn_clkg (f : Jrn → Jrn) (s : State) : (updJrn f s).clkg = s.clkg := rfl
@[simp] theorem updJrn_queues (f : Jrn → Jrn) (s : State) : (updJrn f s).queues = s.queues := rfl
@[simp] theorem updJrn_fab (f : Jrn → Jrn) (s : State) : (updJrn f s).fab = s.fab := rfl
@[simp] theorem updJrn_arb (f : Jrn → Jrn) (s : State) : (updJrn f s).arb = s.arb := rfl
@[simp] theorem updJrn_tb (f : Jrn → Jrn) (s : State) : (updJrn f s).tb = s.tb := rfl
@[simp] theorem updJrn_tmr (f : Jrn → Jrn) (s : State) : (updJrn f s).tmr = s.tmr := rfl
@[simp] theorem updJrn_fcr (f : Jrn → Jrn) (s : State) : (updJrn f s).fcr = s.fcr := rfl
@[simp] theorem updJrn_crc (f : Jrn → Jrn) (s : State) : (updJrn f s).crc = s.crc := rfl
@[simp] theorem updJrn_crcRef (f : Jrn → Jrn) (s : State) : (updJrn f s).crcRef = s.crcRef := rfl
@[simp] theorem updJrn_pcie (f : Jrn → Jrn) (s : State) : (updJrn f s).pcie = s.pcie := rfl
@[simp] theorem updJrn_mgt (f : Jrn → Jrn) (s : State) : (updJrn f s).mgt = s.mgt := rfl
@[simp] theorem updJrn_dbg (f : Jrn → Jrn) (s : State) : (updJrn f s).dbg = s.dbg := rfl
@[simp] theorem updJrn_uart (f : Jrn → Jrn) (s : State) : (updJrn f s).uart = s.uart := rfl
@[simp] theorem updJrn_latch (f : Jrn → Jrn) (s : State) : (updJrn f s).latch = s.latch := rfl
@[simp] theorem updJrn_ilkA (f : Jrn → Jrn) (s : State) : (updJrn f s).ilkA = s.ilkA := rfl
@[simp] theorem updJrn_ilkB (f : Jrn → Jrn) (s : State) : (updJrn f s).ilkB = s.ilkB := rfl
@[simp] theorem updJrn_ilkl (f : Jrn → Jrn) (s : State) : (updJrn f s).ilkl = s.ilkl := rfl
@[simp] theorem updJrn_tab (f : Jrn → Jrn) (s : State) : (updJrn f s).tab = s.tab := rfl
@[simp] theorem updJrn_dhd (f : Jrn → Jrn) (s : State) : (updJrn f s).dhd = s.dhd := rfl
@[simp] theorem updJrn_ep (f : Jrn → Jrn) (s : State) : (updJrn f s).ep = s.ep := rfl
@[simp] theorem updJrn_tiles (f : Jrn → Jrn) (s : State) : (updJrn f s).tiles = s.tiles := rfl
@[simp] theorem updJrn_links (f : Jrn → Jrn) (s : State) : (updJrn f s).links = s.links := rfl
@[simp] theorem updJrn_tbl (f : Jrn → Jrn) (s : State) : (updJrn f s).tbl = s.tbl := rfl
@[simp] theorem updJrn_sto (f : Jrn → Jrn) (s : State) : (updJrn f s).sto = s.sto := rfl
@[simp] theorem updJrn_boot (f : Jrn → Jrn) (s : State) : (updJrn f s).boot = s.boot := rfl
@[simp] theorem updJrn_jrn (f : Jrn → Jrn) (s : State) : (updJrn f s).jrn = f s.jrn := rfl
@[simp] theorem updJrn_ast (f : Jrn → Jrn) (s : State) : (updJrn f s).ast = s.ast := rfl
@[simp] theorem updJrn_tch (f : Jrn → Jrn) (s : State) : (updJrn f s).tch = s.tch := rfl
@[simp] theorem updJrn_hmk (f : Jrn → Jrn) (s : State) : (updJrn f s).hmk = s.hmk := rfl
@[simp] theorem updJrn_lmn (f : Jrn → Jrn) (s : State) : (updJrn f s).lmn = s.lmn := rfl
@[simp] theorem updJrn_pwr (f : Jrn → Jrn) (s : State) : (updJrn f s).pwr = s.pwr := rfl

@[simp] theorem updAst_pending (f : Ast → Ast) (s : State) : (updAst f s).pending = s.pending := rfl
@[simp] theorem updAst_variant (f : Ast → Ast) (s : State) : (updAst f s).variant = s.variant := rfl
@[simp] theorem updAst_free (f : Ast → Ast) (s : State) : (updAst f s).free = s.free := rfl
@[simp] theorem updAst_pages (f : Ast → Ast) (s : State) : (updAst f s).pages = s.pages := rfl
@[simp] theorem updAst_sys (f : Ast → Ast) (s : State) : (updAst f s).sys = s.sys := rfl
@[simp] theorem updAst_rst (f : Ast → Ast) (s : State) : (updAst f s).rst = s.rst := rfl
@[simp] theorem updAst_clkg (f : Ast → Ast) (s : State) : (updAst f s).clkg = s.clkg := rfl
@[simp] theorem updAst_queues (f : Ast → Ast) (s : State) : (updAst f s).queues = s.queues := rfl
@[simp] theorem updAst_fab (f : Ast → Ast) (s : State) : (updAst f s).fab = s.fab := rfl
@[simp] theorem updAst_arb (f : Ast → Ast) (s : State) : (updAst f s).arb = s.arb := rfl
@[simp] theorem updAst_tb (f : Ast → Ast) (s : State) : (updAst f s).tb = s.tb := rfl
@[simp] theorem updAst_tmr (f : Ast → Ast) (s : State) : (updAst f s).tmr = s.tmr := rfl
@[simp] theorem updAst_fcr (f : Ast → Ast) (s : State) : (updAst f s).fcr = s.fcr := rfl
@[simp] theorem updAst_crc (f : Ast → Ast) (s : State) : (updAst f s).crc = s.crc := rfl
@[simp] theorem updAst_crcRef (f : Ast → Ast) (s : State) : (updAst f s).crcRef = s.crcRef := rfl
@[simp] theorem updAst_pcie (f : Ast → Ast) (s : State) : (updAst f s).pcie = s.pcie := rfl
@[simp] theorem updAst_mgt (f : Ast → Ast) (s : State) : (updAst f s).mgt = s.mgt := rfl
@[simp] theorem updAst_dbg (f : Ast → Ast) (s : State) : (updAst f s).dbg = s.dbg := rfl
@[simp] theorem updAst_uart (f : Ast → Ast) (s : State) : (updAst f s).uart = s.uart := rfl
@[simp] theorem updAst_latch (f : Ast → Ast) (s : State) : (updAst f s).latch = s.latch := rfl
@[simp] theorem updAst_ilkA (f : Ast → Ast) (s : State) : (updAst f s).ilkA = s.ilkA := rfl
@[simp] theorem updAst_ilkB (f : Ast → Ast) (s : State) : (updAst f s).ilkB = s.ilkB := rfl
@[simp] theorem updAst_ilkl (f : Ast → Ast) (s : State) : (updAst f s).ilkl = s.ilkl := rfl
@[simp] theorem updAst_tab (f : Ast → Ast) (s : State) : (updAst f s).tab = s.tab := rfl
@[simp] theorem updAst_dhd (f : Ast → Ast) (s : State) : (updAst f s).dhd = s.dhd := rfl
@[simp] theorem updAst_ep (f : Ast → Ast) (s : State) : (updAst f s).ep = s.ep := rfl
@[simp] theorem updAst_tiles (f : Ast → Ast) (s : State) : (updAst f s).tiles = s.tiles := rfl
@[simp] theorem updAst_links (f : Ast → Ast) (s : State) : (updAst f s).links = s.links := rfl
@[simp] theorem updAst_tbl (f : Ast → Ast) (s : State) : (updAst f s).tbl = s.tbl := rfl
@[simp] theorem updAst_sto (f : Ast → Ast) (s : State) : (updAst f s).sto = s.sto := rfl
@[simp] theorem updAst_boot (f : Ast → Ast) (s : State) : (updAst f s).boot = s.boot := rfl
@[simp] theorem updAst_jrn (f : Ast → Ast) (s : State) : (updAst f s).jrn = s.jrn := rfl
@[simp] theorem updAst_ast (f : Ast → Ast) (s : State) : (updAst f s).ast = f s.ast := rfl
@[simp] theorem updAst_tch (f : Ast → Ast) (s : State) : (updAst f s).tch = s.tch := rfl
@[simp] theorem updAst_hmk (f : Ast → Ast) (s : State) : (updAst f s).hmk = s.hmk := rfl
@[simp] theorem updAst_lmn (f : Ast → Ast) (s : State) : (updAst f s).lmn = s.lmn := rfl
@[simp] theorem updAst_pwr (f : Ast → Ast) (s : State) : (updAst f s).pwr = s.pwr := rfl

@[simp] theorem updHmk_pending (f : Hmk → Hmk) (s : State) : (updHmk f s).pending = s.pending := rfl
@[simp] theorem updHmk_variant (f : Hmk → Hmk) (s : State) : (updHmk f s).variant = s.variant := rfl
@[simp] theorem updHmk_free (f : Hmk → Hmk) (s : State) : (updHmk f s).free = s.free := rfl
@[simp] theorem updHmk_pages (f : Hmk → Hmk) (s : State) : (updHmk f s).pages = s.pages := rfl
@[simp] theorem updHmk_sys (f : Hmk → Hmk) (s : State) : (updHmk f s).sys = s.sys := rfl
@[simp] theorem updHmk_rst (f : Hmk → Hmk) (s : State) : (updHmk f s).rst = s.rst := rfl
@[simp] theorem updHmk_clkg (f : Hmk → Hmk) (s : State) : (updHmk f s).clkg = s.clkg := rfl
@[simp] theorem updHmk_queues (f : Hmk → Hmk) (s : State) : (updHmk f s).queues = s.queues := rfl
@[simp] theorem updHmk_fab (f : Hmk → Hmk) (s : State) : (updHmk f s).fab = s.fab := rfl
@[simp] theorem updHmk_arb (f : Hmk → Hmk) (s : State) : (updHmk f s).arb = s.arb := rfl
@[simp] theorem updHmk_tb (f : Hmk → Hmk) (s : State) : (updHmk f s).tb = s.tb := rfl
@[simp] theorem updHmk_tmr (f : Hmk → Hmk) (s : State) : (updHmk f s).tmr = s.tmr := rfl
@[simp] theorem updHmk_fcr (f : Hmk → Hmk) (s : State) : (updHmk f s).fcr = s.fcr := rfl
@[simp] theorem updHmk_crc (f : Hmk → Hmk) (s : State) : (updHmk f s).crc = s.crc := rfl
@[simp] theorem updHmk_crcRef (f : Hmk → Hmk) (s : State) : (updHmk f s).crcRef = s.crcRef := rfl
@[simp] theorem updHmk_pcie (f : Hmk → Hmk) (s : State) : (updHmk f s).pcie = s.pcie := rfl
@[simp] theorem updHmk_mgt (f : Hmk → Hmk) (s : State) : (updHmk f s).mgt = s.mgt := rfl
@[simp] theorem updHmk_dbg (f : Hmk → Hmk) (s : State) : (updHmk f s).dbg = s.dbg := rfl
@[simp] theorem updHmk_uart (f : Hmk → Hmk) (s : State) : (updHmk f s).uart = s.uart := rfl
@[simp] theorem updHmk_latch (f : Hmk → Hmk) (s : State) : (updHmk f s).latch = s.latch := rfl
@[simp] theorem updHmk_ilkA (f : Hmk → Hmk) (s : State) : (updHmk f s).ilkA = s.ilkA := rfl
@[simp] theorem updHmk_ilkB (f : Hmk → Hmk) (s : State) : (updHmk f s).ilkB = s.ilkB := rfl
@[simp] theorem updHmk_ilkl (f : Hmk → Hmk) (s : State) : (updHmk f s).ilkl = s.ilkl := rfl
@[simp] theorem updHmk_tab (f : Hmk → Hmk) (s : State) : (updHmk f s).tab = s.tab := rfl
@[simp] theorem updHmk_dhd (f : Hmk → Hmk) (s : State) : (updHmk f s).dhd = s.dhd := rfl
@[simp] theorem updHmk_ep (f : Hmk → Hmk) (s : State) : (updHmk f s).ep = s.ep := rfl
@[simp] theorem updHmk_tiles (f : Hmk → Hmk) (s : State) : (updHmk f s).tiles = s.tiles := rfl
@[simp] theorem updHmk_links (f : Hmk → Hmk) (s : State) : (updHmk f s).links = s.links := rfl
@[simp] theorem updHmk_tbl (f : Hmk → Hmk) (s : State) : (updHmk f s).tbl = s.tbl := rfl
@[simp] theorem updHmk_sto (f : Hmk → Hmk) (s : State) : (updHmk f s).sto = s.sto := rfl
@[simp] theorem updHmk_boot (f : Hmk → Hmk) (s : State) : (updHmk f s).boot = s.boot := rfl
@[simp] theorem updHmk_jrn (f : Hmk → Hmk) (s : State) : (updHmk f s).jrn = s.jrn := rfl
@[simp] theorem updHmk_ast (f : Hmk → Hmk) (s : State) : (updHmk f s).ast = s.ast := rfl
@[simp] theorem updHmk_tch (f : Hmk → Hmk) (s : State) : (updHmk f s).tch = s.tch := rfl
@[simp] theorem updHmk_hmk (f : Hmk → Hmk) (s : State) : (updHmk f s).hmk = f s.hmk := rfl
@[simp] theorem updHmk_lmn (f : Hmk → Hmk) (s : State) : (updHmk f s).lmn = s.lmn := rfl
@[simp] theorem updHmk_pwr (f : Hmk → Hmk) (s : State) : (updHmk f s).pwr = s.pwr := rfl

@[simp] theorem updLmn_pending (f : Lmn → Lmn) (s : State) : (updLmn f s).pending = s.pending := rfl
@[simp] theorem updLmn_variant (f : Lmn → Lmn) (s : State) : (updLmn f s).variant = s.variant := rfl
@[simp] theorem updLmn_free (f : Lmn → Lmn) (s : State) : (updLmn f s).free = s.free := rfl
@[simp] theorem updLmn_pages (f : Lmn → Lmn) (s : State) : (updLmn f s).pages = s.pages := rfl
@[simp] theorem updLmn_sys (f : Lmn → Lmn) (s : State) : (updLmn f s).sys = s.sys := rfl
@[simp] theorem updLmn_rst (f : Lmn → Lmn) (s : State) : (updLmn f s).rst = s.rst := rfl
@[simp] theorem updLmn_clkg (f : Lmn → Lmn) (s : State) : (updLmn f s).clkg = s.clkg := rfl
@[simp] theorem updLmn_queues (f : Lmn → Lmn) (s : State) : (updLmn f s).queues = s.queues := rfl
@[simp] theorem updLmn_fab (f : Lmn → Lmn) (s : State) : (updLmn f s).fab = s.fab := rfl
@[simp] theorem updLmn_arb (f : Lmn → Lmn) (s : State) : (updLmn f s).arb = s.arb := rfl
@[simp] theorem updLmn_tb (f : Lmn → Lmn) (s : State) : (updLmn f s).tb = s.tb := rfl
@[simp] theorem updLmn_tmr (f : Lmn → Lmn) (s : State) : (updLmn f s).tmr = s.tmr := rfl
@[simp] theorem updLmn_fcr (f : Lmn → Lmn) (s : State) : (updLmn f s).fcr = s.fcr := rfl
@[simp] theorem updLmn_crc (f : Lmn → Lmn) (s : State) : (updLmn f s).crc = s.crc := rfl
@[simp] theorem updLmn_crcRef (f : Lmn → Lmn) (s : State) : (updLmn f s).crcRef = s.crcRef := rfl
@[simp] theorem updLmn_pcie (f : Lmn → Lmn) (s : State) : (updLmn f s).pcie = s.pcie := rfl
@[simp] theorem updLmn_mgt (f : Lmn → Lmn) (s : State) : (updLmn f s).mgt = s.mgt := rfl
@[simp] theorem updLmn_dbg (f : Lmn → Lmn) (s : State) : (updLmn f s).dbg = s.dbg := rfl
@[simp] theorem updLmn_uart (f : Lmn → Lmn) (s : State) : (updLmn f s).uart = s.uart := rfl
@[simp] theorem updLmn_latch (f : Lmn → Lmn) (s : State) : (updLmn f s).latch = s.latch := rfl
@[simp] theorem updLmn_ilkA (f : Lmn → Lmn) (s : State) : (updLmn f s).ilkA = s.ilkA := rfl
@[simp] theorem updLmn_ilkB (f : Lmn → Lmn) (s : State) : (updLmn f s).ilkB = s.ilkB := rfl
@[simp] theorem updLmn_ilkl (f : Lmn → Lmn) (s : State) : (updLmn f s).ilkl = s.ilkl := rfl
@[simp] theorem updLmn_tab (f : Lmn → Lmn) (s : State) : (updLmn f s).tab = s.tab := rfl
@[simp] theorem updLmn_dhd (f : Lmn → Lmn) (s : State) : (updLmn f s).dhd = s.dhd := rfl
@[simp] theorem updLmn_ep (f : Lmn → Lmn) (s : State) : (updLmn f s).ep = s.ep := rfl
@[simp] theorem updLmn_tiles (f : Lmn → Lmn) (s : State) : (updLmn f s).tiles = s.tiles := rfl
@[simp] theorem updLmn_links (f : Lmn → Lmn) (s : State) : (updLmn f s).links = s.links := rfl
@[simp] theorem updLmn_tbl (f : Lmn → Lmn) (s : State) : (updLmn f s).tbl = s.tbl := rfl
@[simp] theorem updLmn_sto (f : Lmn → Lmn) (s : State) : (updLmn f s).sto = s.sto := rfl
@[simp] theorem updLmn_boot (f : Lmn → Lmn) (s : State) : (updLmn f s).boot = s.boot := rfl
@[simp] theorem updLmn_jrn (f : Lmn → Lmn) (s : State) : (updLmn f s).jrn = s.jrn := rfl
@[simp] theorem updLmn_ast (f : Lmn → Lmn) (s : State) : (updLmn f s).ast = s.ast := rfl
@[simp] theorem updLmn_tch (f : Lmn → Lmn) (s : State) : (updLmn f s).tch = s.tch := rfl
@[simp] theorem updLmn_hmk (f : Lmn → Lmn) (s : State) : (updLmn f s).hmk = s.hmk := rfl
@[simp] theorem updLmn_lmn (f : Lmn → Lmn) (s : State) : (updLmn f s).lmn = f s.lmn := rfl
@[simp] theorem updLmn_pwr (f : Lmn → Lmn) (s : State) : (updLmn f s).pwr = s.pwr := rfl

@[simp] theorem updPwr_pending (f : Pwr → Pwr) (s : State) : (updPwr f s).pending = s.pending := rfl
@[simp] theorem updPwr_variant (f : Pwr → Pwr) (s : State) : (updPwr f s).variant = s.variant := rfl
@[simp] theorem updPwr_free (f : Pwr → Pwr) (s : State) : (updPwr f s).free = s.free := rfl
@[simp] theorem updPwr_pages (f : Pwr → Pwr) (s : State) : (updPwr f s).pages = s.pages := rfl
@[simp] theorem updPwr_sys (f : Pwr → Pwr) (s : State) : (updPwr f s).sys = s.sys := rfl
@[simp] theorem updPwr_rst (f : Pwr → Pwr) (s : State) : (updPwr f s).rst = s.rst := rfl
@[simp] theorem updPwr_clkg (f : Pwr → Pwr) (s : State) : (updPwr f s).clkg = s.clkg := rfl
@[simp] theorem updPwr_queues (f : Pwr → Pwr) (s : State) : (updPwr f s).queues = s.queues := rfl
@[simp] theorem updPwr_fab (f : Pwr → Pwr) (s : State) : (updPwr f s).fab = s.fab := rfl
@[simp] theorem updPwr_arb (f : Pwr → Pwr) (s : State) : (updPwr f s).arb = s.arb := rfl
@[simp] theorem updPwr_tb (f : Pwr → Pwr) (s : State) : (updPwr f s).tb = s.tb := rfl
@[simp] theorem updPwr_tmr (f : Pwr → Pwr) (s : State) : (updPwr f s).tmr = s.tmr := rfl
@[simp] theorem updPwr_fcr (f : Pwr → Pwr) (s : State) : (updPwr f s).fcr = s.fcr := rfl
@[simp] theorem updPwr_crc (f : Pwr → Pwr) (s : State) : (updPwr f s).crc = s.crc := rfl
@[simp] theorem updPwr_crcRef (f : Pwr → Pwr) (s : State) : (updPwr f s).crcRef = s.crcRef := rfl
@[simp] theorem updPwr_pcie (f : Pwr → Pwr) (s : State) : (updPwr f s).pcie = s.pcie := rfl
@[simp] theorem updPwr_mgt (f : Pwr → Pwr) (s : State) : (updPwr f s).mgt = s.mgt := rfl
@[simp] theorem updPwr_dbg (f : Pwr → Pwr) (s : State) : (updPwr f s).dbg = s.dbg := rfl
@[simp] theorem updPwr_uart (f : Pwr → Pwr) (s : State) : (updPwr f s).uart = s.uart := rfl
@[simp] theorem updPwr_latch (f : Pwr → Pwr) (s : State) : (updPwr f s).latch = s.latch := rfl
@[simp] theorem updPwr_ilkA (f : Pwr → Pwr) (s : State) : (updPwr f s).ilkA = s.ilkA := rfl
@[simp] theorem updPwr_ilkB (f : Pwr → Pwr) (s : State) : (updPwr f s).ilkB = s.ilkB := rfl
@[simp] theorem updPwr_ilkl (f : Pwr → Pwr) (s : State) : (updPwr f s).ilkl = s.ilkl := rfl
@[simp] theorem updPwr_tab (f : Pwr → Pwr) (s : State) : (updPwr f s).tab = s.tab := rfl
@[simp] theorem updPwr_dhd (f : Pwr → Pwr) (s : State) : (updPwr f s).dhd = s.dhd := rfl
@[simp] theorem updPwr_ep (f : Pwr → Pwr) (s : State) : (updPwr f s).ep = s.ep := rfl
@[simp] theorem updPwr_tiles (f : Pwr → Pwr) (s : State) : (updPwr f s).tiles = s.tiles := rfl
@[simp] theorem updPwr_links (f : Pwr → Pwr) (s : State) : (updPwr f s).links = s.links := rfl
@[simp] theorem updPwr_tbl (f : Pwr → Pwr) (s : State) : (updPwr f s).tbl = s.tbl := rfl
@[simp] theorem updPwr_sto (f : Pwr → Pwr) (s : State) : (updPwr f s).sto = s.sto := rfl
@[simp] theorem updPwr_boot (f : Pwr → Pwr) (s : State) : (updPwr f s).boot = s.boot := rfl
@[simp] theorem updPwr_jrn (f : Pwr → Pwr) (s : State) : (updPwr f s).jrn = s.jrn := rfl
@[simp] theorem updPwr_ast (f : Pwr → Pwr) (s : State) : (updPwr f s).ast = s.ast := rfl
@[simp] theorem updPwr_tch (f : Pwr → Pwr) (s : State) : (updPwr f s).tch = s.tch := rfl
@[simp] theorem updPwr_hmk (f : Pwr → Pwr) (s : State) : (updPwr f s).hmk = s.hmk := rfl
@[simp] theorem updPwr_lmn (f : Pwr → Pwr) (s : State) : (updPwr f s).lmn = s.lmn := rfl
@[simp] theorem updPwr_pwr (f : Pwr → Pwr) (s : State) : (updPwr f s).pwr = f s.pwr := rfl

@[simp] theorem updSys_pending (f : Sys → Sys) (s : State) : (updSys f s).pending = s.pending := rfl
@[simp] theorem updSys_variant (f : Sys → Sys) (s : State) : (updSys f s).variant = s.variant := rfl
@[simp] theorem updSys_free (f : Sys → Sys) (s : State) : (updSys f s).free = s.free := rfl
@[simp] theorem updSys_pages (f : Sys → Sys) (s : State) : (updSys f s).pages = s.pages := rfl
@[simp] theorem updSys_sys (f : Sys → Sys) (s : State) : (updSys f s).sys = f s.sys := rfl
@[simp] theorem updSys_rst (f : Sys → Sys) (s : State) : (updSys f s).rst = s.rst := rfl
@[simp] theorem updSys_clkg (f : Sys → Sys) (s : State) : (updSys f s).clkg = s.clkg := rfl
@[simp] theorem updSys_queues (f : Sys → Sys) (s : State) : (updSys f s).queues = s.queues := rfl
@[simp] theorem updSys_fab (f : Sys → Sys) (s : State) : (updSys f s).fab = s.fab := rfl
@[simp] theorem updSys_arb (f : Sys → Sys) (s : State) : (updSys f s).arb = s.arb := rfl
@[simp] theorem updSys_tb (f : Sys → Sys) (s : State) : (updSys f s).tb = s.tb := rfl
@[simp] theorem updSys_tmr (f : Sys → Sys) (s : State) : (updSys f s).tmr = s.tmr := rfl
@[simp] theorem updSys_fcr (f : Sys → Sys) (s : State) : (updSys f s).fcr = s.fcr := rfl
@[simp] theorem updSys_crc (f : Sys → Sys) (s : State) : (updSys f s).crc = s.crc := rfl
@[simp] theorem updSys_crcRef (f : Sys → Sys) (s : State) : (updSys f s).crcRef = s.crcRef := rfl
@[simp] theorem updSys_pcie (f : Sys → Sys) (s : State) : (updSys f s).pcie = s.pcie := rfl
@[simp] theorem updSys_mgt (f : Sys → Sys) (s : State) : (updSys f s).mgt = s.mgt := rfl
@[simp] theorem updSys_dbg (f : Sys → Sys) (s : State) : (updSys f s).dbg = s.dbg := rfl
@[simp] theorem updSys_uart (f : Sys → Sys) (s : State) : (updSys f s).uart = s.uart := rfl
@[simp] theorem updSys_latch (f : Sys → Sys) (s : State) : (updSys f s).latch = s.latch := rfl
@[simp] theorem updSys_ilkA (f : Sys → Sys) (s : State) : (updSys f s).ilkA = s.ilkA := rfl
@[simp] theorem updSys_ilkB (f : Sys → Sys) (s : State) : (updSys f s).ilkB = s.ilkB := rfl
@[simp] theorem updSys_ilkl (f : Sys → Sys) (s : State) : (updSys f s).ilkl = s.ilkl := rfl
@[simp] theorem updSys_tab (f : Sys → Sys) (s : State) : (updSys f s).tab = s.tab := rfl
@[simp] theorem updSys_dhd (f : Sys → Sys) (s : State) : (updSys f s).dhd = s.dhd := rfl
@[simp] theorem updSys_ep (f : Sys → Sys) (s : State) : (updSys f s).ep = s.ep := rfl
@[simp] theorem updSys_tiles (f : Sys → Sys) (s : State) : (updSys f s).tiles = s.tiles := rfl
@[simp] theorem updSys_links (f : Sys → Sys) (s : State) : (updSys f s).links = s.links := rfl
@[simp] theorem updSys_tbl (f : Sys → Sys) (s : State) : (updSys f s).tbl = s.tbl := rfl
@[simp] theorem updSys_sto (f : Sys → Sys) (s : State) : (updSys f s).sto = s.sto := rfl
@[simp] theorem updSys_boot (f : Sys → Sys) (s : State) : (updSys f s).boot = s.boot := rfl
@[simp] theorem updSys_jrn (f : Sys → Sys) (s : State) : (updSys f s).jrn = s.jrn := rfl
@[simp] theorem updSys_ast (f : Sys → Sys) (s : State) : (updSys f s).ast = s.ast := rfl
@[simp] theorem updSys_tch (f : Sys → Sys) (s : State) : (updSys f s).tch = s.tch := rfl
@[simp] theorem updSys_hmk (f : Sys → Sys) (s : State) : (updSys f s).hmk = s.hmk := rfl
@[simp] theorem updSys_lmn (f : Sys → Sys) (s : State) : (updSys f s).lmn = s.lmn := rfl
@[simp] theorem updSys_pwr (f : Sys → Sys) (s : State) : (updSys f s).pwr = s.pwr := rfl

@[simp] theorem updIlkl_pending (f : Ilkl → Ilkl) (s : State) : (updIlkl f s).pending = s.pending := rfl
@[simp] theorem updIlkl_variant (f : Ilkl → Ilkl) (s : State) : (updIlkl f s).variant = s.variant := rfl
@[simp] theorem updIlkl_free (f : Ilkl → Ilkl) (s : State) : (updIlkl f s).free = s.free := rfl
@[simp] theorem updIlkl_pages (f : Ilkl → Ilkl) (s : State) : (updIlkl f s).pages = s.pages := rfl
@[simp] theorem updIlkl_sys (f : Ilkl → Ilkl) (s : State) : (updIlkl f s).sys = s.sys := rfl
@[simp] theorem updIlkl_rst (f : Ilkl → Ilkl) (s : State) : (updIlkl f s).rst = s.rst := rfl
@[simp] theorem updIlkl_clkg (f : Ilkl → Ilkl) (s : State) : (updIlkl f s).clkg = s.clkg := rfl
@[simp] theorem updIlkl_queues (f : Ilkl → Ilkl) (s : State) : (updIlkl f s).queues = s.queues := rfl
@[simp] theorem updIlkl_fab (f : Ilkl → Ilkl) (s : State) : (updIlkl f s).fab = s.fab := rfl
@[simp] theorem updIlkl_arb (f : Ilkl → Ilkl) (s : State) : (updIlkl f s).arb = s.arb := rfl
@[simp] theorem updIlkl_tb (f : Ilkl → Ilkl) (s : State) : (updIlkl f s).tb = s.tb := rfl
@[simp] theorem updIlkl_tmr (f : Ilkl → Ilkl) (s : State) : (updIlkl f s).tmr = s.tmr := rfl
@[simp] theorem updIlkl_fcr (f : Ilkl → Ilkl) (s : State) : (updIlkl f s).fcr = s.fcr := rfl
@[simp] theorem updIlkl_crc (f : Ilkl → Ilkl) (s : State) : (updIlkl f s).crc = s.crc := rfl
@[simp] theorem updIlkl_crcRef (f : Ilkl → Ilkl) (s : State) : (updIlkl f s).crcRef = s.crcRef := rfl
@[simp] theorem updIlkl_pcie (f : Ilkl → Ilkl) (s : State) : (updIlkl f s).pcie = s.pcie := rfl
@[simp] theorem updIlkl_mgt (f : Ilkl → Ilkl) (s : State) : (updIlkl f s).mgt = s.mgt := rfl
@[simp] theorem updIlkl_dbg (f : Ilkl → Ilkl) (s : State) : (updIlkl f s).dbg = s.dbg := rfl
@[simp] theorem updIlkl_uart (f : Ilkl → Ilkl) (s : State) : (updIlkl f s).uart = s.uart := rfl
@[simp] theorem updIlkl_latch (f : Ilkl → Ilkl) (s : State) : (updIlkl f s).latch = s.latch := rfl
@[simp] theorem updIlkl_ilkA (f : Ilkl → Ilkl) (s : State) : (updIlkl f s).ilkA = s.ilkA := rfl
@[simp] theorem updIlkl_ilkB (f : Ilkl → Ilkl) (s : State) : (updIlkl f s).ilkB = s.ilkB := rfl
@[simp] theorem updIlkl_ilkl (f : Ilkl → Ilkl) (s : State) : (updIlkl f s).ilkl = f s.ilkl := rfl
@[simp] theorem updIlkl_tab (f : Ilkl → Ilkl) (s : State) : (updIlkl f s).tab = s.tab := rfl
@[simp] theorem updIlkl_dhd (f : Ilkl → Ilkl) (s : State) : (updIlkl f s).dhd = s.dhd := rfl
@[simp] theorem updIlkl_ep (f : Ilkl → Ilkl) (s : State) : (updIlkl f s).ep = s.ep := rfl
@[simp] theorem updIlkl_tiles (f : Ilkl → Ilkl) (s : State) : (updIlkl f s).tiles = s.tiles := rfl
@[simp] theorem updIlkl_links (f : Ilkl → Ilkl) (s : State) : (updIlkl f s).links = s.links := rfl
@[simp] theorem updIlkl_tbl (f : Ilkl → Ilkl) (s : State) : (updIlkl f s).tbl = s.tbl := rfl
@[simp] theorem updIlkl_sto (f : Ilkl → Ilkl) (s : State) : (updIlkl f s).sto = s.sto := rfl
@[simp] theorem updIlkl_boot (f : Ilkl → Ilkl) (s : State) : (updIlkl f s).boot = s.boot := rfl
@[simp] theorem updIlkl_jrn (f : Ilkl → Ilkl) (s : State) : (updIlkl f s).jrn = s.jrn := rfl
@[simp] theorem updIlkl_ast (f : Ilkl → Ilkl) (s : State) : (updIlkl f s).ast = s.ast := rfl
@[simp] theorem updIlkl_tch (f : Ilkl → Ilkl) (s : State) : (updIlkl f s).tch = s.tch := rfl
@[simp] theorem updIlkl_hmk (f : Ilkl → Ilkl) (s : State) : (updIlkl f s).hmk = s.hmk := rfl
@[simp] theorem updIlkl_lmn (f : Ilkl → Ilkl) (s : State) : (updIlkl f s).lmn = s.lmn := rfl
@[simp] theorem updIlkl_pwr (f : Ilkl → Ilkl) (s : State) : (updIlkl f s).pwr = s.pwr := rfl

@[simp] theorem updIlk_pending (c : Chan) (f : Ilk → Ilk) (s : State) : (updIlk c f s).pending = s.pending := by cases c <;> rfl
@[simp] theorem updIlk_variant (c : Chan) (f : Ilk → Ilk) (s : State) : (updIlk c f s).variant = s.variant := by cases c <;> rfl
@[simp] theorem updIlk_free (c : Chan) (f : Ilk → Ilk) (s : State) : (updIlk c f s).free = s.free := by cases c <;> rfl
@[simp] theorem updIlk_pages (c : Chan) (f : Ilk → Ilk) (s : State) : (updIlk c f s).pages = s.pages := by cases c <;> rfl
@[simp] theorem updIlk_sys (c : Chan) (f : Ilk → Ilk) (s : State) : (updIlk c f s).sys = s.sys := by cases c <;> rfl
@[simp] theorem updIlk_rst (c : Chan) (f : Ilk → Ilk) (s : State) : (updIlk c f s).rst = s.rst := by cases c <;> rfl
@[simp] theorem updIlk_clkg (c : Chan) (f : Ilk → Ilk) (s : State) : (updIlk c f s).clkg = s.clkg := by cases c <;> rfl
@[simp] theorem updIlk_queues (c : Chan) (f : Ilk → Ilk) (s : State) : (updIlk c f s).queues = s.queues := by cases c <;> rfl
@[simp] theorem updIlk_fab (c : Chan) (f : Ilk → Ilk) (s : State) : (updIlk c f s).fab = s.fab := by cases c <;> rfl
@[simp] theorem updIlk_arb (c : Chan) (f : Ilk → Ilk) (s : State) : (updIlk c f s).arb = s.arb := by cases c <;> rfl
@[simp] theorem updIlk_tb (c : Chan) (f : Ilk → Ilk) (s : State) : (updIlk c f s).tb = s.tb := by cases c <;> rfl
@[simp] theorem updIlk_tmr (c : Chan) (f : Ilk → Ilk) (s : State) : (updIlk c f s).tmr = s.tmr := by cases c <;> rfl
@[simp] theorem updIlk_fcr (c : Chan) (f : Ilk → Ilk) (s : State) : (updIlk c f s).fcr = s.fcr := by cases c <;> rfl
@[simp] theorem updIlk_crc (c : Chan) (f : Ilk → Ilk) (s : State) : (updIlk c f s).crc = s.crc := by cases c <;> rfl
@[simp] theorem updIlk_crcRef (c : Chan) (f : Ilk → Ilk) (s : State) : (updIlk c f s).crcRef = s.crcRef := by cases c <;> rfl
@[simp] theorem updIlk_pcie (c : Chan) (f : Ilk → Ilk) (s : State) : (updIlk c f s).pcie = s.pcie := by cases c <;> rfl
@[simp] theorem updIlk_mgt (c : Chan) (f : Ilk → Ilk) (s : State) : (updIlk c f s).mgt = s.mgt := by cases c <;> rfl
@[simp] theorem updIlk_dbg (c : Chan) (f : Ilk → Ilk) (s : State) : (updIlk c f s).dbg = s.dbg := by cases c <;> rfl
@[simp] theorem updIlk_uart (c : Chan) (f : Ilk → Ilk) (s : State) : (updIlk c f s).uart = s.uart := by cases c <;> rfl
@[simp] theorem updIlk_latch (c : Chan) (f : Ilk → Ilk) (s : State) : (updIlk c f s).latch = s.latch := by cases c <;> rfl
@[simp] theorem updIlk_ilkl (c : Chan) (f : Ilk → Ilk) (s : State) : (updIlk c f s).ilkl = s.ilkl := by cases c <;> rfl
@[simp] theorem updIlk_tab (c : Chan) (f : Ilk → Ilk) (s : State) : (updIlk c f s).tab = s.tab := by cases c <;> rfl
@[simp] theorem updIlk_dhd (c : Chan) (f : Ilk → Ilk) (s : State) : (updIlk c f s).dhd = s.dhd := by cases c <;> rfl
@[simp] theorem updIlk_ep (c : Chan) (f : Ilk → Ilk) (s : State) : (updIlk c f s).ep = s.ep := by cases c <;> rfl
@[simp] theorem updIlk_tiles (c : Chan) (f : Ilk → Ilk) (s : State) : (updIlk c f s).tiles = s.tiles := by cases c <;> rfl
@[simp] theorem updIlk_links (c : Chan) (f : Ilk → Ilk) (s : State) : (updIlk c f s).links = s.links := by cases c <;> rfl
@[simp] theorem updIlk_tbl (c : Chan) (f : Ilk → Ilk) (s : State) : (updIlk c f s).tbl = s.tbl := by cases c <;> rfl
@[simp] theorem updIlk_sto (c : Chan) (f : Ilk → Ilk) (s : State) : (updIlk c f s).sto = s.sto := by cases c <;> rfl
@[simp] theorem updIlk_boot (c : Chan) (f : Ilk → Ilk) (s : State) : (updIlk c f s).boot = s.boot := by cases c <;> rfl
@[simp] theorem updIlk_jrn (c : Chan) (f : Ilk → Ilk) (s : State) : (updIlk c f s).jrn = s.jrn := by cases c <;> rfl
@[simp] theorem updIlk_ast (c : Chan) (f : Ilk → Ilk) (s : State) : (updIlk c f s).ast = s.ast := by cases c <;> rfl
@[simp] theorem updIlk_tch (c : Chan) (f : Ilk → Ilk) (s : State) : (updIlk c f s).tch = s.tch := by cases c <;> rfl
@[simp] theorem updIlk_hmk (c : Chan) (f : Ilk → Ilk) (s : State) : (updIlk c f s).hmk = s.hmk := by cases c <;> rfl
@[simp] theorem updIlk_lmn (c : Chan) (f : Ilk → Ilk) (s : State) : (updIlk c f s).lmn = s.lmn := by cases c <;> rfl
@[simp] theorem updIlk_pwr (c : Chan) (f : Ilk → Ilk) (s : State) : (updIlk c f s).pwr = s.pwr := by cases c <;> rfl
@[simp] theorem updIlk_a (f : Ilk → Ilk) (s : State) : updIlk .a f s = { s with ilkA := f s.ilkA } := rfl
@[simp] theorem updIlk_b (f : Ilk → Ilk) (s : State) : updIlk .b f s = { s with ilkB := f s.ilkB } := rfl

end Sys2Proof.Machine
end

