-- ==== Sys2Proof/Laws/Ops.lean ====
section
/-! SUPPORT. Laws of the shared operations: what a raised event, a report, a record, a trip, a port read and a completion write, and what they leave. -/

namespace Sys2Proof.Machine

@[simp] theorem hush_hostEmit (o : HostOut) (s : State) : hush (hostEmit o s) = hush s := rfl

@[simp] theorem hush_sendVector (v : Nat) (s : State) : hush (sendVector v s) = hush s := by
  unfold sendVector; dsimp only
  split
  · split <;> rfl
  · rfl

@[simp] theorem hush_summaryEdge (b : Bool) (s : State) : hush (summaryEdge b s) = hush s := by
  unfold summaryEdge; split <;> simp

/-- A raised event sets its bits of EVT_RAW; beyond them it can only send the summary's message (R332). -/
theorem evtBits_hush (p : Nat) (m : Word32) (s : State) : hush (evtBits p m s) = hush { s with pages := raised s p m } := by
  unfold evtBits; rw [hush_summaryEdge]; rfl

theorem hdr_raised_self (s : State) (p : Nat) (m : Word32) (h : p < 64) : vGet (raised s p m) p {} = { hdr s p with evtRaw := (hdr s p).evtRaw ||| m } :=
  vGet_vUpd_self _ _ _ _ h

theorem hdr_raised_ne (s : State) (p q : Nat) (m : Word32) (h : q ≠ p) : vGet (raised s p m) q {} = hdr s q := vGet_vUpd_ne _ _ _ _ _ h

@[simp] theorem hostEmit_pending (o : HostOut) (s : State) : (hostEmit o s).pending = s.pending := rfl
@[simp] theorem hostEmit_variant (o : HostOut) (s : State) : (hostEmit o s).variant = s.variant := rfl
@[simp] theorem hostEmit_free (o : HostOut) (s : State) : (hostEmit o s).free = s.free := rfl
@[simp] theorem hostEmit_pages (o : HostOut) (s : State) : (hostEmit o s).pages = s.pages := rfl
@[simp] theorem hostEmit_sys (o : HostOut) (s : State) : (hostEmit o s).sys = s.sys := rfl
@[simp] theorem hostEmit_rst (o : HostOut) (s : State) : (hostEmit o s).rst = s.rst := rfl
@[simp] theorem hostEmit_clkg (o : HostOut) (s : State) : (hostEmit o s).clkg = s.clkg := rfl
@[simp] theorem hostEmit_queues (o : HostOut) (s : State) : (hostEmit o s).queues = s.queues := rfl
@[simp] theorem hostEmit_fab (o : HostOut) (s : State) : (hostEmit o s).fab = s.fab := rfl
@[simp] theorem hostEmit_arb (o : HostOut) (s : State) : (hostEmit o s).arb = s.arb := rfl
@[simp] theorem hostEmit_tb (o : HostOut) (s : State) : (hostEmit o s).tb = s.tb := rfl
@[simp] theorem hostEmit_tmr (o : HostOut) (s : State) : (hostEmit o s).tmr = s.tmr := rfl
@[simp] theorem hostEmit_fcr (o : HostOut) (s : State) : (hostEmit o s).fcr = s.fcr := rfl
@[simp] theorem hostEmit_crc (o : HostOut) (s : State) : (hostEmit o s).crc = s.crc := rfl
@[simp] theorem hostEmit_crcRef (o : HostOut) (s : State) : (hostEmit o s).crcRef = s.crcRef := rfl
@[simp] theorem hostEmit_mgt (o : HostOut) (s : State) : (hostEmit o s).mgt = s.mgt := rfl
@[simp] theorem hostEmit_dbg (o : HostOut) (s : State) : (hostEmit o s).dbg = s.dbg := rfl
@[simp] theorem hostEmit_uart (o : HostOut) (s : State) : (hostEmit o s).uart = s.uart := rfl
@[simp] theorem hostEmit_latch (o : HostOut) (s : State) : (hostEmit o s).latch = s.latch := rfl
@[simp] theorem hostEmit_ilkA (o : HostOut) (s : State) : (hostEmit o s).ilkA = s.ilkA := rfl
@[simp] theorem hostEmit_ilkB (o : HostOut) (s : State) : (hostEmit o s).ilkB = s.ilkB := rfl
@[simp] theorem hostEmit_ilkl (o : HostOut) (s : State) : (hostEmit o s).ilkl = s.ilkl := rfl
@[simp] theorem hostEmit_tab (o : HostOut) (s : State) : (hostEmit o s).tab = s.tab := rfl
@[simp] theorem hostEmit_dhd (o : HostOut) (s : State) : (hostEmit o s).dhd = s.dhd := rfl
@[simp] theorem hostEmit_ep (o : HostOut) (s : State) : (hostEmit o s).ep = s.ep := rfl
@[simp] theorem hostEmit_tiles (o : HostOut) (s : State) : (hostEmit o s).tiles = s.tiles := rfl
@[simp] theorem hostEmit_links (o : HostOut) (s : State) : (hostEmit o s).links = s.links := rfl
@[simp] theorem hostEmit_tbl (o : HostOut) (s : State) : (hostEmit o s).tbl = s.tbl := rfl
@[simp] theorem hostEmit_sto (o : HostOut) (s : State) : (hostEmit o s).sto = s.sto := rfl
@[simp] theorem hostEmit_boot (o : HostOut) (s : State) : (hostEmit o s).boot = s.boot := rfl
@[simp] theorem hostEmit_jrn (o : HostOut) (s : State) : (hostEmit o s).jrn = s.jrn := rfl
@[simp] theorem hostEmit_ast (o : HostOut) (s : State) : (hostEmit o s).ast = s.ast := rfl
@[simp] theorem hostEmit_tch (o : HostOut) (s : State) : (hostEmit o s).tch = s.tch := rfl
@[simp] theorem hostEmit_hmk (o : HostOut) (s : State) : (hostEmit o s).hmk = s.hmk := rfl
@[simp] theorem hostEmit_lmn (o : HostOut) (s : State) : (hostEmit o s).lmn = s.lmn := rfl
@[simp] theorem hostEmit_pwr (o : HostOut) (s : State) : (hostEmit o s).pwr = s.pwr := rfl

@[simp] theorem sendVector_pending (v : Nat) (s : State) : (sendVector v s).pending = s.pending := by have h := congrArg State.pending (hush_sendVector v s); exact h
@[simp] theorem sendVector_variant (v : Nat) (s : State) : (sendVector v s).variant = s.variant := by have h := congrArg State.variant (hush_sendVector v s); exact h
@[simp] theorem sendVector_free (v : Nat) (s : State) : (sendVector v s).free = s.free := by have h := congrArg State.free (hush_sendVector v s); exact h
@[simp] theorem sendVector_pages (v : Nat) (s : State) : (sendVector v s).pages = s.pages := by have h := congrArg State.pages (hush_sendVector v s); exact h
@[simp] theorem sendVector_sys (v : Nat) (s : State) : (sendVector v s).sys = s.sys := by have h := congrArg State.sys (hush_sendVector v s); exact h
@[simp] theorem sendVector_rst (v : Nat) (s : State) : (sendVector v s).rst = s.rst := by have h := congrArg State.rst (hush_sendVector v s); exact h
@[simp] theorem sendVector_clkg (v : Nat) (s : State) : (sendVector v s).clkg = s.clkg := by have h := congrArg State.clkg (hush_sendVector v s); exact h
@[simp] theorem sendVector_queues (v : Nat) (s : State) : (sendVector v s).queues = s.queues := by have h := congrArg State.queues (hush_sendVector v s); exact h
@[simp] theorem sendVector_fab (v : Nat) (s : State) : (sendVector v s).fab = s.fab := by have h := congrArg State.fab (hush_sendVector v s); exact h
@[simp] theorem sendVector_arb (v : Nat) (s : State) : (sendVector v s).arb = s.arb := by have h := congrArg State.arb (hush_sendVector v s); exact h
@[simp] theorem sendVector_tb (v : Nat) (s : State) : (sendVector v s).tb = s.tb := by have h := congrArg State.tb (hush_sendVector v s); exact h
@[simp] theorem sendVector_tmr (v : Nat) (s : State) : (sendVector v s).tmr = s.tmr := by have h := congrArg State.tmr (hush_sendVector v s); exact h
@[simp] theorem sendVector_fcr (v : Nat) (s : State) : (sendVector v s).fcr = s.fcr := by have h := congrArg State.fcr (hush_sendVector v s); exact h
@[simp] theorem sendVector_crc (v : Nat) (s : State) : (sendVector v s).crc = s.crc := by have h := congrArg State.crc (hush_sendVector v s); exact h
@[simp] theorem sendVector_crcRef (v : Nat) (s : State) : (sendVector v s).crcRef = s.crcRef := by have h := congrArg State.crcRef (hush_sendVector v s); exact h
@[simp] theorem sendVector_mgt (v : Nat) (s : State) : (sendVector v s).mgt = s.mgt := by have h := congrArg State.mgt (hush_sendVector v s); exact h
@[simp] theorem sendVector_dbg (v : Nat) (s : State) : (sendVector v s).dbg = s.dbg := by have h := congrArg State.dbg (hush_sendVector v s); exact h
@[simp] theorem sendVector_uart (v : Nat) (s : State) : (sendVector v s).uart = s.uart := by have h := congrArg State.uart (hush_sendVector v s); exact h
@[simp] theorem sendVector_latch (v : Nat) (s : State) : (sendVector v s).latch = s.latch := by have h := congrArg State.latch (hush_sendVector v s); exact h
@[simp] theorem sendVector_ilkA (v : Nat) (s : State) : (sendVector v s).ilkA = s.ilkA := by have h := congrArg State.ilkA (hush_sendVector v s); exact h
@[simp] theorem sendVector_ilkB (v : Nat) (s : State) : (sendVector v s).ilkB = s.ilkB := by have h := congrArg State.ilkB (hush_sendVector v s); exact h
@[simp] theorem sendVector_ilkl (v : Nat) (s : State) : (sendVector v s).ilkl = s.ilkl := by have h := congrArg State.ilkl (hush_sendVector v s); exact h
@[simp] theorem sendVector_tab (v : Nat) (s : State) : (sendVector v s).tab = s.tab := by have h := congrArg State.tab (hush_sendVector v s); exact h
@[simp] theorem sendVector_dhd (v : Nat) (s : State) : (sendVector v s).dhd = s.dhd := by have h := congrArg State.dhd (hush_sendVector v s); exact h
@[simp] theorem sendVector_ep (v : Nat) (s : State) : (sendVector v s).ep = s.ep := by have h := congrArg State.ep (hush_sendVector v s); exact h
@[simp] theorem sendVector_tiles (v : Nat) (s : State) : (sendVector v s).tiles = s.tiles := by have h := congrArg State.tiles (hush_sendVector v s); exact h
@[simp] theorem sendVector_links (v : Nat) (s : State) : (sendVector v s).links = s.links := by have h := congrArg State.links (hush_sendVector v s); exact h
@[simp] theorem sendVector_tbl (v : Nat) (s : State) : (sendVector v s).tbl = s.tbl := by have h := congrArg State.tbl (hush_sendVector v s); exact h
@[simp] theorem sendVector_sto (v : Nat) (s : State) : (sendVector v s).sto = s.sto := by have h := congrArg State.sto (hush_sendVector v s); exact h
@[simp] theorem sendVector_boot (v : Nat) (s : State) : (sendVector v s).boot = s.boot := by have h := congrArg State.boot (hush_sendVector v s); exact h
@[simp] theorem sendVector_jrn (v : Nat) (s : State) : (sendVector v s).jrn = s.jrn := by have h := congrArg State.jrn (hush_sendVector v s); exact h
@[simp] theorem sendVector_ast (v : Nat) (s : State) : (sendVector v s).ast = s.ast := by have h := congrArg State.ast (hush_sendVector v s); exact h
@[simp] theorem sendVector_tch (v : Nat) (s : State) : (sendVector v s).tch = s.tch := by have h := congrArg State.tch (hush_sendVector v s); exact h
@[simp] theorem sendVector_hmk (v : Nat) (s : State) : (sendVector v s).hmk = s.hmk := by have h := congrArg State.hmk (hush_sendVector v s); exact h
@[simp] theorem sendVector_lmn (v : Nat) (s : State) : (sendVector v s).lmn = s.lmn := by have h := congrArg State.lmn (hush_sendVector v s); exact h
@[simp] theorem sendVector_pwr (v : Nat) (s : State) : (sendVector v s).pwr = s.pwr := by have h := congrArg State.pwr (hush_sendVector v s); exact h

@[simp] theorem summaryEdge_pending (b : Bool) (s : State) : (summaryEdge b s).pending = s.pending := by have h := congrArg State.pending (hush_summaryEdge b s); exact h
@[simp] theorem summaryEdge_variant (b : Bool) (s : State) : (summaryEdge b s).variant = s.variant := by have h := congrArg State.variant (hush_summaryEdge b s); exact h
@[simp] theorem summaryEdge_free (b : Bool) (s : State) : (summaryEdge b s).free = s.free := by have h := congrArg State.free (hush_summaryEdge b s); exact h
@[simp] theorem summaryEdge_pages (b : Bool) (s : State) : (summaryEdge b s).pages = s.pages := by have h := congrArg State.pages (hush_summaryEdge b s); exact h
@[simp] theorem summaryEdge_sys (b : Bool) (s : State) : (summaryEdge b s).sys = s.sys := by have h := congrArg State.sys (hush_summaryEdge b s); exact h
@[simp] theorem summaryEdge_rst (b : Bool) (s : State) : (summaryEdge b s).rst = s.rst := by have h := congrArg State.rst (hush_summaryEdge b s); exact h
@[simp] theorem summaryEdge_clkg (b : Bool) (s : State) : (summaryEdge b s).clkg = s.clkg := by have h := congrArg State.clkg (hush_summaryEdge b s); exact h
@[simp] theorem summaryEdge_queues (b : Bool) (s : State) : (summaryEdge b s).queues = s.queues := by have h := congrArg State.queues (hush_summaryEdge b s); exact h
@[simp] theorem summaryEdge_fab (b : Bool) (s : State) : (summaryEdge b s).fab = s.fab := by have h := congrArg State.fab (hush_summaryEdge b s); exact h
@[simp] theorem summaryEdge_arb (b : Bool) (s : State) : (summaryEdge b s).arb = s.arb := by have h := congrArg State.arb (hush_summaryEdge b s); exact h
@[simp] theorem summaryEdge_tb (b : Bool) (s : State) : (summaryEdge b s).tb = s.tb := by have h := congrArg State.tb (hush_summaryEdge b s); exact h
@[simp] theorem summaryEdge_tmr (b : Bool) (s : State) : (summaryEdge b s).tmr = s.tmr := by have h := congrArg State.tmr (hush_summaryEdge b s); exact h
@[simp] theorem summaryEdge_fcr (b : Bool) (s : State) : (summaryEdge b s).fcr = s.fcr := by have h := congrArg State.fcr (hush_summaryEdge b s); exact h
@[simp] theorem summaryEdge_crc (b : Bool) (s : State) : (summaryEdge b s).crc = s.crc := by have h := congrArg State.crc (hush_summaryEdge b s); exact h
@[simp] theorem summaryEdge_crcRef (b : Bool) (s : State) : (summaryEdge b s).crcRef = s.crcRef := by have h := congrArg State.crcRef (hush_summaryEdge b s); exact h
@[simp] theorem summaryEdge_mgt (b : Bool) (s : State) : (summaryEdge b s).mgt = s.mgt := by have h := congrArg State.mgt (hush_summaryEdge b s); exact h
@[simp] theorem summaryEdge_dbg (b : Bool) (s : State) : (summaryEdge b s).dbg = s.dbg := by have h := congrArg State.dbg (hush_summaryEdge b s); exact h
@[simp] theorem summaryEdge_uart (b : Bool) (s : State) : (summaryEdge b s).uart = s.uart := by have h := congrArg State.uart (hush_summaryEdge b s); exact h
@[simp] theorem summaryEdge_latch (b : Bool) (s : State) : (summaryEdge b s).latch = s.latch := by have h := congrArg State.latch (hush_summaryEdge b s); exact h
@[simp] theorem summaryEdge_ilkA (b : Bool) (s : State) : (summaryEdge b s).ilkA = s.ilkA := by have h := congrArg State.ilkA (hush_summaryEdge b s); exact h
@[simp] theorem summaryEdge_ilkB (b : Bool) (s : State) : (summaryEdge b s).ilkB = s.ilkB := by have h := congrArg State.ilkB (hush_summaryEdge b s); exact h
@[simp] theorem summaryEdge_ilkl (b : Bool) (s : State) : (summaryEdge b s).ilkl = s.ilkl := by have h := congrArg State.ilkl (hush_summaryEdge b s); exact h
@[simp] theorem summaryEdge_tab (b : Bool) (s : State) : (summaryEdge b s).tab = s.tab := by have h := congrArg State.tab (hush_summaryEdge b s); exact h
@[simp] theorem summaryEdge_dhd (b : Bool) (s : State) : (summaryEdge b s).dhd = s.dhd := by have h := congrArg State.dhd (hush_summaryEdge b s); exact h
@[simp] theorem summaryEdge_ep (b : Bool) (s : State) : (summaryEdge b s).ep = s.ep := by have h := congrArg State.ep (hush_summaryEdge b s); exact h
@[simp] theorem summaryEdge_tiles (b : Bool) (s : State) : (summaryEdge b s).tiles = s.tiles := by have h := congrArg State.tiles (hush_summaryEdge b s); exact h
@[simp] theorem summaryEdge_links (b : Bool) (s : State) : (summaryEdge b s).links = s.links := by have h := congrArg State.links (hush_summaryEdge b s); exact h
@[simp] theorem summaryEdge_tbl (b : Bool) (s : State) : (summaryEdge b s).tbl = s.tbl := by have h := congrArg State.tbl (hush_summaryEdge b s); exact h
@[simp] theorem summaryEdge_sto (b : Bool) (s : State) : (summaryEdge b s).sto = s.sto := by have h := congrArg State.sto (hush_summaryEdge b s); exact h
@[simp] theorem summaryEdge_boot (b : Bool) (s : State) : (summaryEdge b s).boot = s.boot := by have h := congrArg State.boot (hush_summaryEdge b s); exact h
@[simp] theorem summaryEdge_jrn (b : Bool) (s : State) : (summaryEdge b s).jrn = s.jrn := by have h := congrArg State.jrn (hush_summaryEdge b s); exact h
@[simp] theorem summaryEdge_ast (b : Bool) (s : State) : (summaryEdge b s).ast = s.ast := by have h := congrArg State.ast (hush_summaryEdge b s); exact h
@[simp] theorem summaryEdge_tch (b : Bool) (s : State) : (summaryEdge b s).tch = s.tch := by have h := congrArg State.tch (hush_summaryEdge b s); exact h
@[simp] theorem summaryEdge_hmk (b : Bool) (s : State) : (summaryEdge b s).hmk = s.hmk := by have h := congrArg State.hmk (hush_summaryEdge b s); exact h
@[simp] theorem summaryEdge_lmn (b : Bool) (s : State) : (summaryEdge b s).lmn = s.lmn := by have h := congrArg State.lmn (hush_summaryEdge b s); exact h
@[simp] theorem summaryEdge_pwr (b : Bool) (s : State) : (summaryEdge b s).pwr = s.pwr := by have h := congrArg State.pwr (hush_summaryEdge b s); exact h

@[simp] theorem evtBits_pending (p : Nat) (m : Word32) (s : State) : (evtBits p m s).pending = s.pending := by have h := congrArg State.pending (evtBits_hush p m s); exact h
@[simp] theorem evtBits_variant (p : Nat) (m : Word32) (s : State) : (evtBits p m s).variant = s.variant := by have h := congrArg State.variant (evtBits_hush p m s); exact h
@[simp] theorem evtBits_free (p : Nat) (m : Word32) (s : State) : (evtBits p m s).free = s.free := by have h := congrArg State.free (evtBits_hush p m s); exact h
@[simp] theorem evtBits_sys (p : Nat) (m : Word32) (s : State) : (evtBits p m s).sys = s.sys := by have h := congrArg State.sys (evtBits_hush p m s); exact h
@[simp] theorem evtBits_rst (p : Nat) (m : Word32) (s : State) : (evtBits p m s).rst = s.rst := by have h := congrArg State.rst (evtBits_hush p m s); exact h
@[simp] theorem evtBits_clkg (p : Nat) (m : Word32) (s : State) : (evtBits p m s).clkg = s.clkg := by have h := congrArg State.clkg (evtBits_hush p m s); exact h
@[simp] theorem evtBits_queues (p : Nat) (m : Word32) (s : State) : (evtBits p m s).queues = s.queues := by have h := congrArg State.queues (evtBits_hush p m s); exact h
@[simp] theorem evtBits_fab (p : Nat) (m : Word32) (s : State) : (evtBits p m s).fab = s.fab := by have h := congrArg State.fab (evtBits_hush p m s); exact h
@[simp] theorem evtBits_arb (p : Nat) (m : Word32) (s : State) : (evtBits p m s).arb = s.arb := by have h := congrArg State.arb (evtBits_hush p m s); exact h
@[simp] theorem evtBits_tb (p : Nat) (m : Word32) (s : State) : (evtBits p m s).tb = s.tb := by have h := congrArg State.tb (evtBits_hush p m s); exact h
@[simp] theorem evtBits_tmr (p : Nat) (m : Word32) (s : State) : (evtBits p m s).tmr = s.tmr := by have h := congrArg State.tmr (evtBits_hush p m s); exact h
@[simp] theorem evtBits_fcr (p : Nat) (m : Word32) (s : State) : (evtBits p m s).fcr = s.fcr := by have h := congrArg State.fcr (evtBits_hush p m s); exact h
@[simp] theorem evtBits_crc (p : Nat) (m : Word32) (s : State) : (evtBits p m s).crc = s.crc := by have h := congrArg State.crc (evtBits_hush p m s); exact h
@[simp] theorem evtBits_crcRef (p : Nat) (m : Word32) (s : State) : (evtBits p m s).crcRef = s.crcRef := by have h := congrArg State.crcRef (evtBits_hush p m s); exact h
@[simp] theorem evtBits_mgt (p : Nat) (m : Word32) (s : State) : (evtBits p m s).mgt = s.mgt := by have h := congrArg State.mgt (evtBits_hush p m s); exact h
@[simp] theorem evtBits_dbg (p : Nat) (m : Word32) (s : State) : (evtBits p m s).dbg = s.dbg := by have h := congrArg State.dbg (evtBits_hush p m s); exact h
@[simp] theorem evtBits_uart (p : Nat) (m : Word32) (s : State) : (evtBits p m s).uart = s.uart := by have h := congrArg State.uart (evtBits_hush p m s); exact h
@[simp] theorem evtBits_latch (p : Nat) (m : Word32) (s : State) : (evtBits p m s).latch = s.latch := by have h := congrArg State.latch (evtBits_hush p m s); exact h
@[simp] theorem evtBits_ilkA (p : Nat) (m : Word32) (s : State) : (evtBits p m s).ilkA = s.ilkA := by have h := congrArg State.ilkA (evtBits_hush p m s); exact h
@[simp] theorem evtBits_ilkB (p : Nat) (m : Word32) (s : State) : (evtBits p m s).ilkB = s.ilkB := by have h := congrArg State.ilkB (evtBits_hush p m s); exact h
@[simp] theorem evtBits_ilkl (p : Nat) (m : Word32) (s : State) : (evtBits p m s).ilkl = s.ilkl := by have h := congrArg State.ilkl (evtBits_hush p m s); exact h
@[simp] theorem evtBits_tab (p : Nat) (m : Word32) (s : State) : (evtBits p m s).tab = s.tab := by have h := congrArg State.tab (evtBits_hush p m s); exact h
@[simp] theorem evtBits_dhd (p : Nat) (m : Word32) (s : State) : (evtBits p m s).dhd = s.dhd := by have h := congrArg State.dhd (evtBits_hush p m s); exact h
@[simp] theorem evtBits_ep (p : Nat) (m : Word32) (s : State) : (evtBits p m s).ep = s.ep := by have h := congrArg State.ep (evtBits_hush p m s); exact h
@[simp] theorem evtBits_tiles (p : Nat) (m : Word32) (s : State) : (evtBits p m s).tiles = s.tiles := by have h := congrArg State.tiles (evtBits_hush p m s); exact h
@[simp] theorem evtBits_links (p : Nat) (m : Word32) (s : State) : (evtBits p m s).links = s.links := by have h := congrArg State.links (evtBits_hush p m s); exact h
@[simp] theorem evtBits_tbl (p : Nat) (m : Word32) (s : State) : (evtBits p m s).tbl = s.tbl := by have h := congrArg State.tbl (evtBits_hush p m s); exact h
@[simp] theorem evtBits_sto (p : Nat) (m : Word32) (s : State) : (evtBits p m s).sto = s.sto := by have h := congrArg State.sto (evtBits_hush p m s); exact h
@[simp] theorem evtBits_boot (p : Nat) (m : Word32) (s : State) : (evtBits p m s).boot = s.boot := by have h := congrArg State.boot (evtBits_hush p m s); exact h
@[simp] theorem evtBits_jrn (p : Nat) (m : Word32) (s : State) : (evtBits p m s).jrn = s.jrn := by have h := congrArg State.jrn (evtBits_hush p m s); exact h
@[simp] theorem evtBits_ast (p : Nat) (m : Word32) (s : State) : (evtBits p m s).ast = s.ast := by have h := congrArg State.ast (evtBits_hush p m s); exact h
@[simp] theorem evtBits_tch (p : Nat) (m : Word32) (s : State) : (evtBits p m s).tch = s.tch := by have h := congrArg State.tch (evtBits_hush p m s); exact h
@[simp] theorem evtBits_hmk (p : Nat) (m : Word32) (s : State) : (evtBits p m s).hmk = s.hmk := by have h := congrArg State.hmk (evtBits_hush p m s); exact h
@[simp] theorem evtBits_lmn (p : Nat) (m : Word32) (s : State) : (evtBits p m s).lmn = s.lmn := by have h := congrArg State.lmn (evtBits_hush p m s); exact h
@[simp] theorem evtBits_pwr (p : Nat) (m : Word32) (s : State) : (evtBits p m s).pwr = s.pwr := by have h := congrArg State.pwr (evtBits_hush p m s); exact h
@[simp] theorem evtBits_pages (p : Nat) (m : Word32) (s : State) : (evtBits p m s).pages = raised s p m := by have h := congrArg State.pages (evtBits_hush p m s); exact h

@[simp] theorem evt_pending (p n : Nat) (s : State) : (evt p n s).pending = s.pending := evtBits_pending _ _ _
@[simp] theorem evt_variant (p n : Nat) (s : State) : (evt p n s).variant = s.variant := evtBits_variant _ _ _
@[simp] theorem evt_free (p n : Nat) (s : State) : (evt p n s).free = s.free := evtBits_free _ _ _
@[simp] theorem evt_sys (p n : Nat) (s : State) : (evt p n s).sys = s.sys := evtBits_sys _ _ _
@[simp] theorem evt_rst (p n : Nat) (s : State) : (evt p n s).rst = s.rst := evtBits_rst _ _ _
@[simp] theorem evt_clkg (p n : Nat) (s : State) : (evt p n s).clkg = s.clkg := evtBits_clkg _ _ _
@[simp] theorem evt_queues (p n : Nat) (s : State) : (evt p n s).queues = s.queues := evtBits_queues _ _ _
@[simp] theorem evt_fab (p n : Nat) (s : State) : (evt p n s).fab = s.fab := evtBits_fab _ _ _
@[simp] theorem evt_arb (p n : Nat) (s : State) : (evt p n s).arb = s.arb := evtBits_arb _ _ _
@[simp] theorem evt_tb (p n : Nat) (s : State) : (evt p n s).tb = s.tb := evtBits_tb _ _ _
@[simp] theorem evt_tmr (p n : Nat) (s : State) : (evt p n s).tmr = s.tmr := evtBits_tmr _ _ _
@[simp] theorem evt_fcr (p n : Nat) (s : State) : (evt p n s).fcr = s.fcr := evtBits_fcr _ _ _
@[simp] theorem evt_crc (p n : Nat) (s : State) : (evt p n s).crc = s.crc := evtBits_crc _ _ _
@[simp] theorem evt_crcRef (p n : Nat) (s : State) : (evt p n s).crcRef = s.crcRef := evtBits_crcRef _ _ _
@[simp] theorem evt_mgt (p n : Nat) (s : State) : (evt p n s).mgt = s.mgt := evtBits_mgt _ _ _
@[simp] theorem evt_dbg (p n : Nat) (s : State) : (evt p n s).dbg = s.dbg := evtBits_dbg _ _ _
@[simp] theorem evt_uart (p n : Nat) (s : State) : (evt p n s).uart = s.uart := evtBits_uart _ _ _
@[simp] theorem evt_latch (p n : Nat) (s : State) : (evt p n s).latch = s.latch := evtBits_latch _ _ _
@[simp] theorem evt_ilkA (p n : Nat) (s : State) : (evt p n s).ilkA = s.ilkA := evtBits_ilkA _ _ _
@[simp] theorem evt_ilkB (p n : Nat) (s : State) : (evt p n s).ilkB = s.ilkB := evtBits_ilkB _ _ _
@[simp] theorem evt_ilkl (p n : Nat) (s : State) : (evt p n s).ilkl = s.ilkl := evtBits_ilkl _ _ _
@[simp] theorem evt_tab (p n : Nat) (s : State) : (evt p n s).tab = s.tab := evtBits_tab _ _ _
@[simp] theorem evt_dhd (p n : Nat) (s : State) : (evt p n s).dhd = s.dhd := evtBits_dhd _ _ _
@[simp] theorem evt_ep (p n : Nat) (s : State) : (evt p n s).ep = s.ep := evtBits_ep _ _ _
@[simp] theorem evt_tiles (p n : Nat) (s : State) : (evt p n s).tiles = s.tiles := evtBits_tiles _ _ _
@[simp] theorem evt_links (p n : Nat) (s : State) : (evt p n s).links = s.links := evtBits_links _ _ _
@[simp] theorem evt_tbl (p n : Nat) (s : State) : (evt p n s).tbl = s.tbl := evtBits_tbl _ _ _
@[simp] theorem evt_sto (p n : Nat) (s : State) : (evt p n s).sto = s.sto := evtBits_sto _ _ _
@[simp] theorem evt_boot (p n : Nat) (s : State) : (evt p n s).boot = s.boot := evtBits_boot _ _ _
@[simp] theorem evt_jrn (p n : Nat) (s : State) : (evt p n s).jrn = s.jrn := evtBits_jrn _ _ _
@[simp] theorem evt_ast (p n : Nat) (s : State) : (evt p n s).ast = s.ast := evtBits_ast _ _ _
@[simp] theorem evt_tch (p n : Nat) (s : State) : (evt p n s).tch = s.tch := evtBits_tch _ _ _
@[simp] theorem evt_hmk (p n : Nat) (s : State) : (evt p n s).hmk = s.hmk := evtBits_hmk _ _ _
@[simp] theorem evt_lmn (p n : Nat) (s : State) : (evt p n s).lmn = s.lmn := evtBits_lmn _ _ _
@[simp] theorem evt_pwr (p n : Nat) (s : State) : (evt p n s).pwr = s.pwr := evtBits_pwr _ _ _
@[simp] theorem evt_pages (p n : Nat) (s : State) : (evt p n s).pages = raised s p (flag n true) := evtBits_pages _ _ _

@[simp] theorem evtIf_pending (c : Bool) (p n : Nat) (s : State) : (evtIf c p n s).pending = s.pending := by unfold evtIf; split <;> simp
@[simp] theorem evtIf_variant (c : Bool) (p n : Nat) (s : State) : (evtIf c p n s).variant = s.variant := by unfold evtIf; split <;> simp
@[simp] theorem evtIf_free (c : Bool) (p n : Nat) (s : State) : (evtIf c p n s).free = s.free := by unfold evtIf; split <;> simp
@[simp] theorem evtIf_sys (c : Bool) (p n : Nat) (s : State) : (evtIf c p n s).sys = s.sys := by unfold evtIf; split <;> simp
@[simp] theorem evtIf_rst (c : Bool) (p n : Nat) (s : State) : (evtIf c p n s).rst = s.rst := by unfold evtIf; split <;> simp
@[simp] theorem evtIf_clkg (c : Bool) (p n : Nat) (s : State) : (evtIf c p n s).clkg = s.clkg := by unfold evtIf; split <;> simp
@[simp] theorem evtIf_queues (c : Bool) (p n : Nat) (s : State) : (evtIf c p n s).queues = s.queues := by unfold evtIf; split <;> simp
@[simp] theorem evtIf_fab (c : Bool) (p n : Nat) (s : State) : (evtIf c p n s).fab = s.fab := by unfold evtIf; split <;> simp
@[simp] theorem evtIf_arb (c : Bool) (p n : Nat) (s : State) : (evtIf c p n s).arb = s.arb := by unfold evtIf; split <;> simp
@[simp] theorem evtIf_tb (c : Bool) (p n : Nat) (s : State) : (evtIf c p n s).tb = s.tb := by unfold evtIf; split <;> simp
@[simp] theorem evtIf_tmr (c : Bool) (p n : Nat) (s : State) : (evtIf c p n s).tmr = s.tmr := by unfold evtIf; split <;> simp
@[simp] theorem evtIf_fcr (c : Bool) (p n : Nat) (s : State) : (evtIf c p n s).fcr = s.fcr := by unfold evtIf; split <;> simp
@[simp] theorem evtIf_crc (c : Bool) (p n : Nat) (s : State) : (evtIf c p n s).crc = s.crc := by unfold evtIf; split <;> simp
@[simp] theorem evtIf_crcRef (c : Bool) (p n : Nat) (s : State) : (evtIf c p n s).crcRef = s.crcRef := by unfold evtIf; split <;> simp
@[simp] theorem evtIf_mgt (c : Bool) (p n : Nat) (s : State) : (evtIf c p n s).mgt = s.mgt := by unfold evtIf; split <;> simp
@[simp] theorem evtIf_dbg (c : Bool) (p n : Nat) (s : State) : (evtIf c p n s).dbg = s.dbg := by unfold evtIf; split <;> simp
@[simp] theorem evtIf_uart (c : Bool) (p n : Nat) (s : State) : (evtIf c p n s).uart = s.uart := by unfold evtIf; split <;> simp
@[simp] theorem evtIf_latch (c : Bool) (p n : Nat) (s : State) : (evtIf c p n s).latch = s.latch := by unfold evtIf; split <;> simp
@[simp] theorem evtIf_ilkA (c : Bool) (p n : Nat) (s : State) : (evtIf c p n s).ilkA = s.ilkA := by unfold evtIf; split <;> simp
@[simp] theorem evtIf_ilkB (c : Bool) (p n : Nat) (s : State) : (evtIf c p n s).ilkB = s.ilkB := by unfold evtIf; split <;> simp
@[simp] theorem evtIf_ilkl (c : Bool) (p n : Nat) (s : State) : (evtIf c p n s).ilkl = s.ilkl := by unfold evtIf; split <;> simp
@[simp] theorem evtIf_tab (c : Bool) (p n : Nat) (s : State) : (evtIf c p n s).tab = s.tab := by unfold evtIf; split <;> simp
@[simp] theorem evtIf_dhd (c : Bool) (p n : Nat) (s : State) : (evtIf c p n s).dhd = s.dhd := by unfold evtIf; split <;> simp
@[simp] theorem evtIf_ep (c : Bool) (p n : Nat) (s : State) : (evtIf c p n s).ep = s.ep := by unfold evtIf; split <;> simp
@[simp] theorem evtIf_tiles (c : Bool) (p n : Nat) (s : State) : (evtIf c p n s).tiles = s.tiles := by unfold evtIf; split <;> simp
@[simp] theorem evtIf_links (c : Bool) (p n : Nat) (s : State) : (evtIf c p n s).links = s.links := by unfold evtIf; split <;> simp
@[simp] theorem evtIf_tbl (c : Bool) (p n : Nat) (s : State) : (evtIf c p n s).tbl = s.tbl := by unfold evtIf; split <;> simp
@[simp] theorem evtIf_sto (c : Bool) (p n : Nat) (s : State) : (evtIf c p n s).sto = s.sto := by unfold evtIf; split <;> simp
@[simp] theorem evtIf_boot (c : Bool) (p n : Nat) (s : State) : (evtIf c p n s).boot = s.boot := by unfold evtIf; split <;> simp
@[simp] theorem evtIf_jrn (c : Bool) (p n : Nat) (s : State) : (evtIf c p n s).jrn = s.jrn := by unfold evtIf; split <;> simp
@[simp] theorem evtIf_ast (c : Bool) (p n : Nat) (s : State) : (evtIf c p n s).ast = s.ast := by unfold evtIf; split <;> simp
@[simp] theorem evtIf_tch (c : Bool) (p n : Nat) (s : State) : (evtIf c p n s).tch = s.tch := by unfold evtIf; split <;> simp
@[simp] theorem evtIf_hmk (c : Bool) (p n : Nat) (s : State) : (evtIf c p n s).hmk = s.hmk := by unfold evtIf; split <;> simp
@[simp] theorem evtIf_lmn (c : Bool) (p n : Nat) (s : State) : (evtIf c p n s).lmn = s.lmn := by unfold evtIf; split <;> simp
@[simp] theorem evtIf_pwr (c : Bool) (p n : Nat) (s : State) : (evtIf c p n s).pwr = s.pwr := by unfold evtIf; split <;> simp

@[simp] theorem errStat_pending (i : Iface) (p off n : Nat) (s : State) : (errStat i p off n s).pending = s.pending := rfl
@[simp] theorem errStat_variant (i : Iface) (p off n : Nat) (s : State) : (errStat i p off n s).variant = s.variant := rfl
@[simp] theorem errStat_free (i : Iface) (p off n : Nat) (s : State) : (errStat i p off n s).free = s.free := rfl
@[simp] theorem errStat_sys (i : Iface) (p off n : Nat) (s : State) : (errStat i p off n s).sys = s.sys := rfl
@[simp] theorem errStat_rst (i : Iface) (p off n : Nat) (s : State) : (errStat i p off n s).rst = s.rst := rfl
@[simp] theorem errStat_clkg (i : Iface) (p off n : Nat) (s : State) : (errStat i p off n s).clkg = s.clkg := rfl
@[simp] theorem errStat_queues (i : Iface) (p off n : Nat) (s : State) : (errStat i p off n s).queues = s.queues := rfl
@[simp] theorem errStat_fab (i : Iface) (p off n : Nat) (s : State) : (errStat i p off n s).fab = s.fab := rfl
@[simp] theorem errStat_arb (i : Iface) (p off n : Nat) (s : State) : (errStat i p off n s).arb = s.arb := rfl
@[simp] theorem errStat_tb (i : Iface) (p off n : Nat) (s : State) : (errStat i p off n s).tb = s.tb := rfl
@[simp] theorem errStat_tmr (i : Iface) (p off n : Nat) (s : State) : (errStat i p off n s).tmr = s.tmr := rfl
@[simp] theorem errStat_fcr (i : Iface) (p off n : Nat) (s : State) : (errStat i p off n s).fcr = s.fcr := rfl
@[simp] theorem errStat_crc (i : Iface) (p off n : Nat) (s : State) : (errStat i p off n s).crc = s.crc := rfl
@[simp] theorem errStat_crcRef (i : Iface) (p off n : Nat) (s : State) : (errStat i p off n s).crcRef = s.crcRef := rfl
@[simp] theorem errStat_pcie (i : Iface) (p off n : Nat) (s : State) : (errStat i p off n s).pcie = s.pcie := rfl
@[simp] theorem errStat_mgt (i : Iface) (p off n : Nat) (s : State) : (errStat i p off n s).mgt = s.mgt := rfl
@[simp] theorem errStat_dbg (i : Iface) (p off n : Nat) (s : State) : (errStat i p off n s).dbg = s.dbg := rfl
@[simp] theorem errStat_uart (i : Iface) (p off n : Nat) (s : State) : (errStat i p off n s).uart = s.uart := rfl
@[simp] theorem errStat_latch (i : Iface) (p off n : Nat) (s : State) : (errStat i p off n s).latch = s.latch := rfl
@[simp] theorem errStat_ilkA (i : Iface) (p off n : Nat) (s : State) : (errStat i p off n s).ilkA = s.ilkA := rfl
@[simp] theorem errStat_ilkB (i : Iface) (p off n : Nat) (s : State) : (errStat i p off n s).ilkB = s.ilkB := rfl
@[simp] theorem errStat_ilkl (i : Iface) (p off n : Nat) (s : State) : (errStat i p off n s).ilkl = s.ilkl := rfl
@[simp] theorem errStat_tab (i : Iface) (p off n : Nat) (s : State) : (errStat i p off n s).tab = s.tab := rfl
@[simp] theorem errStat_dhd (i : Iface) (p off n : Nat) (s : State) : (errStat i p off n s).dhd = s.dhd := rfl
@[simp] theorem errStat_ep (i : Iface) (p off n : Nat) (s : State) : (errStat i p off n s).ep = s.ep := rfl
@[simp] theorem errStat_tiles (i : Iface) (p off n : Nat) (s : State) : (errStat i p off n s).tiles = s.tiles := rfl
@[simp] theorem errStat_links (i : Iface) (p off n : Nat) (s : State) : (errStat i p off n s).links = s.links := rfl
@[simp] theorem errStat_tbl (i : Iface) (p off n : Nat) (s : State) : (errStat i p off n s).tbl = s.tbl := rfl
@[simp] theorem errStat_sto (i : Iface) (p off n : Nat) (s : State) : (errStat i p off n s).sto = s.sto := rfl
@[simp] theorem errStat_boot (i : Iface) (p off n : Nat) (s : State) : (errStat i p off n s).boot = s.boot := rfl
@[simp] theorem errStat_jrn (i : Iface) (p off n : Nat) (s : State) : (errStat i p off n s).jrn = s.jrn := rfl
@[simp] theorem errStat_ast (i : Iface) (p off n : Nat) (s : State) : (errStat i p off n s).ast = s.ast := rfl
@[simp] theorem errStat_tch (i : Iface) (p off n : Nat) (s : State) : (errStat i p off n s).tch = s.tch := rfl
@[simp] theorem errStat_hmk (i : Iface) (p off n : Nat) (s : State) : (errStat i p off n s).hmk = s.hmk := rfl
@[simp] theorem errStat_lmn (i : Iface) (p off n : Nat) (s : State) : (errStat i p off n s).lmn = s.lmn := rfl
@[simp] theorem errStat_pwr (i : Iface) (p off n : Nat) (s : State) : (errStat i p off n s).pwr = s.pwr := rfl

@[simp] theorem reportAs_pending (r : Report) (s : State) : (reportAs r s).pending = s.pending := by unfold reportAs; split <;> rfl
@[simp] theorem reportAs_variant (r : Report) (s : State) : (reportAs r s).variant = s.variant := by unfold reportAs; split <;> rfl
@[simp] theorem reportAs_free (r : Report) (s : State) : (reportAs r s).free = s.free := by unfold reportAs; split <;> rfl
@[simp] theorem reportAs_pages (r : Report) (s : State) : (reportAs r s).pages = s.pages := by unfold reportAs; split <;> rfl
@[simp] theorem reportAs_sys (r : Report) (s : State) : (reportAs r s).sys = s.sys := by unfold reportAs; split <;> rfl
@[simp] theorem reportAs_rst (r : Report) (s : State) : (reportAs r s).rst = s.rst := by unfold reportAs; split <;> rfl
@[simp] theorem reportAs_clkg (r : Report) (s : State) : (reportAs r s).clkg = s.clkg := by unfold reportAs; split <;> rfl
@[simp] theorem reportAs_queues (r : Report) (s : State) : (reportAs r s).queues = s.queues := by unfold reportAs; split <;> rfl
@[simp] theorem reportAs_fab (r : Report) (s : State) : (reportAs r s).fab = s.fab := by unfold reportAs; split <;> rfl
@[simp] theorem reportAs_arb (r : Report) (s : State) : (reportAs r s).arb = s.arb := by unfold reportAs; split <;> rfl
@[simp] theorem reportAs_tb (r : Report) (s : State) : (reportAs r s).tb = s.tb := by unfold reportAs; split <;> rfl
@[simp] theorem reportAs_tmr (r : Report) (s : State) : (reportAs r s).tmr = s.tmr := by unfold reportAs; split <;> rfl
@[simp] theorem reportAs_crc (r : Report) (s : State) : (reportAs r s).crc = s.crc := by unfold reportAs; split <;> rfl
@[simp] theorem reportAs_crcRef (r : Report) (s : State) : (reportAs r s).crcRef = s.crcRef := by unfold reportAs; split <;> rfl
@[simp] theorem reportAs_pcie (r : Report) (s : State) : (reportAs r s).pcie = s.pcie := by unfold reportAs; split <;> rfl
@[simp] theorem reportAs_mgt (r : Report) (s : State) : (reportAs r s).mgt = s.mgt := by unfold reportAs; split <;> rfl
@[simp] theorem reportAs_dbg (r : Report) (s : State) : (reportAs r s).dbg = s.dbg := by unfold reportAs; split <;> rfl
@[simp] theorem reportAs_uart (r : Report) (s : State) : (reportAs r s).uart = s.uart := by unfold reportAs; split <;> rfl
@[simp] theorem reportAs_latch (r : Report) (s : State) : (reportAs r s).latch = s.latch := by unfold reportAs; split <;> rfl
@[simp] theorem reportAs_ilkA (r : Report) (s : State) : (reportAs r s).ilkA = s.ilkA := by unfold reportAs; split <;> rfl
@[simp] theorem reportAs_ilkB (r : Report) (s : State) : (reportAs r s).ilkB = s.ilkB := by unfold reportAs; split <;> rfl
@[simp] theorem reportAs_ilkl (r : Report) (s : State) : (reportAs r s).ilkl = s.ilkl := by unfold reportAs; split <;> rfl
@[simp] theorem reportAs_tab (r : Report) (s : State) : (reportAs r s).tab = s.tab := by unfold reportAs; split <;> rfl
@[simp] theorem reportAs_dhd (r : Report) (s : State) : (reportAs r s).dhd = s.dhd := by unfold reportAs; split <;> rfl
@[simp] theorem reportAs_ep (r : Report) (s : State) : (reportAs r s).ep = s.ep := by unfold reportAs; split <;> rfl
@[simp] theorem reportAs_tiles (r : Report) (s : State) : (reportAs r s).tiles = s.tiles := by unfold reportAs; split <;> rfl
@[simp] theorem reportAs_links (r : Report) (s : State) : (reportAs r s).links = s.links := by unfold reportAs; split <;> rfl
@[simp] theorem reportAs_tbl (r : Report) (s : State) : (reportAs r s).tbl = s.tbl := by unfold reportAs; split <;> rfl
@[simp] theorem reportAs_sto (r : Report) (s : State) : (reportAs r s).sto = s.sto := by unfold reportAs; split <;> rfl
@[simp] theorem reportAs_boot (r : Report) (s : State) : (reportAs r s).boot = s.boot := by unfold reportAs; split <;> rfl
@[simp] theorem reportAs_jrn (r : Report) (s : State) : (reportAs r s).jrn = s.jrn := by unfold reportAs; split <;> rfl
@[simp] theorem reportAs_ast (r : Report) (s : State) : (reportAs r s).ast = s.ast := by unfold reportAs; split <;> rfl
@[simp] theorem reportAs_tch (r : Report) (s : State) : (reportAs r s).tch = s.tch := by unfold reportAs; split <;> rfl
@[simp] theorem reportAs_hmk (r : Report) (s : State) : (reportAs r s).hmk = s.hmk := by unfold reportAs; split <;> rfl
@[simp] theorem reportAs_lmn (r : Report) (s : State) : (reportAs r s).lmn = s.lmn := by unfold reportAs; split <;> rfl
@[simp] theorem reportAs_pwr (r : Report) (s : State) : (reportAs r s).pwr = s.pwr := by unfold reportAs; split <;> rfl
theorem reportAs_fcr (r : Report) (s : State) (h : srcExists s.variant r.src = true) : (reportAs r s).fcr = { s.fcr with inbox := s.fcr.inbox ++ [r] } := by unfold reportAs; simp [h]

@[simp] theorem report_pending (src : Nat) (synd : Word32) (detail page : Nat) (s : State) : (report src synd detail page s).pending = s.pending := reportAs_pending _ _
@[simp] theorem report_variant (src : Nat) (synd : Word32) (detail page : Nat) (s : State) : (report src synd detail page s).variant = s.variant := reportAs_variant _ _
@[simp] theorem report_free (src : Nat) (synd : Word32) (detail page : Nat) (s : State) : (report src synd detail page s).free = s.free := reportAs_free _ _
@[simp] theorem report_pages (src : Nat) (synd : Word32) (detail page : Nat) (s : State) : (report src synd detail page s).pages = s.pages := reportAs_pages _ _
@[simp] theorem report_sys (src : Nat) (synd : Word32) (detail page : Nat) (s : State) : (report src synd detail page s).sys = s.sys := reportAs_sys _ _
@[simp] theorem report_rst (src : Nat) (synd : Word32) (detail page : Nat) (s : State) : (report src synd detail page s).rst = s.rst := reportAs_rst _ _
@[simp] theorem report_clkg (src : Nat) (synd : Word32) (detail page : Nat) (s : State) : (report src synd detail page s).clkg = s.clkg := reportAs_clkg _ _
@[simp] theorem report_queues (src : Nat) (synd : Word32) (detail page : Nat) (s : State) : (report src synd detail page s).queues = s.queues := reportAs_queues _ _
@[simp] theorem report_fab (src : Nat) (synd : Word32) (detail page : Nat) (s : State) : (report src synd detail page s).fab = s.fab := reportAs_fab _ _
@[simp] theorem report_arb (src : Nat) (synd : Word32) (detail page : Nat) (s : State) : (report src synd detail page s).arb = s.arb := reportAs_arb _ _
@[simp] theorem report_tb (src : Nat) (synd : Word32) (detail page : Nat) (s : State) : (report src synd detail page s).tb = s.tb := reportAs_tb _ _
@[simp] theorem report_tmr (src : Nat) (synd : Word32) (detail page : Nat) (s : State) : (report src synd detail page s).tmr = s.tmr := reportAs_tmr _ _
@[simp] theorem report_crc (src : Nat) (synd : Word32) (detail page : Nat) (s : State) : (report src synd detail page s).crc = s.crc := reportAs_crc _ _
@[simp] theorem report_crcRef (src : Nat) (synd : Word32) (detail page : Nat) (s : State) : (report src synd detail page s).crcRef = s.crcRef := reportAs_crcRef _ _
@[simp] theorem report_pcie (src : Nat) (synd : Word32) (detail page : Nat) (s : State) : (report src synd detail page s).pcie = s.pcie := reportAs_pcie _ _
@[simp] theorem report_mgt (src : Nat) (synd : Word32) (detail page : Nat) (s : State) : (report src synd detail page s).mgt = s.mgt := reportAs_mgt _ _
@[simp] theorem report_dbg (src : Nat) (synd : Word32) (detail page : Nat) (s : State) : (report src synd detail page s).dbg = s.dbg := reportAs_dbg _ _
@[simp] theorem report_uart (src : Nat) (synd : Word32) (detail page : Nat) (s : State) : (report src synd detail page s).uart = s.uart := reportAs_uart _ _
@[simp] theorem report_latch (src : Nat) (synd : Word32) (detail page : Nat) (s : State) : (report src synd detail page s).latch = s.latch := reportAs_latch _ _
@[simp] theorem report_ilkA (src : Nat) (synd : Word32) (detail page : Nat) (s : State) : (report src synd detail page s).ilkA = s.ilkA := reportAs_ilkA _ _
@[simp] theorem report_ilkB (src : Nat) (synd : Word32) (detail page : Nat) (s : State) : (report src synd detail page s).ilkB = s.ilkB := reportAs_ilkB _ _
@[simp] theorem report_ilkl (src : Nat) (synd : Word32) (detail page : Nat) (s : State) : (report src synd detail page s).ilkl = s.ilkl := reportAs_ilkl _ _
@[simp] theorem report_tab (src : Nat) (synd : Word32) (detail page : Nat) (s : State) : (report src synd detail page s).tab = s.tab := reportAs_tab _ _
@[simp] theorem report_dhd (src : Nat) (synd : Word32) (detail page : Nat) (s : State) : (report src synd detail page s).dhd = s.dhd := reportAs_dhd _ _
@[simp] theorem report_ep (src : Nat) (synd : Word32) (detail page : Nat) (s : State) : (report src synd detail page s).ep = s.ep := reportAs_ep _ _
@[simp] theorem report_tiles (src : Nat) (synd : Word32) (detail page : Nat) (s : State) : (report src synd detail page s).tiles = s.tiles := reportAs_tiles _ _
@[simp] theorem report_links (src : Nat) (synd : Word32) (detail page : Nat) (s : State) : (report src synd detail page s).links = s.links := reportAs_links _ _
@[simp] theorem report_tbl (src : Nat) (synd : Word32) (detail page : Nat) (s : State) : (report src synd detail page s).tbl = s.tbl := reportAs_tbl _ _
@[simp] theorem report_sto (src : Nat) (synd : Word32) (detail page : Nat) (s : State) : (report src synd detail page s).sto = s.sto := reportAs_sto _ _
@[simp] theorem report_boot (src : Nat) (synd : Word32) (detail page : Nat) (s : State) : (report src synd detail page s).boot = s.boot := reportAs_boot _ _
@[simp] theorem report_jrn (src : Nat) (synd : Word32) (detail page : Nat) (s : State) : (report src synd detail page s).jrn = s.jrn := reportAs_jrn _ _
@[simp] theorem report_ast (src : Nat) (synd : Word32) (detail page : Nat) (s : State) : (report src synd detail page s).ast = s.ast := reportAs_ast _ _
@[simp] theorem report_tch (src : Nat) (synd : Word32) (detail page : Nat) (s : State) : (report src synd detail page s).tch = s.tch := reportAs_tch _ _
@[simp] theorem report_hmk (src : Nat) (synd : Word32) (detail page : Nat) (s : State) : (report src synd detail page s).hmk = s.hmk := reportAs_hmk _ _
@[simp] theorem report_lmn (src : Nat) (synd : Word32) (detail page : Nat) (s : State) : (report src synd detail page s).lmn = s.lmn := reportAs_lmn _ _
@[simp] theorem report_pwr (src : Nat) (synd : Word32) (detail page : Nat) (s : State) : (report src synd detail page s).pwr = s.pwr := reportAs_pwr _ _
theorem report_fcr (src : Nat) (synd : Word32) (detail page : Nat) (s : State) (h : srcExists s.variant src = true) : (report src synd detail page s).fcr = told s src synd detail page := reportAs_fcr _ _ h

@[simp] theorem report0_pending (src page : Nat) (s : State) : (report0 src page s).pending = s.pending := reportAs_pending _ _
@[simp] theorem report0_variant (src page : Nat) (s : State) : (report0 src page s).variant = s.variant := reportAs_variant _ _
@[simp] theorem report0_free (src page : Nat) (s : State) : (report0 src page s).free = s.free := reportAs_free _ _
@[simp] theorem report0_pages (src page : Nat) (s : State) : (report0 src page s).pages = s.pages := reportAs_pages _ _
@[simp] theorem report0_sys (src page : Nat) (s : State) : (report0 src page s).sys = s.sys := reportAs_sys _ _
@[simp] theorem report0_rst (src page : Nat) (s : State) : (report0 src page s).rst = s.rst := reportAs_rst _ _
@[simp] theorem report0_clkg (src page : Nat) (s : State) : (report0 src page s).clkg = s.clkg := reportAs_clkg _ _
@[simp] theorem report0_queues (src page : Nat) (s : State) : (report0 src page s).queues = s.queues := reportAs_queues _ _
@[simp] theorem report0_fab (src page : Nat) (s : State) : (report0 src page s).fab = s.fab := reportAs_fab _ _
@[simp] theorem report0_arb (src page : Nat) (s : State) : (report0 src page s).arb = s.arb := reportAs_arb _ _
@[simp] theorem report0_tb (src page : Nat) (s : State) : (report0 src page s).tb = s.tb := reportAs_tb _ _
@[simp] theorem report0_tmr (src page : Nat) (s : State) : (report0 src page s).tmr = s.tmr := reportAs_tmr _ _
@[simp] theorem report0_crc (src page : Nat) (s : State) : (report0 src page s).crc = s.crc := reportAs_crc _ _
@[simp] theorem report0_crcRef (src page : Nat) (s : State) : (report0 src page s).crcRef = s.crcRef := reportAs_crcRef _ _
@[simp] theorem report0_pcie (src page : Nat) (s : State) : (report0 src page s).pcie = s.pcie := reportAs_pcie _ _
@[simp] theorem report0_mgt (src page : Nat) (s : State) : (report0 src page s).mgt = s.mgt := reportAs_mgt _ _
@[simp] theorem report0_dbg (src page : Nat) (s : State) : (report0 src page s).dbg = s.dbg := reportAs_dbg _ _
@[simp] theorem report0_uart (src page : Nat) (s : State) : (report0 src page s).uart = s.uart := reportAs_uart _ _
@[simp] theorem report0_latch (src page : Nat) (s : State) : (report0 src page s).latch = s.latch := reportAs_latch _ _
@[simp] theorem report0_ilkA (src page : Nat) (s : State) : (report0 src page s).ilkA = s.ilkA := reportAs_ilkA _ _
@[simp] theorem report0_ilkB (src page : Nat) (s : State) : (report0 src page s).ilkB = s.ilkB := reportAs_ilkB _ _
@[simp] theorem report0_ilkl (src page : Nat) (s : State) : (report0 src page s).ilkl = s.ilkl := reportAs_ilkl _ _
@[simp] theorem report0_tab (src page : Nat) (s : State) : (report0 src page s).tab = s.tab := reportAs_tab _ _
@[simp] theorem report0_dhd (src page : Nat) (s : State) : (report0 src page s).dhd = s.dhd := reportAs_dhd _ _
@[simp] theorem report0_ep (src page : Nat) (s : State) : (report0 src page s).ep = s.ep := reportAs_ep _ _
@[simp] theorem report0_tiles (src page : Nat) (s : State) : (report0 src page s).tiles = s.tiles := reportAs_tiles _ _
@[simp] theorem report0_links (src page : Nat) (s : State) : (report0 src page s).links = s.links := reportAs_links _ _
@[simp] theorem report0_tbl (src page : Nat) (s : State) : (report0 src page s).tbl = s.tbl := reportAs_tbl _ _
@[simp] theorem report0_sto (src page : Nat) (s : State) : (report0 src page s).sto = s.sto := reportAs_sto _ _
@[simp] theorem report0_boot (src page : Nat) (s : State) : (report0 src page s).boot = s.boot := reportAs_boot _ _
@[simp] theorem report0_jrn (src page : Nat) (s : State) : (report0 src page s).jrn = s.jrn := reportAs_jrn _ _
@[simp] theorem report0_ast (src page : Nat) (s : State) : (report0 src page s).ast = s.ast := reportAs_ast _ _
@[simp] theorem report0_tch (src page : Nat) (s : State) : (report0 src page s).tch = s.tch := reportAs_tch _ _
@[simp] theorem report0_hmk (src page : Nat) (s : State) : (report0 src page s).hmk = s.hmk := reportAs_hmk _ _
@[simp] theorem report0_lmn (src page : Nat) (s : State) : (report0 src page s).lmn = s.lmn := reportAs_lmn _ _
@[simp] theorem report0_pwr (src page : Nat) (s : State) : (report0 src page s).pwr = s.pwr := reportAs_pwr _ _
theorem report0_fcr (src page : Nat) (s : State) (h : srcExists s.variant src = true) : (report0 src page s).fcr = told s src 0 0 page := reportAs_fcr _ _ h

@[simp] theorem reportIf_pending (c : Bool) (src page : Nat) (s : State) : (reportIf c src page s).pending = s.pending := by unfold reportIf; split <;> simp
@[simp] theorem reportIf_variant (c : Bool) (src page : Nat) (s : State) : (reportIf c src page s).variant = s.variant := by unfold reportIf; split <;> simp
@[simp] theorem reportIf_free (c : Bool) (src page : Nat) (s : State) : (reportIf c src page s).free = s.free := by unfold reportIf; split <;> simp
@[simp] theorem reportIf_pages (c : Bool) (src page : Nat) (s : State) : (reportIf c src page s).pages = s.pages := by unfold reportIf; split <;> simp
@[simp] theorem reportIf_sys (c : Bool) (src page : Nat) (s : State) : (reportIf c src page s).sys = s.sys := by unfold reportIf; split <;> simp
@[simp] theorem reportIf_rst (c : Bool) (src page : Nat) (s : State) : (reportIf c src page s).rst = s.rst := by unfold reportIf; split <;> simp
@[simp] theorem reportIf_clkg (c : Bool) (src page : Nat) (s : State) : (reportIf c src page s).clkg = s.clkg := by unfold reportIf; split <;> simp
@[simp] theorem reportIf_queues (c : Bool) (src page : Nat) (s : State) : (reportIf c src page s).queues = s.queues := by unfold reportIf; split <;> simp
@[simp] theorem reportIf_fab (c : Bool) (src page : Nat) (s : State) : (reportIf c src page s).fab = s.fab := by unfold reportIf; split <;> simp
@[simp] theorem reportIf_arb (c : Bool) (src page : Nat) (s : State) : (reportIf c src page s).arb = s.arb := by unfold reportIf; split <;> simp
@[simp] theorem reportIf_tb (c : Bool) (src page : Nat) (s : State) : (reportIf c src page s).tb = s.tb := by unfold reportIf; split <;> simp
@[simp] theorem reportIf_tmr (c : Bool) (src page : Nat) (s : State) : (reportIf c src page s).tmr = s.tmr := by unfold reportIf; split <;> simp
@[simp] theorem reportIf_crc (c : Bool) (src page : Nat) (s : State) : (reportIf c src page s).crc = s.crc := by unfold reportIf; split <;> simp
@[simp] theorem reportIf_crcRef (c : Bool) (src page : Nat) (s : State) : (reportIf c src page s).crcRef = s.crcRef := by unfold reportIf; split <;> simp
@[simp] theorem reportIf_pcie (c : Bool) (src page : Nat) (s : State) : (reportIf c src page s).pcie = s.pcie := by unfold reportIf; split <;> simp
@[simp] theorem reportIf_mgt (c : Bool) (src page : Nat) (s : State) : (reportIf c src page s).mgt = s.mgt := by unfold reportIf; split <;> simp
@[simp] theorem reportIf_dbg (c : Bool) (src page : Nat) (s : State) : (reportIf c src page s).dbg = s.dbg := by unfold reportIf; split <;> simp
@[simp] theorem reportIf_uart (c : Bool) (src page : Nat) (s : State) : (reportIf c src page s).uart = s.uart := by unfold reportIf; split <;> simp
@[simp] theorem reportIf_latch (c : Bool) (src page : Nat) (s : State) : (reportIf c src page s).latch = s.latch := by unfold reportIf; split <;> simp
@[simp] theorem reportIf_ilkA (c : Bool) (src page : Nat) (s : State) : (reportIf c src page s).ilkA = s.ilkA := by unfold reportIf; split <;> simp
@[simp] theorem reportIf_ilkB (c : Bool) (src page : Nat) (s : State) : (reportIf c src page s).ilkB = s.ilkB := by unfold reportIf; split <;> simp
@[simp] theorem reportIf_ilkl (c : Bool) (src page : Nat) (s : State) : (reportIf c src page s).ilkl = s.ilkl := by unfold reportIf; split <;> simp
@[simp] theorem reportIf_tab (c : Bool) (src page : Nat) (s : State) : (reportIf c src page s).tab = s.tab := by unfold reportIf; split <;> simp
@[simp] theorem reportIf_dhd (c : Bool) (src page : Nat) (s : State) : (reportIf c src page s).dhd = s.dhd := by unfold reportIf; split <;> simp
@[simp] theorem reportIf_ep (c : Bool) (src page : Nat) (s : State) : (reportIf c src page s).ep = s.ep := by unfold reportIf; split <;> simp
@[simp] theorem reportIf_tiles (c : Bool) (src page : Nat) (s : State) : (reportIf c src page s).tiles = s.tiles := by unfold reportIf; split <;> simp
@[simp] theorem reportIf_links (c : Bool) (src page : Nat) (s : State) : (reportIf c src page s).links = s.links := by unfold reportIf; split <;> simp
@[simp] theorem reportIf_tbl (c : Bool) (src page : Nat) (s : State) : (reportIf c src page s).tbl = s.tbl := by unfold reportIf; split <;> simp
@[simp] theorem reportIf_sto (c : Bool) (src page : Nat) (s : State) : (reportIf c src page s).sto = s.sto := by unfold reportIf; split <;> simp
@[simp] theorem reportIf_boot (c : Bool) (src page : Nat) (s : State) : (reportIf c src page s).boot = s.boot := by unfold reportIf; split <;> simp
@[simp] theorem reportIf_jrn (c : Bool) (src page : Nat) (s : State) : (reportIf c src page s).jrn = s.jrn := by unfold reportIf; split <;> simp
@[simp] theorem reportIf_ast (c : Bool) (src page : Nat) (s : State) : (reportIf c src page s).ast = s.ast := by unfold reportIf; split <;> simp
@[simp] theorem reportIf_tch (c : Bool) (src page : Nat) (s : State) : (reportIf c src page s).tch = s.tch := by unfold reportIf; split <;> simp
@[simp] theorem reportIf_hmk (c : Bool) (src page : Nat) (s : State) : (reportIf c src page s).hmk = s.hmk := by unfold reportIf; split <;> simp
@[simp] theorem reportIf_lmn (c : Bool) (src page : Nat) (s : State) : (reportIf c src page s).lmn = s.lmn := by unfold reportIf; split <;> simp
@[simp] theorem reportIf_pwr (c : Bool) (src page : Nat) (s : State) : (reportIf c src page s).pwr = s.pwr := by unfold reportIf; split <;> simp

@[simp] theorem readPort_pending (p : Nat) (w : WordCheck) (s : State) : (readPort p w s).2.pending = s.pending := by unfold readPort; dsimp only; (repeat' split) <;> rfl
@[simp] theorem readPort_variant (p : Nat) (w : WordCheck) (s : State) : (readPort p w s).2.variant = s.variant := by unfold readPort; dsimp only; (repeat' split) <;> rfl
@[simp] theorem readPort_sys (p : Nat) (w : WordCheck) (s : State) : (readPort p w s).2.sys = s.sys := by unfold readPort; dsimp only; (repeat' split) <;> rfl
@[simp] theorem readPort_rst (p : Nat) (w : WordCheck) (s : State) : (readPort p w s).2.rst = s.rst := by unfold readPort; dsimp only; (repeat' split) <;> rfl
@[simp] theorem readPort_clkg (p : Nat) (w : WordCheck) (s : State) : (readPort p w s).2.clkg = s.clkg := by unfold readPort; dsimp only; (repeat' split) <;> rfl
@[simp] theorem readPort_queues (p : Nat) (w : WordCheck) (s : State) : (readPort p w s).2.queues = s.queues := by unfold readPort; dsimp only; (repeat' split) <;> rfl
@[simp] theorem readPort_fab (p : Nat) (w : WordCheck) (s : State) : (readPort p w s).2.fab = s.fab := by unfold readPort; dsimp only; (repeat' split) <;> rfl
@[simp] theorem readPort_arb (p : Nat) (w : WordCheck) (s : State) : (readPort p w s).2.arb = s.arb := by unfold readPort; dsimp only; (repeat' split) <;> rfl
@[simp] theorem readPort_tb (p : Nat) (w : WordCheck) (s : State) : (readPort p w s).2.tb = s.tb := by unfold readPort; dsimp only; (repeat' split) <;> rfl
@[simp] theorem readPort_tmr (p : Nat) (w : WordCheck) (s : State) : (readPort p w s).2.tmr = s.tmr := by unfold readPort; dsimp only; (repeat' split) <;> rfl
@[simp] theorem readPort_fcr (p : Nat) (w : WordCheck) (s : State) : (readPort p w s).2.fcr = s.fcr := by unfold readPort; dsimp only; (repeat' split) <;> rfl
@[simp] theorem readPort_crc (p : Nat) (w : WordCheck) (s : State) : (readPort p w s).2.crc = s.crc := by unfold readPort; dsimp only; (repeat' split) <;> rfl
@[simp] theorem readPort_crcRef (p : Nat) (w : WordCheck) (s : State) : (readPort p w s).2.crcRef = s.crcRef := by unfold readPort; dsimp only; (repeat' split) <;> rfl
@[simp] theorem readPort_pcie (p : Nat) (w : WordCheck) (s : State) : (readPort p w s).2.pcie = s.pcie := by unfold readPort; dsimp only; (repeat' split) <;> rfl
@[simp] theorem readPort_mgt (p : Nat) (w : WordCheck) (s : State) : (readPort p w s).2.mgt = s.mgt := by unfold readPort; dsimp only; (repeat' split) <;> rfl
@[simp] theorem readPort_dbg (p : Nat) (w : WordCheck) (s : State) : (readPort p w s).2.dbg = s.dbg := by unfold readPort; dsimp only; (repeat' split) <;> rfl
@[simp] theorem readPort_uart (p : Nat) (w : WordCheck) (s : State) : (readPort p w s).2.uart = s.uart := by unfold readPort; dsimp only; (repeat' split) <;> rfl
@[simp] theorem readPort_latch (p : Nat) (w : WordCheck) (s : State) : (readPort p w s).2.latch = s.latch := by unfold readPort; dsimp only; (repeat' split) <;> rfl
@[simp] theorem readPort_ilkA (p : Nat) (w : WordCheck) (s : State) : (readPort p w s).2.ilkA = s.ilkA := by unfold readPort; dsimp only; (repeat' split) <;> rfl
@[simp] theorem readPort_ilkB (p : Nat) (w : WordCheck) (s : State) : (readPort p w s).2.ilkB = s.ilkB := by unfold readPort; dsimp only; (repeat' split) <;> rfl
@[simp] theorem readPort_ilkl (p : Nat) (w : WordCheck) (s : State) : (readPort p w s).2.ilkl = s.ilkl := by unfold readPort; dsimp only; (repeat' split) <;> rfl
@[simp] theorem readPort_tab (p : Nat) (w : WordCheck) (s : State) : (readPort p w s).2.tab = s.tab := by unfold readPort; dsimp only; (repeat' split) <;> rfl
@[simp] theorem readPort_dhd (p : Nat) (w : WordCheck) (s : State) : (readPort p w s).2.dhd = s.dhd := by unfold readPort; dsimp only; (repeat' split) <;> rfl
@[simp] theorem readPort_ep (p : Nat) (w : WordCheck) (s : State) : (readPort p w s).2.ep = s.ep := by unfold readPort; dsimp only; (repeat' split) <;> rfl
@[simp] theorem readPort_tiles (p : Nat) (w : WordCheck) (s : State) : (readPort p w s).2.tiles = s.tiles := by unfold readPort; dsimp only; (repeat' split) <;> rfl
@[simp] theorem readPort_links (p : Nat) (w : WordCheck) (s : State) : (readPort p w s).2.links = s.links := by unfold readPort; dsimp only; (repeat' split) <;> rfl
@[simp] theorem readPort_tbl (p : Nat) (w : WordCheck) (s : State) : (readPort p w s).2.tbl = s.tbl := by unfold readPort; dsimp only; (repeat' split) <;> rfl
@[simp] theorem readPort_sto (p : Nat) (w : WordCheck) (s : State) : (readPort p w s).2.sto = s.sto := by unfold readPort; dsimp only; (repeat' split) <;> rfl
@[simp] theorem readPort_boot (p : Nat) (w : WordCheck) (s : State) : (readPort p w s).2.boot = s.boot := by unfold readPort; dsimp only; (repeat' split) <;> rfl
@[simp] theorem readPort_jrn (p : Nat) (w : WordCheck) (s : State) : (readPort p w s).2.jrn = s.jrn := by unfold readPort; dsimp only; (repeat' split) <;> rfl
@[simp] theorem readPort_ast (p : Nat) (w : WordCheck) (s : State) : (readPort p w s).2.ast = s.ast := by unfold readPort; dsimp only; (repeat' split) <;> rfl
@[simp] theorem readPort_tch (p : Nat) (w : WordCheck) (s : State) : (readPort p w s).2.tch = s.tch := by unfold readPort; dsimp only; (repeat' split) <;> rfl
@[simp] theorem readPort_hmk (p : Nat) (w : WordCheck) (s : State) : (readPort p w s).2.hmk = s.hmk := by unfold readPort; dsimp only; (repeat' split) <;> rfl
@[simp] theorem readPort_lmn (p : Nat) (w : WordCheck) (s : State) : (readPort p w s).2.lmn = s.lmn := by unfold readPort; dsimp only; (repeat' split) <;> rfl
@[simp] theorem readPort_pwr (p : Nat) (w : WordCheck) (s : State) : (readPort p w s).2.pwr = s.pwr := by unfold readPort; dsimp only; (repeat' split) <;> rfl

@[simp] theorem readThrice_pending (p : Nat) (w : WordCheck) (s : State) : (readThrice p w s).2.pending = s.pending := by unfold readThrice; dsimp only; (repeat' split) <;> simp
@[simp] theorem readThrice_variant (p : Nat) (w : WordCheck) (s : State) : (readThrice p w s).2.variant = s.variant := by unfold readThrice; dsimp only; (repeat' split) <;> simp
@[simp] theorem readThrice_sys (p : Nat) (w : WordCheck) (s : State) : (readThrice p w s).2.sys = s.sys := by unfold readThrice; dsimp only; (repeat' split) <;> simp
@[simp] theorem readThrice_rst (p : Nat) (w : WordCheck) (s : State) : (readThrice p w s).2.rst = s.rst := by unfold readThrice; dsimp only; (repeat' split) <;> simp
@[simp] theorem readThrice_clkg (p : Nat) (w : WordCheck) (s : State) : (readThrice p w s).2.clkg = s.clkg := by unfold readThrice; dsimp only; (repeat' split) <;> simp
@[simp] theorem readThrice_queues (p : Nat) (w : WordCheck) (s : State) : (readThrice p w s).2.queues = s.queues := by unfold readThrice; dsimp only; (repeat' split) <;> simp
@[simp] theorem readThrice_fab (p : Nat) (w : WordCheck) (s : State) : (readThrice p w s).2.fab = s.fab := by unfold readThrice; dsimp only; (repeat' split) <;> simp
@[simp] theorem readThrice_arb (p : Nat) (w : WordCheck) (s : State) : (readThrice p w s).2.arb = s.arb := by unfold readThrice; dsimp only; (repeat' split) <;> simp
@[simp] theorem readThrice_tb (p : Nat) (w : WordCheck) (s : State) : (readThrice p w s).2.tb = s.tb := by unfold readThrice; dsimp only; (repeat' split) <;> simp
@[simp] theorem readThrice_tmr (p : Nat) (w : WordCheck) (s : State) : (readThrice p w s).2.tmr = s.tmr := by unfold readThrice; dsimp only; (repeat' split) <;> simp
@[simp] theorem readThrice_fcr (p : Nat) (w : WordCheck) (s : State) : (readThrice p w s).2.fcr = s.fcr := by unfold readThrice; dsimp only; (repeat' split) <;> simp
@[simp] theorem readThrice_crc (p : Nat) (w : WordCheck) (s : State) : (readThrice p w s).2.crc = s.crc := by unfold readThrice; dsimp only; (repeat' split) <;> simp
@[simp] theorem readThrice_crcRef (p : Nat) (w : WordCheck) (s : State) : (readThrice p w s).2.crcRef = s.crcRef := by unfold readThrice; dsimp only; (repeat' split) <;> simp
@[simp] theorem readThrice_pcie (p : Nat) (w : WordCheck) (s : State) : (readThrice p w s).2.pcie = s.pcie := by unfold readThrice; dsimp only; (repeat' split) <;> simp
@[simp] theorem readThrice_mgt (p : Nat) (w : WordCheck) (s : State) : (readThrice p w s).2.mgt = s.mgt := by unfold readThrice; dsimp only; (repeat' split) <;> simp
@[simp] theorem readThrice_dbg (p : Nat) (w : WordCheck) (s : State) : (readThrice p w s).2.dbg = s.dbg := by unfold readThrice; dsimp only; (repeat' split) <;> simp
@[simp] theorem readThrice_uart (p : Nat) (w : WordCheck) (s : State) : (readThrice p w s).2.uart = s.uart := by unfold readThrice; dsimp only; (repeat' split) <;> simp
@[simp] theorem readThrice_latch (p : Nat) (w : WordCheck) (s : State) : (readThrice p w s).2.latch = s.latch := by unfold readThrice; dsimp only; (repeat' split) <;> simp
@[simp] theorem readThrice_ilkA (p : Nat) (w : WordCheck) (s : State) : (readThrice p w s).2.ilkA = s.ilkA := by unfold readThrice; dsimp only; (repeat' split) <;> simp
@[simp] theorem readThrice_ilkB (p : Nat) (w : WordCheck) (s : State) : (readThrice p w s).2.ilkB = s.ilkB := by unfold readThrice; dsimp only; (repeat' split) <;> simp
@[simp] theorem readThrice_ilkl (p : Nat) (w : WordCheck) (s : State) : (readThrice p w s).2.ilkl = s.ilkl := by unfold readThrice; dsimp only; (repeat' split) <;> simp
@[simp] theorem readThrice_tab (p : Nat) (w : WordCheck) (s : State) : (readThrice p w s).2.tab = s.tab := by unfold readThrice; dsimp only; (repeat' split) <;> simp
@[simp] theorem readThrice_dhd (p : Nat) (w : WordCheck) (s : State) : (readThrice p w s).2.dhd = s.dhd := by unfold readThrice; dsimp only; (repeat' split) <;> simp
@[simp] theorem readThrice_ep (p : Nat) (w : WordCheck) (s : State) : (readThrice p w s).2.ep = s.ep := by unfold readThrice; dsimp only; (repeat' split) <;> simp
@[simp] theorem readThrice_tiles (p : Nat) (w : WordCheck) (s : State) : (readThrice p w s).2.tiles = s.tiles := by unfold readThrice; dsimp only; (repeat' split) <;> simp
@[simp] theorem readThrice_links (p : Nat) (w : WordCheck) (s : State) : (readThrice p w s).2.links = s.links := by unfold readThrice; dsimp only; (repeat' split) <;> simp
@[simp] theorem readThrice_tbl (p : Nat) (w : WordCheck) (s : State) : (readThrice p w s).2.tbl = s.tbl := by unfold readThrice; dsimp only; (repeat' split) <;> simp
@[simp] theorem readThrice_sto (p : Nat) (w : WordCheck) (s : State) : (readThrice p w s).2.sto = s.sto := by unfold readThrice; dsimp only; (repeat' split) <;> simp
@[simp] theorem readThrice_boot (p : Nat) (w : WordCheck) (s : State) : (readThrice p w s).2.boot = s.boot := by unfold readThrice; dsimp only; (repeat' split) <;> simp
@[simp] theorem readThrice_jrn (p : Nat) (w : WordCheck) (s : State) : (readThrice p w s).2.jrn = s.jrn := by unfold readThrice; dsimp only; (repeat' split) <;> simp
@[simp] theorem readThrice_ast (p : Nat) (w : WordCheck) (s : State) : (readThrice p w s).2.ast = s.ast := by unfold readThrice; dsimp only; (repeat' split) <;> simp
@[simp] theorem readThrice_tch (p : Nat) (w : WordCheck) (s : State) : (readThrice p w s).2.tch = s.tch := by unfold readThrice; dsimp only; (repeat' split) <;> simp
@[simp] theorem readThrice_hmk (p : Nat) (w : WordCheck) (s : State) : (readThrice p w s).2.hmk = s.hmk := by unfold readThrice; dsimp only; (repeat' split) <;> simp
@[simp] theorem readThrice_lmn (p : Nat) (w : WordCheck) (s : State) : (readThrice p w s).2.lmn = s.lmn := by unfold readThrice; dsimp only; (repeat' split) <;> simp
@[simp] theorem readThrice_pwr (p : Nat) (w : WordCheck) (s : State) : (readThrice p w s).2.pwr = s.pwr := by unfold readThrice; dsimp only; (repeat' split) <;> simp

@[simp] theorem isolateCell_pending (page cell : Nat) (u : Bool) (s : State) : (isolateCell page cell u s).pending = s.pending := by unfold isolateCell; simp
@[simp] theorem isolateCell_variant (page cell : Nat) (u : Bool) (s : State) : (isolateCell page cell u s).variant = s.variant := by unfold isolateCell; simp
@[simp] theorem isolateCell_sys (page cell : Nat) (u : Bool) (s : State) : (isolateCell page cell u s).sys = s.sys := by unfold isolateCell; simp
@[simp] theorem isolateCell_rst (page cell : Nat) (u : Bool) (s : State) : (isolateCell page cell u s).rst = s.rst := by unfold isolateCell; simp
@[simp] theorem isolateCell_clkg (page cell : Nat) (u : Bool) (s : State) : (isolateCell page cell u s).clkg = s.clkg := by unfold isolateCell; simp
@[simp] theorem isolateCell_queues (page cell : Nat) (u : Bool) (s : State) : (isolateCell page cell u s).queues = s.queues := by unfold isolateCell; simp
@[simp] theorem isolateCell_tb (page cell : Nat) (u : Bool) (s : State) : (isolateCell page cell u s).tb = s.tb := by unfold isolateCell; simp
@[simp] theorem isolateCell_tmr (page cell : Nat) (u : Bool) (s : State) : (isolateCell page cell u s).tmr = s.tmr := by unfold isolateCell; simp
@[simp] theorem isolateCell_crc (page cell : Nat) (u : Bool) (s : State) : (isolateCell page cell u s).crc = s.crc := by unfold isolateCell; simp
@[simp] theorem isolateCell_crcRef (page cell : Nat) (u : Bool) (s : State) : (isolateCell page cell u s).crcRef = s.crcRef := by unfold isolateCell; simp
@[simp] theorem isolateCell_pcie (page cell : Nat) (u : Bool) (s : State) : (isolateCell page cell u s).pcie = s.pcie := by unfold isolateCell; simp
@[simp] theorem isolateCell_mgt (page cell : Nat) (u : Bool) (s : State) : (isolateCell page cell u s).mgt = s.mgt := by unfold isolateCell; simp
@[simp] theorem isolateCell_dbg (page cell : Nat) (u : Bool) (s : State) : (isolateCell page cell u s).dbg = s.dbg := by unfold isolateCell; simp
@[simp] theorem isolateCell_uart (page cell : Nat) (u : Bool) (s : State) : (isolateCell page cell u s).uart = s.uart := by unfold isolateCell; simp
@[simp] theorem isolateCell_latch (page cell : Nat) (u : Bool) (s : State) : (isolateCell page cell u s).latch = s.latch := by unfold isolateCell; simp
@[simp] theorem isolateCell_ilkA (page cell : Nat) (u : Bool) (s : State) : (isolateCell page cell u s).ilkA = s.ilkA := by unfold isolateCell; simp
@[simp] theorem isolateCell_ilkB (page cell : Nat) (u : Bool) (s : State) : (isolateCell page cell u s).ilkB = s.ilkB := by unfold isolateCell; simp
@[simp] theorem isolateCell_ilkl (page cell : Nat) (u : Bool) (s : State) : (isolateCell page cell u s).ilkl = s.ilkl := by unfold isolateCell; simp
@[simp] theorem isolateCell_tab (page cell : Nat) (u : Bool) (s : State) : (isolateCell page cell u s).tab = s.tab := by unfold isolateCell; simp
@[simp] theorem isolateCell_dhd (page cell : Nat) (u : Bool) (s : State) : (isolateCell page cell u s).dhd = s.dhd := by unfold isolateCell; simp
@[simp] theorem isolateCell_ep (page cell : Nat) (u : Bool) (s : State) : (isolateCell page cell u s).ep = s.ep := by unfold isolateCell; simp
@[simp] theorem isolateCell_tiles (page cell : Nat) (u : Bool) (s : State) : (isolateCell page cell u s).tiles = s.tiles := by unfold isolateCell; simp
@[simp] theorem isolateCell_links (page cell : Nat) (u : Bool) (s : State) : (isolateCell page cell u s).links = s.links := by unfold isolateCell; simp
@[simp] theorem isolateCell_tbl (page cell : Nat) (u : Bool) (s : State) : (isolateCell page cell u s).tbl = s.tbl := by unfold isolateCell; simp
@[simp] theorem isolateCell_sto (page cell : Nat) (u : Bool) (s : State) : (isolateCell page cell u s).sto = s.sto := by unfold isolateCell; simp
@[simp] theorem isolateCell_boot (page cell : Nat) (u : Bool) (s : State) : (isolateCell page cell u s).boot = s.boot := by unfold isolateCell; simp
@[simp] theorem isolateCell_jrn (page cell : Nat) (u : Bool) (s : State) : (isolateCell page cell u s).jrn = s.jrn := by unfold isolateCell; simp
@[simp] theorem isolateCell_ast (page cell : Nat) (u : Bool) (s : State) : (isolateCell page cell u s).ast = s.ast := by unfold isolateCell; simp
@[simp] theorem isolateCell_tch (page cell : Nat) (u : Bool) (s : State) : (isolateCell page cell u s).tch = s.tch := by unfold isolateCell; simp
@[simp] theorem isolateCell_hmk (page cell : Nat) (u : Bool) (s : State) : (isolateCell page cell u s).hmk = s.hmk := by unfold isolateCell; simp
@[simp] theorem isolateCell_lmn (page cell : Nat) (u : Bool) (s : State) : (isolateCell page cell u s).lmn = s.lmn := by unfold isolateCell; simp
@[simp] theorem isolateCell_arb (page cell : Nat) (u : Bool) (s : State) : (isolateCell page cell u s).arb = s.arb := by unfold isolateCell; simp
@[simp] theorem isolateCell_pwr (page cell : Nat) (u : Bool) (s : State) : (isolateCell page cell u s).pwr = s.pwr := by unfold isolateCell; simp

@[simp] theorem readRetry_pending (p c : Nat) (w : WordCheck) (s : State) : (readRetry p c w s).2.pending = s.pending := by unfold readRetry; dsimp only; (repeat' split) <;> simp
@[simp] theorem readRetry_variant (p c : Nat) (w : WordCheck) (s : State) : (readRetry p c w s).2.variant = s.variant := by unfold readRetry; dsimp only; (repeat' split) <;> simp
@[simp] theorem readRetry_sys (p c : Nat) (w : WordCheck) (s : State) : (readRetry p c w s).2.sys = s.sys := by unfold readRetry; dsimp only; (repeat' split) <;> simp
@[simp] theorem readRetry_rst (p c : Nat) (w : WordCheck) (s : State) : (readRetry p c w s).2.rst = s.rst := by unfold readRetry; dsimp only; (repeat' split) <;> simp
@[simp] theorem readRetry_clkg (p c : Nat) (w : WordCheck) (s : State) : (readRetry p c w s).2.clkg = s.clkg := by unfold readRetry; dsimp only; (repeat' split) <;> simp
@[simp] theorem readRetry_queues (p c : Nat) (w : WordCheck) (s : State) : (readRetry p c w s).2.queues = s.queues := by unfold readRetry; dsimp only; (repeat' split) <;> simp
@[simp] theorem readRetry_tb (p c : Nat) (w : WordCheck) (s : State) : (readRetry p c w s).2.tb = s.tb := by unfold readRetry; dsimp only; (repeat' split) <;> simp
@[simp] theorem readRetry_tmr (p c : Nat) (w : WordCheck) (s : State) : (readRetry p c w s).2.tmr = s.tmr := by unfold readRetry; dsimp only; (repeat' split) <;> simp
@[simp] theorem readRetry_crc (p c : Nat) (w : WordCheck) (s : State) : (readRetry p c w s).2.crc = s.crc := by unfold readRetry; dsimp only; (repeat' split) <;> simp
@[simp] theorem readRetry_crcRef (p c : Nat) (w : WordCheck) (s : State) : (readRetry p c w s).2.crcRef = s.crcRef := by unfold readRetry; dsimp only; (repeat' split) <;> simp
@[simp] theorem readRetry_pcie (p c : Nat) (w : WordCheck) (s : State) : (readRetry p c w s).2.pcie = s.pcie := by unfold readRetry; dsimp only; (repeat' split) <;> simp
@[simp] theorem readRetry_mgt (p c : Nat) (w : WordCheck) (s : State) : (readRetry p c w s).2.mgt = s.mgt := by unfold readRetry; dsimp only; (repeat' split) <;> simp
@[simp] theorem readRetry_dbg (p c : Nat) (w : WordCheck) (s : State) : (readRetry p c w s).2.dbg = s.dbg := by unfold readRetry; dsimp only; (repeat' split) <;> simp
@[simp] theorem readRetry_uart (p c : Nat) (w : WordCheck) (s : State) : (readRetry p c w s).2.uart = s.uart := by unfold readRetry; dsimp only; (repeat' split) <;> simp
@[simp] theorem readRetry_latch (p c : Nat) (w : WordCheck) (s : State) : (readRetry p c w s).2.latch = s.latch := by unfold readRetry; dsimp only; (repeat' split) <;> simp
@[simp] theorem readRetry_ilkA (p c : Nat) (w : WordCheck) (s : State) : (readRetry p c w s).2.ilkA = s.ilkA := by unfold readRetry; dsimp only; (repeat' split) <;> simp
@[simp] theorem readRetry_ilkB (p c : Nat) (w : WordCheck) (s : State) : (readRetry p c w s).2.ilkB = s.ilkB := by unfold readRetry; dsimp only; (repeat' split) <;> simp
@[simp] theorem readRetry_ilkl (p c : Nat) (w : WordCheck) (s : State) : (readRetry p c w s).2.ilkl = s.ilkl := by unfold readRetry; dsimp only; (repeat' split) <;> simp
@[simp] theorem readRetry_tab (p c : Nat) (w : WordCheck) (s : State) : (readRetry p c w s).2.tab = s.tab := by unfold readRetry; dsimp only; (repeat' split) <;> simp
@[simp] theorem readRetry_dhd (p c : Nat) (w : WordCheck) (s : State) : (readRetry p c w s).2.dhd = s.dhd := by unfold readRetry; dsimp only; (repeat' split) <;> simp
@[simp] theorem readRetry_ep (p c : Nat) (w : WordCheck) (s : State) : (readRetry p c w s).2.ep = s.ep := by unfold readRetry; dsimp only; (repeat' split) <;> simp
@[simp] theorem readRetry_tiles (p c : Nat) (w : WordCheck) (s : State) : (readRetry p c w s).2.tiles = s.tiles := by unfold readRetry; dsimp only; (repeat' split) <;> simp
@[simp] theorem readRetry_links (p c : Nat) (w : WordCheck) (s : State) : (readRetry p c w s).2.links = s.links := by unfold readRetry; dsimp only; (repeat' split) <;> simp
@[simp] theorem readRetry_tbl (p c : Nat) (w : WordCheck) (s : State) : (readRetry p c w s).2.tbl = s.tbl := by unfold readRetry; dsimp only; (repeat' split) <;> simp
@[simp] theorem readRetry_sto (p c : Nat) (w : WordCheck) (s : State) : (readRetry p c w s).2.sto = s.sto := by unfold readRetry; dsimp only; (repeat' split) <;> simp
@[simp] theorem readRetry_boot (p c : Nat) (w : WordCheck) (s : State) : (readRetry p c w s).2.boot = s.boot := by unfold readRetry; dsimp only; (repeat' split) <;> simp
@[simp] theorem readRetry_jrn (p c : Nat) (w : WordCheck) (s : State) : (readRetry p c w s).2.jrn = s.jrn := by unfold readRetry; dsimp only; (repeat' split) <;> simp
@[simp] theorem readRetry_ast (p c : Nat) (w : WordCheck) (s : State) : (readRetry p c w s).2.ast = s.ast := by unfold readRetry; dsimp only; (repeat' split) <;> simp
@[simp] theorem readRetry_tch (p c : Nat) (w : WordCheck) (s : State) : (readRetry p c w s).2.tch = s.tch := by unfold readRetry; dsimp only; (repeat' split) <;> simp
@[simp] theorem readRetry_hmk (p c : Nat) (w : WordCheck) (s : State) : (readRetry p c w s).2.hmk = s.hmk := by unfold readRetry; dsimp only; (repeat' split) <;> simp
@[simp] theorem readRetry_lmn (p c : Nat) (w : WordCheck) (s : State) : (readRetry p c w s).2.lmn = s.lmn := by unfold readRetry; dsimp only; (repeat' split) <;> simp
@[simp] theorem readRetry_arb (p c : Nat) (w : WordCheck) (s : State) : (readRetry p c w s).2.arb = s.arb := by unfold readRetry; dsimp only; (repeat' split) <;> simp
@[simp] theorem readRetry_pwr (p c : Nat) (w : WordCheck) (s : State) : (readRetry p c w s).2.pwr = s.pwr := by unfold readRetry; dsimp only; (repeat' split) <;> simp

@[simp] theorem reportRead_pending (corr unc page addr : Nat) (r : ReadOut) (s : State) : (reportRead corr unc page addr r s).pending = s.pending := by unfold reportRead; (repeat' split) <;> simp
@[simp] theorem reportRead_variant (corr unc page addr : Nat) (r : ReadOut) (s : State) : (reportRead corr unc page addr r s).variant = s.variant := by unfold reportRead; (repeat' split) <;> simp
@[simp] theorem reportRead_free (corr unc page addr : Nat) (r : ReadOut) (s : State) : (reportRead corr unc page addr r s).free = s.free := by unfold reportRead; (repeat' split) <;> simp
@[simp] theorem reportRead_pages (corr unc page addr : Nat) (r : ReadOut) (s : State) : (reportRead corr unc page addr r s).pages = s.pages := by unfold reportRead; (repeat' split) <;> simp
@[simp] theorem reportRead_sys (corr unc page addr : Nat) (r : ReadOut) (s : State) : (reportRead corr unc page addr r s).sys = s.sys := by unfold reportRead; (repeat' split) <;> simp
@[simp] theorem reportRead_rst (corr unc page addr : Nat) (r : ReadOut) (s : State) : (reportRead corr unc page addr r s).rst = s.rst := by unfold reportRead; (repeat' split) <;> simp
@[simp] theorem reportRead_clkg (corr unc page addr : Nat) (r : ReadOut) (s : State) : (reportRead corr unc page addr r s).clkg = s.clkg := by unfold reportRead; (repeat' split) <;> simp
@[simp] theorem reportRead_queues (corr unc page addr : Nat) (r : ReadOut) (s : State) : (reportRead corr unc page addr r s).queues = s.queues := by unfold reportRead; (repeat' split) <;> simp
@[simp] theorem reportRead_fab (corr unc page addr : Nat) (r : ReadOut) (s : State) : (reportRead corr unc page addr r s).fab = s.fab := by unfold reportRead; (repeat' split) <;> simp
@[simp] theorem reportRead_arb (corr unc page addr : Nat) (r : ReadOut) (s : State) : (reportRead corr unc page addr r s).arb = s.arb := by unfold reportRead; (repeat' split) <;> simp
@[simp] theorem reportRead_tb (corr unc page addr : Nat) (r : ReadOut) (s : State) : (reportRead corr unc page addr r s).tb = s.tb := by unfold reportRead; (repeat' split) <;> simp
@[simp] theorem reportRead_tmr (corr unc page addr : Nat) (r : ReadOut) (s : State) : (reportRead corr unc page addr r s).tmr = s.tmr := by unfold reportRead; (repeat' split) <;> simp
@[simp] theorem reportRead_crc (corr unc page addr : Nat) (r : ReadOut) (s : State) : (reportRead corr unc page addr r s).crc = s.crc := by unfold reportRead; (repeat' split) <;> simp
@[simp] theorem reportRead_crcRef (corr unc page addr : Nat) (r : ReadOut) (s : State) : (reportRead corr unc page addr r s).crcRef = s.crcRef := by unfold reportRead; (repeat' split) <;> simp
@[simp] theorem reportRead_pcie (corr unc page addr : Nat) (r : ReadOut) (s : State) : (reportRead corr unc page addr r s).pcie = s.pcie := by unfold reportRead; (repeat' split) <;> simp
@[simp] theorem reportRead_mgt (corr unc page addr : Nat) (r : ReadOut) (s : State) : (reportRead corr unc page addr r s).mgt = s.mgt := by unfold reportRead; (repeat' split) <;> simp
@[simp] theorem reportRead_dbg (corr unc page addr : Nat) (r : ReadOut) (s : State) : (reportRead corr unc page addr r s).dbg = s.dbg := by unfold reportRead; (repeat' split) <;> simp
@[simp] theorem reportRead_uart (corr unc page addr : Nat) (r : ReadOut) (s : State) : (reportRead corr unc page addr r s).uart = s.uart := by unfold reportRead; (repeat' split) <;> simp
@[simp] theorem reportRead_latch (corr unc page addr : Nat) (r : ReadOut) (s : State) : (reportRead corr unc page addr r s).latch = s.latch := by unfold reportRead; (repeat' split) <;> simp
@[simp] theorem reportRead_ilkA (corr unc page addr : Nat) (r : ReadOut) (s : State) : (reportRead corr unc page addr r s).ilkA = s.ilkA := by unfold reportRead; (repeat' split) <;> simp
@[simp] theorem reportRead_ilkB (corr unc page addr : Nat) (r : ReadOut) (s : State) : (reportRead corr unc page addr r s).ilkB = s.ilkB := by unfold reportRead; (repeat' split) <;> simp
@[simp] theorem reportRead_ilkl (corr unc page addr : Nat) (r : ReadOut) (s : State) : (reportRead corr unc page addr r s).ilkl = s.ilkl := by unfold reportRead; (repeat' split) <;> simp
@[simp] theorem reportRead_tab (corr unc page addr : Nat) (r : ReadOut) (s : State) : (reportRead corr unc page addr r s).tab = s.tab := by unfold reportRead; (repeat' split) <;> simp
@[simp] theorem reportRead_dhd (corr unc page addr : Nat) (r : ReadOut) (s : State) : (reportRead corr unc page addr r s).dhd = s.dhd := by unfold reportRead; (repeat' split) <;> simp
@[simp] theorem reportRead_ep (corr unc page addr : Nat) (r : ReadOut) (s : State) : (reportRead corr unc page addr r s).ep = s.ep := by unfold reportRead; (repeat' split) <;> simp
@[simp] theorem reportRead_tiles (corr unc page addr : Nat) (r : ReadOut) (s : State) : (reportRead corr unc page addr r s).tiles = s.tiles := by unfold reportRead; (repeat' split) <;> simp
@[simp] theorem reportRead_links (corr unc page addr : Nat) (r : ReadOut) (s : State) : (reportRead corr unc page addr r s).links = s.links := by unfold reportRead; (repeat' split) <;> simp
@[simp] theorem reportRead_tbl (corr unc page addr : Nat) (r : ReadOut) (s : State) : (reportRead corr unc page addr r s).tbl = s.tbl := by unfold reportRead; (repeat' split) <;> simp
@[simp] theorem reportRead_sto (corr unc page addr : Nat) (r : ReadOut) (s : State) : (reportRead corr unc page addr r s).sto = s.sto := by unfold reportRead; (repeat' split) <;> simp
@[simp] theorem reportRead_boot (corr unc page addr : Nat) (r : ReadOut) (s : State) : (reportRead corr unc page addr r s).boot = s.boot := by unfold reportRead; (repeat' split) <;> simp
@[simp] theorem reportRead_jrn (corr unc page addr : Nat) (r : ReadOut) (s : State) : (reportRead corr unc page addr r s).jrn = s.jrn := by unfold reportRead; (repeat' split) <;> simp
@[simp] theorem reportRead_ast (corr unc page addr : Nat) (r : ReadOut) (s : State) : (reportRead corr unc page addr r s).ast = s.ast := by unfold reportRead; (repeat' split) <;> simp
@[simp] theorem reportRead_tch (corr unc page addr : Nat) (r : ReadOut) (s : State) : (reportRead corr unc page addr r s).tch = s.tch := by unfold reportRead; (repeat' split) <;> simp
@[simp] theorem reportRead_hmk (corr unc page addr : Nat) (r : ReadOut) (s : State) : (reportRead corr unc page addr r s).hmk = s.hmk := by unfold reportRead; (repeat' split) <;> simp
@[simp] theorem reportRead_lmn (corr unc page addr : Nat) (r : ReadOut) (s : State) : (reportRead corr unc page addr r s).lmn = s.lmn := by unfold reportRead; (repeat' split) <;> simp
@[simp] theorem reportRead_pwr (corr unc page addr : Nat) (r : ReadOut) (s : State) : (reportRead corr unc page addr r s).pwr = s.pwr := by unfold reportRead; (repeat' split) <;> simp

@[simp] theorem admitSystem_pending (r : Rec) (s : State) : (admitSystem r s).pending = s.pending := by unfold admitSystem; split <;> simp
@[simp] theorem admitSystem_variant (r : Rec) (s : State) : (admitSystem r s).variant = s.variant := by unfold admitSystem; split <;> simp
@[simp] theorem admitSystem_free (r : Rec) (s : State) : (admitSystem r s).free = s.free := by unfold admitSystem; split <;> simp
@[simp] theorem admitSystem_sys (r : Rec) (s : State) : (admitSystem r s).sys = s.sys := by unfold admitSystem; split <;> simp
@[simp] theorem admitSystem_rst (r : Rec) (s : State) : (admitSystem r s).rst = s.rst := by unfold admitSystem; split <;> simp
@[simp] theorem admitSystem_clkg (r : Rec) (s : State) : (admitSystem r s).clkg = s.clkg := by unfold admitSystem; split <;> simp
@[simp] theorem admitSystem_queues (r : Rec) (s : State) : (admitSystem r s).queues = s.queues := by unfold admitSystem; split <;> simp
@[simp] theorem admitSystem_fab (r : Rec) (s : State) : (admitSystem r s).fab = s.fab := by unfold admitSystem; split <;> simp
@[simp] theorem admitSystem_arb (r : Rec) (s : State) : (admitSystem r s).arb = s.arb := by unfold admitSystem; split <;> simp
@[simp] theorem admitSystem_tb (r : Rec) (s : State) : (admitSystem r s).tb = s.tb := by unfold admitSystem; split <;> simp
@[simp] theorem admitSystem_tmr (r : Rec) (s : State) : (admitSystem r s).tmr = s.tmr := by unfold admitSystem; split <;> simp
@[simp] theorem admitSystem_crc (r : Rec) (s : State) : (admitSystem r s).crc = s.crc := by unfold admitSystem; split <;> simp
@[simp] theorem admitSystem_crcRef (r : Rec) (s : State) : (admitSystem r s).crcRef = s.crcRef := by unfold admitSystem; split <;> simp
@[simp] theorem admitSystem_mgt (r : Rec) (s : State) : (admitSystem r s).mgt = s.mgt := by unfold admitSystem; split <;> simp
@[simp] theorem admitSystem_dbg (r : Rec) (s : State) : (admitSystem r s).dbg = s.dbg := by unfold admitSystem; split <;> simp
@[simp] theorem admitSystem_uart (r : Rec) (s : State) : (admitSystem r s).uart = s.uart := by unfold admitSystem; split <;> simp
@[simp] theorem admitSystem_latch (r : Rec) (s : State) : (admitSystem r s).latch = s.latch := by unfold admitSystem; split <;> simp
@[simp] theorem admitSystem_ilkA (r : Rec) (s : State) : (admitSystem r s).ilkA = s.ilkA := by unfold admitSystem; split <;> simp
@[simp] theorem admitSystem_ilkB (r : Rec) (s : State) : (admitSystem r s).ilkB = s.ilkB := by unfold admitSystem; split <;> simp
@[simp] theorem admitSystem_ilkl (r : Rec) (s : State) : (admitSystem r s).ilkl = s.ilkl := by unfold admitSystem; split <;> simp
@[simp] theorem admitSystem_tab (r : Rec) (s : State) : (admitSystem r s).tab = s.tab := by unfold admitSystem; split <;> simp
@[simp] theorem admitSystem_dhd (r : Rec) (s : State) : (admitSystem r s).dhd = s.dhd := by unfold admitSystem; split <;> simp
@[simp] theorem admitSystem_ep (r : Rec) (s : State) : (admitSystem r s).ep = s.ep := by unfold admitSystem; split <;> simp
@[simp] theorem admitSystem_tiles (r : Rec) (s : State) : (admitSystem r s).tiles = s.tiles := by unfold admitSystem; split <;> simp
@[simp] theorem admitSystem_links (r : Rec) (s : State) : (admitSystem r s).links = s.links := by unfold admitSystem; split <;> simp
@[simp] theorem admitSystem_tbl (r : Rec) (s : State) : (admitSystem r s).tbl = s.tbl := by unfold admitSystem; split <;> simp
@[simp] theorem admitSystem_sto (r : Rec) (s : State) : (admitSystem r s).sto = s.sto := by unfold admitSystem; split <;> simp
@[simp] theorem admitSystem_boot (r : Rec) (s : State) : (admitSystem r s).boot = s.boot := by unfold admitSystem; split <;> simp
@[simp] theorem admitSystem_ast (r : Rec) (s : State) : (admitSystem r s).ast = s.ast := by unfold admitSystem; split <;> simp
@[simp] theorem admitSystem_tch (r : Rec) (s : State) : (admitSystem r s).tch = s.tch := by unfold admitSystem; split <;> simp
@[simp] theorem admitSystem_hmk (r : Rec) (s : State) : (admitSystem r s).hmk = s.hmk := by unfold admitSystem; split <;> simp
@[simp] theorem admitSystem_lmn (r : Rec) (s : State) : (admitSystem r s).lmn = s.lmn := by unfold admitSystem; split <;> simp
@[simp] theorem admitSystem_pwr (r : Rec) (s : State) : (admitSystem r s).pwr = s.pwr := by unfold admitSystem; split <;> simp

@[simp] theorem sysRecord_pending (time : Nat) (epoch : Word32) (source cls : Nat) (payload : List Byte) (s : State) : (sysRecord time epoch source cls payload s).pending = s.pending := admitSystem_pending _ _
@[simp] theorem sysRecord_variant (time : Nat) (epoch : Word32) (source cls : Nat) (payload : List Byte) (s : State) : (sysRecord time epoch source cls payload s).variant = s.variant := admitSystem_variant _ _
@[simp] theorem sysRecord_free (time : Nat) (epoch : Word32) (source cls : Nat) (payload : List Byte) (s : State) : (sysRecord time epoch source cls payload s).free = s.free := admitSystem_free _ _
@[simp] theorem sysRecord_sys (time : Nat) (epoch : Word32) (source cls : Nat) (payload : List Byte) (s : State) : (sysRecord time epoch source cls payload s).sys = s.sys := admitSystem_sys _ _
@[simp] theorem sysRecord_rst (time : Nat) (epoch : Word32) (source cls : Nat) (payload : List Byte) (s : State) : (sysRecord time epoch source cls payload s).rst = s.rst := admitSystem_rst _ _
@[simp] theorem sysRecord_clkg (time : Nat) (epoch : Word32) (source cls : Nat) (payload : List Byte) (s : State) : (sysRecord time epoch source cls payload s).clkg = s.clkg := admitSystem_clkg _ _
@[simp] theorem sysRecord_queues (time : Nat) (epoch : Word32) (source cls : Nat) (payload : List Byte) (s : State) : (sysRecord time epoch source cls payload s).queues = s.queues := admitSystem_queues _ _
@[simp] theorem sysRecord_fab (time : Nat) (epoch : Word32) (source cls : Nat) (payload : List Byte) (s : State) : (sysRecord time epoch source cls payload s).fab = s.fab := admitSystem_fab _ _
@[simp] theorem sysRecord_arb (time : Nat) (epoch : Word32) (source cls : Nat) (payload : List Byte) (s : State) : (sysRecord time epoch source cls payload s).arb = s.arb := admitSystem_arb _ _
@[simp] theorem sysRecord_tb (time : Nat) (epoch : Word32) (source cls : Nat) (payload : List Byte) (s : State) : (sysRecord time epoch source cls payload s).tb = s.tb := admitSystem_tb _ _
@[simp] theorem sysRecord_tmr (time : Nat) (epoch : Word32) (source cls : Nat) (payload : List Byte) (s : State) : (sysRecord time epoch source cls payload s).tmr = s.tmr := admitSystem_tmr _ _
@[simp] theorem sysRecord_crc (time : Nat) (epoch : Word32) (source cls : Nat) (payload : List Byte) (s : State) : (sysRecord time epoch source cls payload s).crc = s.crc := admitSystem_crc _ _
@[simp] theorem sysRecord_crcRef (time : Nat) (epoch : Word32) (source cls : Nat) (payload : List Byte) (s : State) : (sysRecord time epoch source cls payload s).crcRef = s.crcRef := admitSystem_crcRef _ _
@[simp] theorem sysRecord_mgt (time : Nat) (epoch : Word32) (source cls : Nat) (payload : List Byte) (s : State) : (sysRecord time epoch source cls payload s).mgt = s.mgt := admitSystem_mgt _ _
@[simp] theorem sysRecord_dbg (time : Nat) (epoch : Word32) (source cls : Nat) (payload : List Byte) (s : State) : (sysRecord time epoch source cls payload s).dbg = s.dbg := admitSystem_dbg _ _
@[simp] theorem sysRecord_uart (time : Nat) (epoch : Word32) (source cls : Nat) (payload : List Byte) (s : State) : (sysRecord time epoch source cls payload s).uart = s.uart := admitSystem_uart _ _
@[simp] theorem sysRecord_latch (time : Nat) (epoch : Word32) (source cls : Nat) (payload : List Byte) (s : State) : (sysRecord time epoch source cls payload s).latch = s.latch := admitSystem_latch _ _
@[simp] theorem sysRecord_ilkA (time : Nat) (epoch : Word32) (source cls : Nat) (payload : List Byte) (s : State) : (sysRecord time epoch source cls payload s).ilkA = s.ilkA := admitSystem_ilkA _ _
@[simp] theorem sysRecord_ilkB (time : Nat) (epoch : Word32) (source cls : Nat) (payload : List Byte) (s : State) : (sysRecord time epoch source cls payload s).ilkB = s.ilkB := admitSystem_ilkB _ _
@[simp] theorem sysRecord_ilkl (time : Nat) (epoch : Word32) (source cls : Nat) (payload : List Byte) (s : State) : (sysRecord time epoch source cls payload s).ilkl = s.ilkl := admitSystem_ilkl _ _
@[simp] theorem sysRecord_tab (time : Nat) (epoch : Word32) (source cls : Nat) (payload : List Byte) (s : State) : (sysRecord time epoch source cls payload s).tab = s.tab := admitSystem_tab _ _
@[simp] theorem sysRecord_dhd (time : Nat) (epoch : Word32) (source cls : Nat) (payload : List Byte) (s : State) : (sysRecord time epoch source cls payload s).dhd = s.dhd := admitSystem_dhd _ _
@[simp] theorem sysRecord_ep (time : Nat) (epoch : Word32) (source cls : Nat) (payload : List Byte) (s : State) : (sysRecord time epoch source cls payload s).ep = s.ep := admitSystem_ep _ _
@[simp] theorem sysRecord_tiles (time : Nat) (epoch : Word32) (source cls : Nat) (payload : List Byte) (s : State) : (sysRecord time epoch source cls payload s).tiles = s.tiles := admitSystem_tiles _ _
@[simp] theorem sysRecord_links (time : Nat) (epoch : Word32) (source cls : Nat) (payload : List Byte) (s : State) : (sysRecord time epoch source cls payload s).links = s.links := admitSystem_links _ _
@[simp] theorem sysRecord_tbl (time : Nat) (epoch : Word32) (source cls : Nat) (payload : List Byte) (s : State) : (sysRecord time epoch source cls payload s).tbl = s.tbl := admitSystem_tbl _ _
@[simp] theorem sysRecord_sto (time : Nat) (epoch : Word32) (source cls : Nat) (payload : List Byte) (s : State) : (sysRecord time epoch source cls payload s).sto = s.sto := admitSystem_sto _ _
@[simp] theorem sysRecord_boot (time : Nat) (epoch : Word32) (source cls : Nat) (payload : List Byte) (s : State) : (sysRecord time epoch source cls payload s).boot = s.boot := admitSystem_boot _ _
@[simp] theorem sysRecord_ast (time : Nat) (epoch : Word32) (source cls : Nat) (payload : List Byte) (s : State) : (sysRecord time epoch source cls payload s).ast = s.ast := admitSystem_ast _ _
@[simp] theorem sysRecord_tch (time : Nat) (epoch : Word32) (source cls : Nat) (payload : List Byte) (s : State) : (sysRecord time epoch source cls payload s).tch = s.tch := admitSystem_tch _ _
@[simp] theorem sysRecord_hmk (time : Nat) (epoch : Word32) (source cls : Nat) (payload : List Byte) (s : State) : (sysRecord time epoch source cls payload s).hmk = s.hmk := admitSystem_hmk _ _
@[simp] theorem sysRecord_lmn (time : Nat) (epoch : Word32) (source cls : Nat) (payload : List Byte) (s : State) : (sysRecord time epoch source cls payload s).lmn = s.lmn := admitSystem_lmn _ _
@[simp] theorem sysRecord_pwr (time : Nat) (epoch : Word32) (source cls : Nat) (payload : List Byte) (s : State) : (sysRecord time epoch source cls payload s).pwr = s.pwr := admitSystem_pwr _ _

/-! ## Traffic -/

@[simp] theorem issue_pending (k : Traffic) (a b n : Nat) (s : State) : (issue k a b n s).pending = s.pending := by unfold issue; split <;> rfl
@[simp] theorem issue_variant (k : Traffic) (a b n : Nat) (s : State) : (issue k a b n s).variant = s.variant := by unfold issue; split <;> rfl
@[simp] theorem issue_free (k : Traffic) (a b n : Nat) (s : State) : (issue k a b n s).free = s.free := by unfold issue; split <;> rfl
@[simp] theorem issue_pages (k : Traffic) (a b n : Nat) (s : State) : (issue k a b n s).pages = s.pages := by unfold issue; split <;> rfl
@[simp] theorem issue_sys (k : Traffic) (a b n : Nat) (s : State) : (issue k a b n s).sys = s.sys := by unfold issue; split <;> rfl
@[simp] theorem issue_rst (k : Traffic) (a b n : Nat) (s : State) : (issue k a b n s).rst = s.rst := by unfold issue; split <;> rfl
@[simp] theorem issue_clkg (k : Traffic) (a b n : Nat) (s : State) : (issue k a b n s).clkg = s.clkg := by unfold issue; split <;> rfl
@[simp] theorem issue_queues (k : Traffic) (a b n : Nat) (s : State) : (issue k a b n s).queues = s.queues := by unfold issue; split <;> rfl
@[simp] theorem issue_fab (k : Traffic) (a b n : Nat) (s : State) : (issue k a b n s).fab = s.fab := by unfold issue; split <;> rfl
@[simp] theorem issue_tb (k : Traffic) (a b n : Nat) (s : State) : (issue k a b n s).tb = s.tb := by unfold issue; split <;> rfl
@[simp] theorem issue_tmr (k : Traffic) (a b n : Nat) (s : State) : (issue k a b n s).tmr = s.tmr := by unfold issue; split <;> rfl
@[simp] theorem issue_fcr (k : Traffic) (a b n : Nat) (s : State) : (issue k a b n s).fcr = s.fcr := by unfold issue; split <;> rfl
@[simp] theorem issue_crc (k : Traffic) (a b n : Nat) (s : State) : (issue k a b n s).crc = s.crc := by unfold issue; split <;> rfl
@[simp] theorem issue_crcRef (k : Traffic) (a b n : Nat) (s : State) : (issue k a b n s).crcRef = s.crcRef := by unfold issue; split <;> rfl
@[simp] theorem issue_pcie (k : Traffic) (a b n : Nat) (s : State) : (issue k a b n s).pcie = s.pcie := by unfold issue; split <;> rfl
@[simp] theorem issue_mgt (k : Traffic) (a b n : Nat) (s : State) : (issue k a b n s).mgt = s.mgt := by unfold issue; split <;> rfl
@[simp] theorem issue_dbg (k : Traffic) (a b n : Nat) (s : State) : (issue k a b n s).dbg = s.dbg := by unfold issue; split <;> rfl
@[simp] theorem issue_uart (k : Traffic) (a b n : Nat) (s : State) : (issue k a b n s).uart = s.uart := by unfold issue; split <;> rfl
@[simp] theorem issue_latch (k : Traffic) (a b n : Nat) (s : State) : (issue k a b n s).latch = s.latch := by unfold issue; split <;> rfl
@[simp] theorem issue_ilkA (k : Traffic) (a b n : Nat) (s : State) : (issue k a b n s).ilkA = s.ilkA := by unfold issue; split <;> rfl
@[simp] theorem issue_ilkB (k : Traffic) (a b n : Nat) (s : State) : (issue k a b n s).ilkB = s.ilkB := by unfold issue; split <;> rfl
@[simp] theorem issue_ilkl (k : Traffic) (a b n : Nat) (s : State) : (issue k a b n s).ilkl = s.ilkl := by unfold issue; split <;> rfl
@[simp] theorem issue_tab (k : Traffic) (a b n : Nat) (s : State) : (issue k a b n s).tab = s.tab := by unfold issue; split <;> rfl
@[simp] theorem issue_dhd (k : Traffic) (a b n : Nat) (s : State) : (issue k a b n s).dhd = s.dhd := by unfold issue; split <;> rfl
@[simp] theorem issue_ep (k : Traffic) (a b n : Nat) (s : State) : (issue k a b n s).ep = s.ep := by unfold issue; split <;> rfl
@[simp] theorem issue_tiles (k : Traffic) (a b n : Nat) (s : State) : (issue k a b n s).tiles = s.tiles := by unfold issue; split <;> rfl
@[simp] theorem issue_links (k : Traffic) (a b n : Nat) (s : State) : (issue k a b n s).links = s.links := by unfold issue; split <;> rfl
@[simp] theorem issue_tbl (k : Traffic) (a b n : Nat) (s : State) : (issue k a b n s).tbl = s.tbl := by unfold issue; split <;> rfl
@[simp] theorem issue_sto (k : Traffic) (a b n : Nat) (s : State) : (issue k a b n s).sto = s.sto := by unfold issue; split <;> rfl
@[simp] theorem issue_boot (k : Traffic) (a b n : Nat) (s : State) : (issue k a b n s).boot = s.boot := by unfold issue; split <;> rfl
@[simp] theorem issue_jrn (k : Traffic) (a b n : Nat) (s : State) : (issue k a b n s).jrn = s.jrn := by unfold issue; split <;> rfl
@[simp] theorem issue_ast (k : Traffic) (a b n : Nat) (s : State) : (issue k a b n s).ast = s.ast := by unfold issue; split <;> rfl
@[simp] theorem issue_tch (k : Traffic) (a b n : Nat) (s : State) : (issue k a b n s).tch = s.tch := by unfold issue; split <;> rfl
@[simp] theorem issue_hmk (k : Traffic) (a b n : Nat) (s : State) : (issue k a b n s).hmk = s.hmk := by unfold issue; split <;> rfl
@[simp] theorem issue_lmn (k : Traffic) (a b n : Nat) (s : State) : (issue k a b n s).lmn = s.lmn := by unfold issue; split <;> rfl
@[simp] theorem issue_pwr (k : Traffic) (a b n : Nat) (s : State) : (issue k a b n s).pwr = s.pwr := by unfold issue; split <;> rfl

@[simp] theorem interlockRecord_pending (time : Nat) (epoch : Word32) (cls : Nat) (payload : List Byte) (s : State) : (interlockRecord time epoch cls payload s).pending = s.pending := by unfold interlockRecord; simp
@[simp] theorem interlockRecord_variant (time : Nat) (epoch : Word32) (cls : Nat) (payload : List Byte) (s : State) : (interlockRecord time epoch cls payload s).variant = s.variant := by unfold interlockRecord; simp
@[simp] theorem interlockRecord_free (time : Nat) (epoch : Word32) (cls : Nat) (payload : List Byte) (s : State) : (interlockRecord time epoch cls payload s).free = s.free := by unfold interlockRecord; simp
@[simp] theorem interlockRecord_sys (time : Nat) (epoch : Word32) (cls : Nat) (payload : List Byte) (s : State) : (interlockRecord time epoch cls payload s).sys = s.sys := by unfold interlockRecord; simp
@[simp] theorem interlockRecord_rst (time : Nat) (epoch : Word32) (cls : Nat) (payload : List Byte) (s : State) : (interlockRecord time epoch cls payload s).rst = s.rst := by unfold interlockRecord; simp
@[simp] theorem interlockRecord_clkg (time : Nat) (epoch : Word32) (cls : Nat) (payload : List Byte) (s : State) : (interlockRecord time epoch cls payload s).clkg = s.clkg := by unfold interlockRecord; simp
@[simp] theorem interlockRecord_queues (time : Nat) (epoch : Word32) (cls : Nat) (payload : List Byte) (s : State) : (interlockRecord time epoch cls payload s).queues = s.queues := by unfold interlockRecord; simp
@[simp] theorem interlockRecord_fab (time : Nat) (epoch : Word32) (cls : Nat) (payload : List Byte) (s : State) : (interlockRecord time epoch cls payload s).fab = s.fab := by unfold interlockRecord; simp
@[simp] theorem interlockRecord_tb (time : Nat) (epoch : Word32) (cls : Nat) (payload : List Byte) (s : State) : (interlockRecord time epoch cls payload s).tb = s.tb := by unfold interlockRecord; simp
@[simp] theorem interlockRecord_tmr (time : Nat) (epoch : Word32) (cls : Nat) (payload : List Byte) (s : State) : (interlockRecord time epoch cls payload s).tmr = s.tmr := by unfold interlockRecord; simp
@[simp] theorem interlockRecord_crc (time : Nat) (epoch : Word32) (cls : Nat) (payload : List Byte) (s : State) : (interlockRecord time epoch cls payload s).crc = s.crc := by unfold interlockRecord; simp
@[simp] theorem interlockRecord_crcRef (time : Nat) (epoch : Word32) (cls : Nat) (payload : List Byte) (s : State) : (interlockRecord time epoch cls payload s).crcRef = s.crcRef := by unfold interlockRecord; simp
@[simp] theorem interlockRecord_mgt (time : Nat) (epoch : Word32) (cls : Nat) (payload : List Byte) (s : State) : (interlockRecord time epoch cls payload s).mgt = s.mgt := by unfold interlockRecord; simp
@[simp] theorem interlockRecord_dbg (time : Nat) (epoch : Word32) (cls : Nat) (payload : List Byte) (s : State) : (interlockRecord time epoch cls payload s).dbg = s.dbg := by unfold interlockRecord; simp
@[simp] theorem interlockRecord_uart (time : Nat) (epoch : Word32) (cls : Nat) (payload : List Byte) (s : State) : (interlockRecord time epoch cls payload s).uart = s.uart := by unfold interlockRecord; simp
@[simp] theorem interlockRecord_latch (time : Nat) (epoch : Word32) (cls : Nat) (payload : List Byte) (s : State) : (interlockRecord time epoch cls payload s).latch = s.latch := by unfold interlockRecord; simp
@[simp] theorem interlockRecord_ilkA (time : Nat) (epoch : Word32) (cls : Nat) (payload : List Byte) (s : State) : (interlockRecord time epoch cls payload s).ilkA = s.ilkA := by unfold interlockRecord; simp
@[simp] theorem interlockRecord_ilkB (time : Nat) (epoch : Word32) (cls : Nat) (payload : List Byte) (s : State) : (interlockRecord time epoch cls payload s).ilkB = s.ilkB := by unfold interlockRecord; simp
@[simp] theorem interlockRecord_ilkl (time : Nat) (epoch : Word32) (cls : Nat) (payload : List Byte) (s : State) : (interlockRecord time epoch cls payload s).ilkl = s.ilkl := by unfold interlockRecord; simp
@[simp] theorem interlockRecord_tab (time : Nat) (epoch : Word32) (cls : Nat) (payload : List Byte) (s : State) : (interlockRecord time epoch cls payload s).tab = s.tab := by unfold interlockRecord; simp
@[simp] theorem interlockRecord_dhd (time : Nat) (epoch : Word32) (cls : Nat) (payload : List Byte) (s : State) : (interlockRecord time epoch cls payload s).dhd = s.dhd := by unfold interlockRecord; simp
@[simp] theorem interlockRecord_ep (time : Nat) (epoch : Word32) (cls : Nat) (payload : List Byte) (s : State) : (interlockRecord time epoch cls payload s).ep = s.ep := by unfold interlockRecord; simp
@[simp] theorem interlockRecord_tiles (time : Nat) (epoch : Word32) (cls : Nat) (payload : List Byte) (s : State) : (interlockRecord time epoch cls payload s).tiles = s.tiles := by unfold interlockRecord; simp
@[simp] theorem interlockRecord_links (time : Nat) (epoch : Word32) (cls : Nat) (payload : List Byte) (s : State) : (interlockRecord time epoch cls payload s).links = s.links := by unfold interlockRecord; simp
@[simp] theorem interlockRecord_tbl (time : Nat) (epoch : Word32) (cls : Nat) (payload : List Byte) (s : State) : (interlockRecord time epoch cls payload s).tbl = s.tbl := by unfold interlockRecord; simp
@[simp] theorem interlockRecord_sto (time : Nat) (epoch : Word32) (cls : Nat) (payload : List Byte) (s : State) : (interlockRecord time epoch cls payload s).sto = s.sto := by unfold interlockRecord; simp
@[simp] theorem interlockRecord_boot (time : Nat) (epoch : Word32) (cls : Nat) (payload : List Byte) (s : State) : (interlockRecord time epoch cls payload s).boot = s.boot := by unfold interlockRecord; simp
@[simp] theorem interlockRecord_ast (time : Nat) (epoch : Word32) (cls : Nat) (payload : List Byte) (s : State) : (interlockRecord time epoch cls payload s).ast = s.ast := by unfold interlockRecord; simp
@[simp] theorem interlockRecord_tch (time : Nat) (epoch : Word32) (cls : Nat) (payload : List Byte) (s : State) : (interlockRecord time epoch cls payload s).tch = s.tch := by unfold interlockRecord; simp
@[simp] theorem interlockRecord_hmk (time : Nat) (epoch : Word32) (cls : Nat) (payload : List Byte) (s : State) : (interlockRecord time epoch cls payload s).hmk = s.hmk := by unfold interlockRecord; simp
@[simp] theorem interlockRecord_lmn (time : Nat) (epoch : Word32) (cls : Nat) (payload : List Byte) (s : State) : (interlockRecord time epoch cls payload s).lmn = s.lmn := by unfold interlockRecord; simp
@[simp] theorem interlockRecord_pwr (time : Nat) (epoch : Word32) (cls : Nat) (payload : List Byte) (s : State) : (interlockRecord time epoch cls payload s).pwr = s.pwr := by unfold interlockRecord; simp

@[simp] theorem chanTrip_pending (c : Chan) (cause : Cause) (epoch : Word32) (s : State) : (chanTrip c cause epoch s).pending = s.pending := by cases c <;> simp [chanTrip]
@[simp] theorem chanTrip_variant (c : Chan) (cause : Cause) (epoch : Word32) (s : State) : (chanTrip c cause epoch s).variant = s.variant := by cases c <;> simp [chanTrip]
@[simp] theorem chanTrip_free (c : Chan) (cause : Cause) (epoch : Word32) (s : State) : (chanTrip c cause epoch s).free = s.free := by cases c <;> simp [chanTrip]
@[simp] theorem chanTrip_sys (c : Chan) (cause : Cause) (epoch : Word32) (s : State) : (chanTrip c cause epoch s).sys = s.sys := by cases c <;> simp [chanTrip]
@[simp] theorem chanTrip_rst (c : Chan) (cause : Cause) (epoch : Word32) (s : State) : (chanTrip c cause epoch s).rst = s.rst := by cases c <;> simp [chanTrip]
@[simp] theorem chanTrip_clkg (c : Chan) (cause : Cause) (epoch : Word32) (s : State) : (chanTrip c cause epoch s).clkg = s.clkg := by cases c <;> simp [chanTrip]
@[simp] theorem chanTrip_queues (c : Chan) (cause : Cause) (epoch : Word32) (s : State) : (chanTrip c cause epoch s).queues = s.queues := by cases c <;> simp [chanTrip]
@[simp] theorem chanTrip_fab (c : Chan) (cause : Cause) (epoch : Word32) (s : State) : (chanTrip c cause epoch s).fab = s.fab := by cases c <;> simp [chanTrip]
@[simp] theorem chanTrip_arb (c : Chan) (cause : Cause) (epoch : Word32) (s : State) : (chanTrip c cause epoch s).arb = s.arb := by cases c <;> simp [chanTrip]
@[simp] theorem chanTrip_tb (c : Chan) (cause : Cause) (epoch : Word32) (s : State) : (chanTrip c cause epoch s).tb = s.tb := by cases c <;> simp [chanTrip]
@[simp] theorem chanTrip_tmr (c : Chan) (cause : Cause) (epoch : Word32) (s : State) : (chanTrip c cause epoch s).tmr = s.tmr := by cases c <;> simp [chanTrip]
@[simp] theorem chanTrip_fcr (c : Chan) (cause : Cause) (epoch : Word32) (s : State) : (chanTrip c cause epoch s).fcr = s.fcr := by cases c <;> simp [chanTrip]
@[simp] theorem chanTrip_crc (c : Chan) (cause : Cause) (epoch : Word32) (s : State) : (chanTrip c cause epoch s).crc = s.crc := by cases c <;> simp [chanTrip]
@[simp] theorem chanTrip_crcRef (c : Chan) (cause : Cause) (epoch : Word32) (s : State) : (chanTrip c cause epoch s).crcRef = s.crcRef := by cases c <;> simp [chanTrip]
@[simp] theorem chanTrip_mgt (c : Chan) (cause : Cause) (epoch : Word32) (s : State) : (chanTrip c cause epoch s).mgt = s.mgt := by cases c <;> simp [chanTrip]
@[simp] theorem chanTrip_dbg (c : Chan) (cause : Cause) (epoch : Word32) (s : State) : (chanTrip c cause epoch s).dbg = s.dbg := by cases c <;> simp [chanTrip]
@[simp] theorem chanTrip_uart (c : Chan) (cause : Cause) (epoch : Word32) (s : State) : (chanTrip c cause epoch s).uart = s.uart := by cases c <;> simp [chanTrip]
@[simp] theorem chanTrip_latch (c : Chan) (cause : Cause) (epoch : Word32) (s : State) : (chanTrip c cause epoch s).latch = s.latch := by cases c <;> simp [chanTrip]
@[simp] theorem chanTrip_ilkl (c : Chan) (cause : Cause) (epoch : Word32) (s : State) : (chanTrip c cause epoch s).ilkl = s.ilkl := by cases c <;> simp [chanTrip]
@[simp] theorem chanTrip_tab (c : Chan) (cause : Cause) (epoch : Word32) (s : State) : (chanTrip c cause epoch s).tab = s.tab := by cases c <;> simp [chanTrip]
@[simp] theorem chanTrip_dhd (c : Chan) (cause : Cause) (epoch : Word32) (s : State) : (chanTrip c cause epoch s).dhd = s.dhd := by cases c <;> simp [chanTrip]
@[simp] theorem chanTrip_ep (c : Chan) (cause : Cause) (epoch : Word32) (s : State) : (chanTrip c cause epoch s).ep = s.ep := by cases c <;> simp [chanTrip]
@[simp] theorem chanTrip_tiles (c : Chan) (cause : Cause) (epoch : Word32) (s : State) : (chanTrip c cause epoch s).tiles = s.tiles := by cases c <;> simp [chanTrip]
@[simp] theorem chanTrip_links (c : Chan) (cause : Cause) (epoch : Word32) (s : State) : (chanTrip c cause epoch s).links = s.links := by cases c <;> simp [chanTrip]
@[simp] theorem chanTrip_tbl (c : Chan) (cause : Cause) (epoch : Word32) (s : State) : (chanTrip c cause epoch s).tbl = s.tbl := by cases c <;> simp [chanTrip]
@[simp] theorem chanTrip_sto (c : Chan) (cause : Cause) (epoch : Word32) (s : State) : (chanTrip c cause epoch s).sto = s.sto := by cases c <;> simp [chanTrip]
@[simp] theorem chanTrip_boot (c : Chan) (cause : Cause) (epoch : Word32) (s : State) : (chanTrip c cause epoch s).boot = s.boot := by cases c <;> simp [chanTrip]
@[simp] theorem chanTrip_jrn (c : Chan) (cause : Cause) (epoch : Word32) (s : State) : (chanTrip c cause epoch s).jrn = s.jrn := by cases c <;> simp [chanTrip]
@[simp] theorem chanTrip_ast (c : Chan) (cause : Cause) (epoch : Word32) (s : State) : (chanTrip c cause epoch s).ast = s.ast := by cases c <;> simp [chanTrip]
@[simp] theorem chanTrip_tch (c : Chan) (cause : Cause) (epoch : Word32) (s : State) : (chanTrip c cause epoch s).tch = s.tch := by cases c <;> simp [chanTrip]
@[simp] theorem chanTrip_hmk (c : Chan) (cause : Cause) (epoch : Word32) (s : State) : (chanTrip c cause epoch s).hmk = s.hmk := by cases c <;> simp [chanTrip]
@[simp] theorem chanTrip_lmn (c : Chan) (cause : Cause) (epoch : Word32) (s : State) : (chanTrip c cause epoch s).lmn = s.lmn := by cases c <;> simp [chanTrip]
@[simp] theorem chanTrip_pwr (c : Chan) (cause : Cause) (epoch : Word32) (s : State) : (chanTrip c cause epoch s).pwr = s.pwr := by cases c <;> simp [chanTrip]

@[simp] theorem trip_pending (code chan detail pg : Nat) (s : State) : (trip code chan detail pg s).pending = s.pending := by simp only [trip, imagesOff, apply_ite State.pending, evtIf_pending, chanTrip_pending, report_pending, interlockRecord_pending, ite_self]
@[simp] theorem trip_variant (code chan detail pg : Nat) (s : State) : (trip code chan detail pg s).variant = s.variant := by simp only [trip, imagesOff, apply_ite State.variant, evtIf_variant, chanTrip_variant, report_variant, interlockRecord_variant, ite_self]
@[simp] theorem trip_free (code chan detail pg : Nat) (s : State) : (trip code chan detail pg s).free = s.free := by simp only [trip, imagesOff, apply_ite State.free, evtIf_free, chanTrip_free, report_free, interlockRecord_free, ite_self]
@[simp] theorem trip_sys (code chan detail pg : Nat) (s : State) : (trip code chan detail pg s).sys = s.sys := by simp only [trip, imagesOff, apply_ite State.sys, evtIf_sys, chanTrip_sys, report_sys, interlockRecord_sys, ite_self]
@[simp] theorem trip_rst (code chan detail pg : Nat) (s : State) : (trip code chan detail pg s).rst = s.rst := by simp only [trip, imagesOff, apply_ite State.rst, evtIf_rst, chanTrip_rst, report_rst, interlockRecord_rst, ite_self]
@[simp] theorem trip_clkg (code chan detail pg : Nat) (s : State) : (trip code chan detail pg s).clkg = s.clkg := by simp only [trip, imagesOff, apply_ite State.clkg, evtIf_clkg, chanTrip_clkg, report_clkg, interlockRecord_clkg, ite_self]
@[simp] theorem trip_queues (code chan detail pg : Nat) (s : State) : (trip code chan detail pg s).queues = s.queues := by simp only [trip, imagesOff, apply_ite State.queues, evtIf_queues, chanTrip_queues, report_queues, interlockRecord_queues, ite_self]
@[simp] theorem trip_fab (code chan detail pg : Nat) (s : State) : (trip code chan detail pg s).fab = s.fab := by simp only [trip, imagesOff, apply_ite State.fab, evtIf_fab, chanTrip_fab, report_fab, interlockRecord_fab, ite_self]
@[simp] theorem trip_tb (code chan detail pg : Nat) (s : State) : (trip code chan detail pg s).tb = s.tb := by simp only [trip, imagesOff, apply_ite State.tb, evtIf_tb, chanTrip_tb, report_tb, interlockRecord_tb, ite_self]
@[simp] theorem trip_tmr (code chan detail pg : Nat) (s : State) : (trip code chan detail pg s).tmr = s.tmr := by simp only [trip, imagesOff, apply_ite State.tmr, evtIf_tmr, chanTrip_tmr, report_tmr, interlockRecord_tmr, ite_self]
@[simp] theorem trip_crc (code chan detail pg : Nat) (s : State) : (trip code chan detail pg s).crc = s.crc := by simp only [trip, imagesOff, apply_ite State.crc, evtIf_crc, chanTrip_crc, report_crc, interlockRecord_crc, ite_self]
@[simp] theorem trip_crcRef (code chan detail pg : Nat) (s : State) : (trip code chan detail pg s).crcRef = s.crcRef := by simp only [trip, imagesOff, apply_ite State.crcRef, evtIf_crcRef, chanTrip_crcRef, report_crcRef, interlockRecord_crcRef, ite_self]
@[simp] theorem trip_mgt (code chan detail pg : Nat) (s : State) : (trip code chan detail pg s).mgt = s.mgt := by simp only [trip, imagesOff, apply_ite State.mgt, evtIf_mgt, chanTrip_mgt, report_mgt, interlockRecord_mgt, ite_self]
@[simp] theorem trip_dbg (code chan detail pg : Nat) (s : State) : (trip code chan detail pg s).dbg = s.dbg := by simp only [trip, imagesOff, apply_ite State.dbg, evtIf_dbg, chanTrip_dbg, report_dbg, interlockRecord_dbg, ite_self]
@[simp] theorem trip_uart (code chan detail pg : Nat) (s : State) : (trip code chan detail pg s).uart = s.uart := by simp only [trip, imagesOff, apply_ite State.uart, evtIf_uart, chanTrip_uart, report_uart, interlockRecord_uart, ite_self]
@[simp] theorem trip_latch (code chan detail pg : Nat) (s : State) : (trip code chan detail pg s).latch = s.latch := by simp only [trip, imagesOff, apply_ite State.latch, evtIf_latch, chanTrip_latch, report_latch, interlockRecord_latch, ite_self]
@[simp] theorem trip_tab (code chan detail pg : Nat) (s : State) : (trip code chan detail pg s).tab = s.tab := by simp only [trip, imagesOff, apply_ite State.tab, evtIf_tab, chanTrip_tab, report_tab, interlockRecord_tab, ite_self]
@[simp] theorem trip_dhd (code chan detail pg : Nat) (s : State) : (trip code chan detail pg s).dhd = s.dhd := by simp only [trip, imagesOff, apply_ite State.dhd, evtIf_dhd, chanTrip_dhd, report_dhd, interlockRecord_dhd, ite_self]
@[simp] theorem trip_ep (code chan detail pg : Nat) (s : State) : (trip code chan detail pg s).ep = s.ep := by simp only [trip, imagesOff, apply_ite State.ep, evtIf_ep, chanTrip_ep, report_ep, interlockRecord_ep, ite_self]
@[simp] theorem trip_tiles (code chan detail pg : Nat) (s : State) : (trip code chan detail pg s).tiles = s.tiles := by simp only [trip, imagesOff, apply_ite State.tiles, evtIf_tiles, chanTrip_tiles, report_tiles, interlockRecord_tiles, ite_self]
@[simp] theorem trip_links (code chan detail pg : Nat) (s : State) : (trip code chan detail pg s).links = s.links := by simp only [trip, imagesOff, apply_ite State.links, evtIf_links, chanTrip_links, report_links, interlockRecord_links, ite_self]
@[simp] theorem trip_tbl (code chan detail pg : Nat) (s : State) : (trip code chan detail pg s).tbl = s.tbl := by simp only [trip, imagesOff, apply_ite State.tbl, evtIf_tbl, chanTrip_tbl, report_tbl, interlockRecord_tbl, ite_self]
@[simp] theorem trip_sto (code chan detail pg : Nat) (s : State) : (trip code chan detail pg s).sto = s.sto := by simp only [trip, imagesOff, apply_ite State.sto, evtIf_sto, chanTrip_sto, report_sto, interlockRecord_sto, ite_self]
@[simp] theorem trip_boot (code chan detail pg : Nat) (s : State) : (trip code chan detail pg s).boot = s.boot := by simp only [trip, imagesOff, apply_ite State.boot, evtIf_boot, chanTrip_boot, report_boot, interlockRecord_boot, ite_self]
@[simp] theorem trip_ast (code chan detail pg : Nat) (s : State) : (trip code chan detail pg s).ast = s.ast := by simp only [trip, imagesOff, apply_ite State.ast, evtIf_ast, chanTrip_ast, report_ast, interlockRecord_ast, ite_self]
@[simp] theorem trip_tch (code chan detail pg : Nat) (s : State) : (trip code chan detail pg s).tch = s.tch := by simp only [trip, imagesOff, apply_ite State.tch, evtIf_tch, chanTrip_tch, report_tch, interlockRecord_tch, ite_self]
@[simp] theorem trip_hmk (code chan detail pg : Nat) (s : State) : (trip code chan detail pg s).hmk = s.hmk := by simp only [trip, imagesOff, apply_ite State.hmk, evtIf_hmk, chanTrip_hmk, report_hmk, interlockRecord_hmk, ite_self]
@[simp] theorem trip_lmn (code chan detail pg : Nat) (s : State) : (trip code chan detail pg s).lmn = s.lmn := by simp only [trip, imagesOff, apply_ite State.lmn, evtIf_lmn, chanTrip_lmn, report_lmn, interlockRecord_lmn, ite_self]
@[simp] theorem trip_pwr (code chan detail pg : Nat) (s : State) : (trip code chan detail pg s).pwr = s.pwr := by simp only [trip, imagesOff, apply_ite State.pwr, evtIf_pwr, chanTrip_pwr, report_pwr, interlockRecord_pwr, ite_self]

@[simp] theorem trip0_pending (code chan pg : Nat) (s : State) : (trip0 code chan pg s).pending = s.pending := trip_pending _ _ _ _ _
@[simp] theorem trip0_variant (code chan pg : Nat) (s : State) : (trip0 code chan pg s).variant = s.variant := trip_variant _ _ _ _ _
@[simp] theorem trip0_free (code chan pg : Nat) (s : State) : (trip0 code chan pg s).free = s.free := trip_free _ _ _ _ _
@[simp] theorem trip0_sys (code chan pg : Nat) (s : State) : (trip0 code chan pg s).sys = s.sys := trip_sys _ _ _ _ _
@[simp] theorem trip0_rst (code chan pg : Nat) (s : State) : (trip0 code chan pg s).rst = s.rst := trip_rst _ _ _ _ _
@[simp] theorem trip0_clkg (code chan pg : Nat) (s : State) : (trip0 code chan pg s).clkg = s.clkg := trip_clkg _ _ _ _ _
@[simp] theorem trip0_queues (code chan pg : Nat) (s : State) : (trip0 code chan pg s).queues = s.queues := trip_queues _ _ _ _ _
@[simp] theorem trip0_fab (code chan pg : Nat) (s : State) : (trip0 code chan pg s).fab = s.fab := trip_fab _ _ _ _ _
@[simp] theorem trip0_tb (code chan pg : Nat) (s : State) : (trip0 code chan pg s).tb = s.tb := trip_tb _ _ _ _ _
@[simp] theorem trip0_tmr (code chan pg : Nat) (s : State) : (trip0 code chan pg s).tmr = s.tmr := trip_tmr _ _ _ _ _
@[simp] theorem trip0_crc (code chan pg : Nat) (s : State) : (trip0 code chan pg s).crc = s.crc := trip_crc _ _ _ _ _
@[simp] theorem trip0_crcRef (code chan pg : Nat) (s : State) : (trip0 code chan pg s).crcRef = s.crcRef := trip_crcRef _ _ _ _ _
@[simp] theorem trip0_mgt (code chan pg : Nat) (s : State) : (trip0 code chan pg s).mgt = s.mgt := trip_mgt _ _ _ _ _
@[simp] theorem trip0_dbg (code chan pg : Nat) (s : State) : (trip0 code chan pg s).dbg = s.dbg := trip_dbg _ _ _ _ _
@[simp] theorem trip0_uart (code chan pg : Nat) (s : State) : (trip0 code chan pg s).uart = s.uart := trip_uart _ _ _ _ _
@[simp] theorem trip0_latch (code chan pg : Nat) (s : State) : (trip0 code chan pg s).latch = s.latch := trip_latch _ _ _ _ _
@[simp] theorem trip0_tab (code chan pg : Nat) (s : State) : (trip0 code chan pg s).tab = s.tab := trip_tab _ _ _ _ _
@[simp] theorem trip0_dhd (code chan pg : Nat) (s : State) : (trip0 code chan pg s).dhd = s.dhd := trip_dhd _ _ _ _ _
@[simp] theorem trip0_ep (code chan pg : Nat) (s : State) : (trip0 code chan pg s).ep = s.ep := trip_ep _ _ _ _ _
@[simp] theorem trip0_tiles (code chan pg : Nat) (s : State) : (trip0 code chan pg s).tiles = s.tiles := trip_tiles _ _ _ _ _
@[simp] theorem trip0_links (code chan pg : Nat) (s : State) : (trip0 code chan pg s).links = s.links := trip_links _ _ _ _ _
@[simp] theorem trip0_tbl (code chan pg : Nat) (s : State) : (trip0 code chan pg s).tbl = s.tbl := trip_tbl _ _ _ _ _
@[simp] theorem trip0_sto (code chan pg : Nat) (s : State) : (trip0 code chan pg s).sto = s.sto := trip_sto _ _ _ _ _
@[simp] theorem trip0_boot (code chan pg : Nat) (s : State) : (trip0 code chan pg s).boot = s.boot := trip_boot _ _ _ _ _
@[simp] theorem trip0_ast (code chan pg : Nat) (s : State) : (trip0 code chan pg s).ast = s.ast := trip_ast _ _ _ _ _
@[simp] theorem trip0_tch (code chan pg : Nat) (s : State) : (trip0 code chan pg s).tch = s.tch := trip_tch _ _ _ _ _
@[simp] theorem trip0_hmk (code chan pg : Nat) (s : State) : (trip0 code chan pg s).hmk = s.hmk := trip_hmk _ _ _ _ _
@[simp] theorem trip0_lmn (code chan pg : Nat) (s : State) : (trip0 code chan pg s).lmn = s.lmn := trip_lmn _ _ _ _ _
@[simp] theorem trip0_pwr (code chan pg : Nat) (s : State) : (trip0 code chan pg s).pwr = s.pwr := trip_pwr _ _ _ _ _

@[simp] theorem setStage_pending (id : CmdId) (g : CmdStage) (s : State) : (setStage id g s).pending = s.pending := rfl
@[simp] theorem setStage_variant (id : CmdId) (g : CmdStage) (s : State) : (setStage id g s).variant = s.variant := rfl
@[simp] theorem setStage_free (id : CmdId) (g : CmdStage) (s : State) : (setStage id g s).free = s.free := rfl
@[simp] theorem setStage_pages (id : CmdId) (g : CmdStage) (s : State) : (setStage id g s).pages = s.pages := rfl
@[simp] theorem setStage_sys (id : CmdId) (g : CmdStage) (s : State) : (setStage id g s).sys = s.sys := rfl
@[simp] theorem setStage_rst (id : CmdId) (g : CmdStage) (s : State) : (setStage id g s).rst = s.rst := rfl
@[simp] theorem setStage_clkg (id : CmdId) (g : CmdStage) (s : State) : (setStage id g s).clkg = s.clkg := rfl
@[simp] theorem setStage_queues (id : CmdId) (g : CmdStage) (s : State) : (setStage id g s).queues = s.queues := rfl
@[simp] theorem setStage_fab (id : CmdId) (g : CmdStage) (s : State) : (setStage id g s).fab = s.fab := rfl
@[simp] theorem setStage_arb (id : CmdId) (g : CmdStage) (s : State) : (setStage id g s).arb = s.arb := rfl
@[simp] theorem setStage_tb (id : CmdId) (g : CmdStage) (s : State) : (setStage id g s).tb = s.tb := rfl
@[simp] theorem setStage_tmr (id : CmdId) (g : CmdStage) (s : State) : (setStage id g s).tmr = s.tmr := rfl
@[simp] theorem setStage_fcr (id : CmdId) (g : CmdStage) (s : State) : (setStage id g s).fcr = s.fcr := rfl
@[simp] theorem setStage_crc (id : CmdId) (g : CmdStage) (s : State) : (setStage id g s).crc = s.crc := rfl
@[simp] theorem setStage_crcRef (id : CmdId) (g : CmdStage) (s : State) : (setStage id g s).crcRef = s.crcRef := rfl
@[simp] theorem setStage_mgt (id : CmdId) (g : CmdStage) (s : State) : (setStage id g s).mgt = s.mgt := rfl
@[simp] theorem setStage_dbg (id : CmdId) (g : CmdStage) (s : State) : (setStage id g s).dbg = s.dbg := rfl
@[simp] theorem setStage_uart (id : CmdId) (g : CmdStage) (s : State) : (setStage id g s).uart = s.uart := rfl
@[simp] theorem setStage_latch (id : CmdId) (g : CmdStage) (s : State) : (setStage id g s).latch = s.latch := rfl
@[simp] theorem setStage_ilkA (id : CmdId) (g : CmdStage) (s : State) : (setStage id g s).ilkA = s.ilkA := rfl
@[simp] theorem setStage_ilkB (id : CmdId) (g : CmdStage) (s : State) : (setStage id g s).ilkB = s.ilkB := rfl
@[simp] theorem setStage_ilkl (id : CmdId) (g : CmdStage) (s : State) : (setStage id g s).ilkl = s.ilkl := rfl
@[simp] theorem setStage_tab (id : CmdId) (g : CmdStage) (s : State) : (setStage id g s).tab = s.tab := rfl
@[simp] theorem setStage_dhd (id : CmdId) (g : CmdStage) (s : State) : (setStage id g s).dhd = s.dhd := rfl
@[simp] theorem setStage_ep (id : CmdId) (g : CmdStage) (s : State) : (setStage id g s).ep = s.ep := rfl
@[simp] theorem setStage_tiles (id : CmdId) (g : CmdStage) (s : State) : (setStage id g s).tiles = s.tiles := rfl
@[simp] theorem setStage_links (id : CmdId) (g : CmdStage) (s : State) : (setStage id g s).links = s.links := rfl
@[simp] theorem setStage_tbl (id : CmdId) (g : CmdStage) (s : State) : (setStage id g s).tbl = s.tbl := rfl
@[simp] theorem setStage_sto (id : CmdId) (g : CmdStage) (s : State) : (setStage id g s).sto = s.sto := rfl
@[simp] theorem setStage_boot (id : CmdId) (g : CmdStage) (s : State) : (setStage id g s).boot = s.boot := rfl
@[simp] theorem setStage_jrn (id : CmdId) (g : CmdStage) (s : State) : (setStage id g s).jrn = s.jrn := rfl
@[simp] theorem setStage_ast (id : CmdId) (g : CmdStage) (s : State) : (setStage id g s).ast = s.ast := rfl
@[simp] theorem setStage_tch (id : CmdId) (g : CmdStage) (s : State) : (setStage id g s).tch = s.tch := rfl
@[simp] theorem setStage_hmk (id : CmdId) (g : CmdStage) (s : State) : (setStage id g s).hmk = s.hmk := rfl
@[simp] theorem setStage_lmn (id : CmdId) (g : CmdStage) (s : State) : (setStage id g s).lmn = s.lmn := rfl
@[simp] theorem setStage_pwr (id : CmdId) (g : CmdStage) (s : State) : (setStage id g s).pwr = s.pwr := rfl

@[simp] theorem finishCmd_pending (id : CmdId) (c : Cpl) (s : State) : (finishCmd id c s).pending = s.pending := rfl
@[simp] theorem finishCmd_variant (id : CmdId) (c : Cpl) (s : State) : (finishCmd id c s).variant = s.variant := rfl
@[simp] theorem finishCmd_free (id : CmdId) (c : Cpl) (s : State) : (finishCmd id c s).free = s.free := rfl
@[simp] theorem finishCmd_pages (id : CmdId) (c : Cpl) (s : State) : (finishCmd id c s).pages = s.pages := rfl
@[simp] theorem finishCmd_sys (id : CmdId) (c : Cpl) (s : State) : (finishCmd id c s).sys = s.sys := rfl
@[simp] theorem finishCmd_rst (id : CmdId) (c : Cpl) (s : State) : (finishCmd id c s).rst = s.rst := rfl
@[simp] theorem finishCmd_clkg (id : CmdId) (c : Cpl) (s : State) : (finishCmd id c s).clkg = s.clkg := rfl
@[simp] theorem finishCmd_queues (id : CmdId) (c : Cpl) (s : State) : (finishCmd id c s).queues = s.queues := rfl
@[simp] theorem finishCmd_fab (id : CmdId) (c : Cpl) (s : State) : (finishCmd id c s).fab = s.fab := rfl
@[simp] theorem finishCmd_arb (id : CmdId) (c : Cpl) (s : State) : (finishCmd id c s).arb = s.arb := rfl
@[simp] theorem finishCmd_tb (id : CmdId) (c : Cpl) (s : State) : (finishCmd id c s).tb = s.tb := rfl
@[simp] theorem finishCmd_tmr (id : CmdId) (c : Cpl) (s : State) : (finishCmd id c s).tmr = s.tmr := rfl
@[simp] theorem finishCmd_fcr (id : CmdId) (c : Cpl) (s : State) : (finishCmd id c s).fcr = s.fcr := rfl
@[simp] theorem finishCmd_crc (id : CmdId) (c : Cpl) (s : State) : (finishCmd id c s).crc = s.crc := rfl
@[simp] theorem finishCmd_crcRef (id : CmdId) (c : Cpl) (s : State) : (finishCmd id c s).crcRef = s.crcRef := rfl
@[simp] theorem finishCmd_mgt (id : CmdId) (c : Cpl) (s : State) : (finishCmd id c s).mgt = s.mgt := rfl
@[simp] theorem finishCmd_dbg (id : CmdId) (c : Cpl) (s : State) : (finishCmd id c s).dbg = s.dbg := rfl
@[simp] theorem finishCmd_uart (id : CmdId) (c : Cpl) (s : State) : (finishCmd id c s).uart = s.uart := rfl
@[simp] theorem finishCmd_latch (id : CmdId) (c : Cpl) (s : State) : (finishCmd id c s).latch = s.latch := rfl
@[simp] theorem finishCmd_ilkA (id : CmdId) (c : Cpl) (s : State) : (finishCmd id c s).ilkA = s.ilkA := rfl
@[simp] theorem finishCmd_ilkB (id : CmdId) (c : Cpl) (s : State) : (finishCmd id c s).ilkB = s.ilkB := rfl
@[simp] theorem finishCmd_ilkl (id : CmdId) (c : Cpl) (s : State) : (finishCmd id c s).ilkl = s.ilkl := rfl
@[simp] theorem finishCmd_tab (id : CmdId) (c : Cpl) (s : State) : (finishCmd id c s).tab = s.tab := rfl
@[simp] theorem finishCmd_dhd (id : CmdId) (c : Cpl) (s : State) : (finishCmd id c s).dhd = s.dhd := rfl
@[simp] theorem finishCmd_ep (id : CmdId) (c : Cpl) (s : State) : (finishCmd id c s).ep = s.ep := rfl
@[simp] theorem finishCmd_tiles (id : CmdId) (c : Cpl) (s : State) : (finishCmd id c s).tiles = s.tiles := rfl
@[simp] theorem finishCmd_links (id : CmdId) (c : Cpl) (s : State) : (finishCmd id c s).links = s.links := rfl
@[simp] theorem finishCmd_tbl (id : CmdId) (c : Cpl) (s : State) : (finishCmd id c s).tbl = s.tbl := rfl
@[simp] theorem finishCmd_sto (id : CmdId) (c : Cpl) (s : State) : (finishCmd id c s).sto = s.sto := rfl
@[simp] theorem finishCmd_boot (id : CmdId) (c : Cpl) (s : State) : (finishCmd id c s).boot = s.boot := rfl
@[simp] theorem finishCmd_jrn (id : CmdId) (c : Cpl) (s : State) : (finishCmd id c s).jrn = s.jrn := rfl
@[simp] theorem finishCmd_ast (id : CmdId) (c : Cpl) (s : State) : (finishCmd id c s).ast = s.ast := rfl
@[simp] theorem finishCmd_tch (id : CmdId) (c : Cpl) (s : State) : (finishCmd id c s).tch = s.tch := rfl
@[simp] theorem finishCmd_hmk (id : CmdId) (c : Cpl) (s : State) : (finishCmd id c s).hmk = s.hmk := rfl
@[simp] theorem finishCmd_lmn (id : CmdId) (c : Cpl) (s : State) : (finishCmd id c s).lmn = s.lmn := rfl
@[simp] theorem finishCmd_pwr (id : CmdId) (c : Cpl) (s : State) : (finishCmd id c s).pwr = s.pwr := rfl

@[simp] theorem finishCode_pending (id : CmdId) (code : Nat) (s : State) : (finishCode id code s).pending = s.pending := rfl
@[simp] theorem finishCode_variant (id : CmdId) (code : Nat) (s : State) : (finishCode id code s).variant = s.variant := rfl
@[simp] theorem finishCode_free (id : CmdId) (code : Nat) (s : State) : (finishCode id code s).free = s.free := rfl
@[simp] theorem finishCode_pages (id : CmdId) (code : Nat) (s : State) : (finishCode id code s).pages = s.pages := rfl
@[simp] theorem finishCode_sys (id : CmdId) (code : Nat) (s : State) : (finishCode id code s).sys = s.sys := rfl
@[simp] theorem finishCode_rst (id : CmdId) (code : Nat) (s : State) : (finishCode id code s).rst = s.rst := rfl
@[simp] theorem finishCode_clkg (id : CmdId) (code : Nat) (s : State) : (finishCode id code s).clkg = s.clkg := rfl
@[simp] theorem finishCode_queues (id : CmdId) (code : Nat) (s : State) : (finishCode id code s).queues = s.queues := rfl
@[simp] theorem finishCode_fab (id : CmdId) (code : Nat) (s : State) : (finishCode id code s).fab = s.fab := rfl
@[simp] theorem finishCode_arb (id : CmdId) (code : Nat) (s : State) : (finishCode id code s).arb = s.arb := rfl
@[simp] theorem finishCode_tb (id : CmdId) (code : Nat) (s : State) : (finishCode id code s).tb = s.tb := rfl
@[simp] theorem finishCode_tmr (id : CmdId) (code : Nat) (s : State) : (finishCode id code s).tmr = s.tmr := rfl
@[simp] theorem finishCode_fcr (id : CmdId) (code : Nat) (s : State) : (finishCode id code s).fcr = s.fcr := rfl
@[simp] theorem finishCode_crc (id : CmdId) (code : Nat) (s : State) : (finishCode id code s).crc = s.crc := rfl
@[simp] theorem finishCode_crcRef (id : CmdId) (code : Nat) (s : State) : (finishCode id code s).crcRef = s.crcRef := rfl
@[simp] theorem finishCode_mgt (id : CmdId) (code : Nat) (s : State) : (finishCode id code s).mgt = s.mgt := rfl
@[simp] theorem finishCode_dbg (id : CmdId) (code : Nat) (s : State) : (finishCode id code s).dbg = s.dbg := rfl
@[simp] theorem finishCode_uart (id : CmdId) (code : Nat) (s : State) : (finishCode id code s).uart = s.uart := rfl
@[simp] theorem finishCode_latch (id : CmdId) (code : Nat) (s : State) : (finishCode id code s).latch = s.latch := rfl
@[simp] theorem finishCode_ilkA (id : CmdId) (code : Nat) (s : State) : (finishCode id code s).ilkA = s.ilkA := rfl
@[simp] theorem finishCode_ilkB (id : CmdId) (code : Nat) (s : State) : (finishCode id code s).ilkB = s.ilkB := rfl
@[simp] theorem finishCode_ilkl (id : CmdId) (code : Nat) (s : State) : (finishCode id code s).ilkl = s.ilkl := rfl
@[simp] theorem finishCode_tab (id : CmdId) (code : Nat) (s : State) : (finishCode id code s).tab = s.tab := rfl
@[simp] theorem finishCode_dhd (id : CmdId) (code : Nat) (s : State) : (finishCode id code s).dhd = s.dhd := rfl
@[simp] theorem finishCode_ep (id : CmdId) (code : Nat) (s : State) : (finishCode id code s).ep = s.ep := rfl
@[simp] theorem finishCode_tiles (id : CmdId) (code : Nat) (s : State) : (finishCode id code s).tiles = s.tiles := rfl
@[simp] theorem finishCode_links (id : CmdId) (code : Nat) (s : State) : (finishCode id code s).links = s.links := rfl
@[simp] theorem finishCode_tbl (id : CmdId) (code : Nat) (s : State) : (finishCode id code s).tbl = s.tbl := rfl
@[simp] theorem finishCode_sto (id : CmdId) (code : Nat) (s : State) : (finishCode id code s).sto = s.sto := rfl
@[simp] theorem finishCode_boot (id : CmdId) (code : Nat) (s : State) : (finishCode id code s).boot = s.boot := rfl
@[simp] theorem finishCode_jrn (id : CmdId) (code : Nat) (s : State) : (finishCode id code s).jrn = s.jrn := rfl
@[simp] theorem finishCode_ast (id : CmdId) (code : Nat) (s : State) : (finishCode id code s).ast = s.ast := rfl
@[simp] theorem finishCode_tch (id : CmdId) (code : Nat) (s : State) : (finishCode id code s).tch = s.tch := rfl
@[simp] theorem finishCode_hmk (id : CmdId) (code : Nat) (s : State) : (finishCode id code s).hmk = s.hmk := rfl
@[simp] theorem finishCode_lmn (id : CmdId) (code : Nat) (s : State) : (finishCode id code s).lmn = s.lmn := rfl
@[simp] theorem finishCode_pwr (id : CmdId) (code : Nat) (s : State) : (finishCode id code s).pwr = s.pwr := rfl

/-! ## Trips -/

theorem latchTrip_set (c : Cause) (e : Word32) (t : Nat) (l : Ilkl) : (latchTrip c e t l).trip = true ∧ (latchTrip c e t l).tripSet = l.tripSet ||| flag c.code true := by
  unfold latchTrip; dsimp only; split
  · exact ⟨‹_›, rfl⟩
  · exact ⟨rfl, rfl⟩

/-- What a cause leaves in ILKL: the latch set, its bit in TRIP_SET, both command images all-off, and the cause among those of the scan it belongs to (R92, R93). -/
theorem trip_ilkl (code chan detail pg : Nat) (s : State) :
    (trip code chan detail pg s).ilkl.trip = true ∧ (trip code chan detail pg s).ilkl.tripSet = s.ilkl.tripSet ||| flag code true ∧ outputsOff (trip code chan detail pg s) := by
  have e : (trip code chan detail pg s).ilkl =
      (let l := latchTrip { code := code, phase := tripPhaseNow s, chan := chan, detail := detail } (tripEpochNow s) (now s) s.ilkl
       let l := { l with imgA := { l.imgA with sot := 0, field := 0 }, imgB := { l.imgB with sot := 0, field := 0 } }
       if s.ilkl.scanning || nextScanRuns s then { l with causes := l.causes ++ [{ code := code, phase := tripPhaseNow s, chan := chan, detail := detail }] } else l) := by
    have hc : ∀ c k q t, (chanTrip c k q t).ilkl = t.ilkl := fun c k q t => chanTrip_ilkl c k q t
    simp only [trip, imagesOff, apply_ite State.ilkl, evtIf_ilkl, hc, report_ilkl, interlockRecord_ilkl, ite_self]
  have g := latchTrip_set { code := code, phase := tripPhaseNow s, chan := chan, detail := detail } (tripEpochNow s) (now s) s.ilkl
  unfold outputsOff; rw [e]; dsimp only
  split <;> exact ⟨g.1, g.2, rfl, rfl, rfl, rfl⟩

/-! ## Commands in flight -/

theorem find_updCmd_self (id : CmdId) (f : Cmd → Cmd) (hf : ∀ c, (f c).id = c.id) (l : List Cmd) :
    (updCmd id f l).find? (fun c => c.id == id) = (l.find? fun c => c.id == id).map f := by
  induction l with
  | nil => rfl
  | cons c t ih =>
    unfold updCmd; split
    · rename_i h; simp only [List.find?_cons, hf, h, Option.map_some]
    · rename_i h; simp only [List.find?_cons, h, ih]

theorem find_updCmd_ne (id j : CmdId) (f : Cmd → Cmd) (hf : ∀ c, (f c).id = c.id) (h : j ≠ id) (l : List Cmd) :
    (updCmd id f l).find? (fun c => c.id == j) = l.find? fun c => c.id == j := by
  induction l with
  | nil => rfl
  | cons c t ih =>
    unfold updCmd; split
    · rename_i e
      have hc : (c.id == j) = false := by
        rw [beq_iff_eq] at e; rw [e]; simpa using Ne.symm h
      simp only [List.find?_cons, hf, hc]
    · simp only [List.find?_cons, ih]

theorem length_updCmd (id : CmdId) (f : Cmd → Cmd) (l : List Cmd) : (updCmd id f l).length = l.length := by
  induction l with
  | nil => rfl
  | cons c t ih => unfold updCmd; split <;> simp [*]

/-- A change of stage concerns the oldest command of that name alone. -/
theorem setStage_stageTo (id : CmdId) (g : CmdStage) (s : State) : stageTo id g s (setStage id g s) :=
  ⟨find_updCmd_self id (fun c => { c with stage := g }) (fun _ => rfl) _, fun j h => find_updCmd_ne id j (fun c => { c with stage := g }) (fun _ => rfl) h _, length_updCmd _ _ _⟩

theorem finishCmd_decidedTo (id : CmdId) (k : Cpl) (s : State) : decidedTo id k s (finishCmd id k s) := setStage_stageTo id _ s

theorem finishCode_decidedTo (id : CmdId) (code : Nat) (s : State) : decidedTo id { result := BitVec.ofNat 8 code } s (finishCode id code s) := setStage_stageTo id _ s

end Sys2Proof.Machine
end

