-- ==== Sys2Proof/Laws/Access.lean ====
section
/-! SUPPORT. Laws of register access: what an access through any interface comes to, but for what the interface itself keeps of it. -/

namespace Sys2Proof.Machine

theorem burst_reg (p off : Nat) (hp : p < 256) (ho : off < 4096) (h4 : off % 4 = 0) : burstPage (regAddr p off) 0 = p ∧ burstOff (regAddr p off) 0 = off := by
  unfold burstPage burstOff regAddr; omega

theorem burst_dbg (p off : Nat) (hp : p < 256) (ho : off < 4096) (h4 : off % 4 = 0) :
    burstPage (BitVec.ofNat 20 (regAddr p off)).toNat 0 = p ∧ burstOff (BitVec.ofNat 20 (regAddr p off)).toNat 0 = off := by
  have h : (BitVec.ofNat 20 (regAddr p off)).toNat = regAddr p off := by
    rw [BitVec.toNat_ofNat]; unfold regAddr; omega
  rw [h]; exact burst_reg p off hp ho h4

/-- A page that an interface reaches is one of the 64. -/
theorem page_lt (v : Variant) (p : Nat) (h : pagePresent v p = true) : p < 64 := by
  rcases Nat.lt_or_ge p 64 with hp | hp
  · exact hp
  · have hk : pageKind v p = .absent := by
      have ht : tileOfPage p = none := by unfold tileOfPage; rw [if_neg (by omega), if_neg (by omega)]
      unfold pageKind; rw [ht]; dsimp only
      split <;> first | omega | (rw [if_neg (by omega), if_neg (by omega)])
    simp [pagePresent, hk] at h

theorem vUpd_vUpd {α : Type} {n : Nat} (v : Vector α n) (i : Nat) (f g : α → α) : vUpd (vUpd v i f) i g = vUpd v i fun a => g (f a) := by
  unfold vUpd
  cases h : v[i]? with
  | none => simp [h]
  | some a =>
    have hi : i < n := by
      rcases Nat.lt_or_ge i n with hi | hi
      · exact hi
      · simp [Vector.getElem?_eq_none hi] at h
    simp [hi]

theorem updHdr_updHdr (p : Nat) (f g : PageHdr → PageHdr) (s : State) : updHdr p g (updHdr p f s) = updHdr p (fun h => g (f h)) s := by
  simp [updHdr, vUpd_vUpd]

/-- An access is a transaction on the fabric and changes nothing else by being one. -/
theorem accessTraffic_arb (i : Iface) (p : Nat) (s : State) : ∃ a : Arb, accessTraffic i p s = { s with arb := a } := by
  unfold accessTraffic issue; split
  · exact ⟨s.arb, rfl⟩
  · exact ⟨_, rfl⟩

/-- A write through an interface comes to the write of the register: the debug port has only changed its own state before it, and the transaction stands on the fabric. -/
theorem seen_ifaceWrite (i : Iface) (p off : Nat) (v : Word32) (s : State) (hp : p < 256) (ho : off < 4096) (h4 : off % 4 = 0) (h : portOpen i s = true)
    (hm : ∀ a : Arb, (regWrite .mgt p off v { s with arb := a }).mgt.mode3 = s.mgt.mode3) :
    ∃ (d : Dbg) (a : Arb), (i ≠ .debug → d = s.dbg) ∧ seen i (ifaceWrite i p off v s) = seen i (regWrite i p off v { s with dbg := d, arb := a }) := by
  cases i with
  | pcie =>
    obtain ⟨a, ha⟩ := accessTraffic_arb .pcie p s
    exact ⟨s.dbg, a, fun _ => rfl, by simp [ifaceWrite, pcieWrite, h, ha]⟩
  | mgt =>
    obtain ⟨a, ha⟩ := accessTraffic_arb .mgt p s
    have hb := burst_reg p off hp ho h4
    exact ⟨s.dbg, a, fun _ => rfl, by simp [ifaceWrite, h, mgtServeWrite, mgtWrites, mgtDone, hb.1, hb.2, ha, seen, quiet, hush]; exact (hm a).symm⟩
  | debug =>
    obtain ⟨a, ha⟩ := accessTraffic_arb .debug p (selectIr .regAccess s)
    have hb := burst_dbg p off hp ho h4
    refine ⟨(selectIr .regAccess s).dbg, a, fun h => absurd rfl h, ?_⟩
    have h' : portOpen .debug (selectIr .regAccess s) = true := h
    simp only [ifaceWrite, regAccess, h', dbgWrite, dbgDone, hb.1, hb.2, ha, seen, quiet, hush]
    rfl

/-- The key sequence leaves the key with the interface. -/
theorem regWrite_key (i : Iface) (p : Nat) (s : State) (h1 : pagePresent s.variant p = true) (h2 : pageFenced s p = false) (h3 : pageKind s.variant p ≠ .ep) :
    regWrite i p 0x024 0x0000A5C3 s = updHdr p (fun h => { h with key := some i }) s := by
  have e : ∀ k, presentWrite i p 0x024 k 0x0000A5C3 (cancelKey p s) = updHdr p (fun h => { h with key := some i }) s := by
    intro k; unfold presentWrite cancelKey
    have hk : pageKind (updHdr p (fun h => { h with key := none }) s).variant p ≠ .ep := h3
    rw [if_neg (fun h => hk h.1)]
    simp [wkeyWrite, updHdr_updHdr]
  unfold regWrite
  rw [e]; simp [h1, h2]

/-- A write under the key. -/
theorem regWrite_keyed (i : Iface) (p off : Nat) (v : Word32) (s : State) (h1 : pagePresent s.variant p = true) (h2 : pageFenced s p = false) (hoff : off ≠ 0x020) :
    regWrite i p off v (updHdr p (fun h => { h with key := some i }) s) = presentWrite i p off true v (cancelKey p s) := by
  have hp : p < 64 := page_lt _ _ h1
  have hk : (hdr (updHdr p (fun h => { h with key := some i }) s) p).key = some i := by
    show (vGet (vUpd s.pages p _) p {}).key = _
    rw [vGet_vUpd_self _ _ _ _ hp]
  have h2' : pageFenced (updHdr p (fun h => { h with key := some i }) s) p = false := h2
  unfold regWrite
  simp [h1, h2', hoff, hk, cancelKey, updHdr_updHdr]

/-- A keyed write through an interface comes to the write of the register with the key held and the page's key cancelled. -/
theorem seen_keyedWrite (i : Iface) (p off : Nat) (v : Word32) (s : State) (h : reaches i p s) (h3 : pageKind s.variant p ≠ .ep) (ho : off < 4096) (h4 : off % 4 = 0) (hoff : off ≠ 0x020)
    (hm : ∀ a : Arb, (presentWrite .mgt p off true v (cancelKey p { s with arb := a })).mgt.mode3 = s.mgt.mode3) :
    ∃ (d : Dbg) (a : Arb), (i ≠ .debug → d = s.dbg) ∧ seen i (keyedWrite i p off v s) = seen i (presentWrite i p off true v (cancelKey p { s with dbg := d, arb := a })) := by
  obtain ⟨h0, h1, h2⟩ := h
  have hp : p < 256 := Nat.lt_trans (page_lt _ _ h1) (by decide)
  cases i with
  | pcie =>
    obtain ⟨a1, e1⟩ := accessTraffic_arb .pcie p s
    obtain ⟨a2, e2⟩ := accessTraffic_arb .pcie p (updHdr p (fun h => { h with key := some .pcie }) { s with arb := a1 })
    refine ⟨s.dbg, a2, fun _ => rfl, ?_⟩
    have h0' : portOpen .pcie (updHdr p (fun h => { h with key := some .pcie }) { s with arb := a1 }) = true := h0
    have k1 := regWrite_key .pcie p { s with arb := a1 } h1 h2 h3
    have k2 := regWrite_keyed .pcie p off v { s with arb := a2 } h1 h2 hoff
    simp only [keyedWrite, pcieWrite, h0, if_true, e1, k1, h0', e2]
    exact congrArg (seen .pcie) k2
  | mgt =>
    obtain ⟨a, ha⟩ := accessTraffic_arb .mgt p s
    have hb := burst_reg p off hp ho h4
    have k1 := regWrite_key .mgt p { s with arb := a } h1 h2 h3
    have k2 := regWrite_keyed .mgt p off v { s with arb := a } h1 h2 hoff
    refine ⟨s.dbg, a, fun _ => rfl, ?_⟩
    simp only [keyedWrite, h0, if_true, mgtServeKeyed, mgtDone, hb.1, hb.2, ha, k1, k2, ← hm a]
    rfl
  | debug =>
    obtain ⟨a, ha⟩ := accessTraffic_arb .debug p (selectIr .regAccess s)
    have hb := burst_dbg p off hp ho h4
    refine ⟨(selectIr .regAccess s).dbg, a, fun h => absurd rfl h, ?_⟩
    have h' : portOpen .debug (selectIr .regAccess s) = true := h0
    have k1 := regWrite_key .debug p { selectIr .regAccess s with arb := a } h1 h2 h3
    have k2 := regWrite_keyed .debug p off v { selectIr .regAccess s with arb := a } h1 h2 hoff
    simp only [keyedWrite, regAccess, h', dbgKeyed, dbgDone, hb.1, hb.2, ha, k1, k2]
    rfl

/-! ## Reads -/

theorem foldl_keeps {α β : Type} (π : State → β) (g : State → α → State) (h : ∀ t x, π (g t x) = π t) (l : List α) (s : State) : π (l.foldl g s) = π s := by
  induction l generalizing s with
  | nil => rfl
  | cons x l ih => rw [List.foldl_cons, ih, h]

@[simp] theorem timerCountRead_pending (i : Iface) (n : Nat) (s : State) : (timerCountRead i n s).2.pending = s.pending := by unfold timerCountRead; dsimp only; split <;> first | rfl | (refine foldl_keeps State.pending _ ?_ _ _; intros; rfl)
@[simp] theorem regReadValue_pending (i : Iface) (p off : Nat) (s : State) : (regReadValue i p off s).2.pending = s.pending := by unfold regReadValue epochOpen timeCapture drawFree; dsimp only; (repeat' split) <;> simp
@[simp] theorem throughPort_pending (i : Iface) (p off : Nat) (s : State) : (throughPort i p off s).2.pending = s.pending := by unfold throughPort reportPort; dsimp only; (repeat' split) <;> simp
@[simp] theorem cancelKey_pending (p : Nat) (s : State) : (cancelKey p s).pending = s.pending := rfl
@[simp] theorem regRead_pending (i : Iface) (p off : Nat) (s : State) : (regRead i p off s).2.pending = s.pending := by unfold regRead drawFree; dsimp only; (repeat' split) <;> simp
@[simp] theorem regReadFull_pending (i : Iface) (p off : Nat) (s : State) : (regReadFull i p off s).2.pending = s.pending := by unfold regReadFull; dsimp only; split <;> simp
@[simp] theorem timerCountRead_variant (i : Iface) (n : Nat) (s : State) : (timerCountRead i n s).2.variant = s.variant := by unfold timerCountRead; dsimp only; split <;> first | rfl | (refine foldl_keeps State.variant _ ?_ _ _; intros; rfl)
@[simp] theorem regReadValue_variant (i : Iface) (p off : Nat) (s : State) : (regReadValue i p off s).2.variant = s.variant := by unfold regReadValue epochOpen timeCapture drawFree; dsimp only; (repeat' split) <;> simp
@[simp] theorem throughPort_variant (i : Iface) (p off : Nat) (s : State) : (throughPort i p off s).2.variant = s.variant := by unfold throughPort reportPort; dsimp only; (repeat' split) <;> simp
@[simp] theorem cancelKey_variant (p : Nat) (s : State) : (cancelKey p s).variant = s.variant := rfl
@[simp] theorem regRead_variant (i : Iface) (p off : Nat) (s : State) : (regRead i p off s).2.variant = s.variant := by unfold regRead drawFree; dsimp only; (repeat' split) <;> simp
@[simp] theorem regReadFull_variant (i : Iface) (p off : Nat) (s : State) : (regReadFull i p off s).2.variant = s.variant := by unfold regReadFull; dsimp only; split <;> simp
@[simp] theorem timerCountRead_sys (i : Iface) (n : Nat) (s : State) : (timerCountRead i n s).2.sys = s.sys := by unfold timerCountRead; dsimp only; split <;> first | rfl | (refine foldl_keeps State.sys _ ?_ _ _; intros; rfl)
@[simp] theorem regReadValue_sys (i : Iface) (p off : Nat) (s : State) : (regReadValue i p off s).2.sys = s.sys := by unfold regReadValue epochOpen timeCapture drawFree; dsimp only; (repeat' split) <;> simp
@[simp] theorem throughPort_sys (i : Iface) (p off : Nat) (s : State) : (throughPort i p off s).2.sys = s.sys := by unfold throughPort reportPort; dsimp only; (repeat' split) <;> simp
@[simp] theorem cancelKey_sys (p : Nat) (s : State) : (cancelKey p s).sys = s.sys := rfl
@[simp] theorem regRead_sys (i : Iface) (p off : Nat) (s : State) : (regRead i p off s).2.sys = s.sys := by unfold regRead drawFree; dsimp only; (repeat' split) <;> simp
@[simp] theorem regReadFull_sys (i : Iface) (p off : Nat) (s : State) : (regReadFull i p off s).2.sys = s.sys := by unfold regReadFull; dsimp only; split <;> simp
@[simp] theorem timerCountRead_rst (i : Iface) (n : Nat) (s : State) : (timerCountRead i n s).2.rst = s.rst := by unfold timerCountRead; dsimp only; split <;> first | rfl | (refine foldl_keeps State.rst _ ?_ _ _; intros; rfl)
@[simp] theorem regReadValue_rst (i : Iface) (p off : Nat) (s : State) : (regReadValue i p off s).2.rst = s.rst := by unfold regReadValue epochOpen timeCapture drawFree; dsimp only; (repeat' split) <;> simp
@[simp] theorem throughPort_rst (i : Iface) (p off : Nat) (s : State) : (throughPort i p off s).2.rst = s.rst := by unfold throughPort reportPort; dsimp only; (repeat' split) <;> simp
@[simp] theorem cancelKey_rst (p : Nat) (s : State) : (cancelKey p s).rst = s.rst := rfl
@[simp] theorem regRead_rst (i : Iface) (p off : Nat) (s : State) : (regRead i p off s).2.rst = s.rst := by unfold regRead drawFree; dsimp only; (repeat' split) <;> simp
@[simp] theorem regReadFull_rst (i : Iface) (p off : Nat) (s : State) : (regReadFull i p off s).2.rst = s.rst := by unfold regReadFull; dsimp only; split <;> simp
@[simp] theorem timerCountRead_clkg (i : Iface) (n : Nat) (s : State) : (timerCountRead i n s).2.clkg = s.clkg := by unfold timerCountRead; dsimp only; split <;> first | rfl | (refine foldl_keeps State.clkg _ ?_ _ _; intros; rfl)
@[simp] theorem regReadValue_clkg (i : Iface) (p off : Nat) (s : State) : (regReadValue i p off s).2.clkg = s.clkg := by unfold regReadValue epochOpen timeCapture drawFree; dsimp only; (repeat' split) <;> simp
@[simp] theorem throughPort_clkg (i : Iface) (p off : Nat) (s : State) : (throughPort i p off s).2.clkg = s.clkg := by unfold throughPort reportPort; dsimp only; (repeat' split) <;> simp
@[simp] theorem cancelKey_clkg (p : Nat) (s : State) : (cancelKey p s).clkg = s.clkg := rfl
@[simp] theorem regRead_clkg (i : Iface) (p off : Nat) (s : State) : (regRead i p off s).2.clkg = s.clkg := by unfold regRead drawFree; dsimp only; (repeat' split) <;> simp
@[simp] theorem regReadFull_clkg (i : Iface) (p off : Nat) (s : State) : (regReadFull i p off s).2.clkg = s.clkg := by unfold regReadFull; dsimp only; split <;> simp
@[simp] theorem timerCountRead_queues (i : Iface) (n : Nat) (s : State) : (timerCountRead i n s).2.queues = s.queues := by unfold timerCountRead; dsimp only; split <;> first | rfl | (refine foldl_keeps State.queues _ ?_ _ _; intros; rfl)
@[simp] theorem regReadValue_queues (i : Iface) (p off : Nat) (s : State) : (regReadValue i p off s).2.queues = s.queues := by unfold regReadValue epochOpen timeCapture drawFree; dsimp only; (repeat' split) <;> simp
@[simp] theorem throughPort_queues (i : Iface) (p off : Nat) (s : State) : (throughPort i p off s).2.queues = s.queues := by unfold throughPort reportPort; dsimp only; (repeat' split) <;> simp
@[simp] theorem cancelKey_queues (p : Nat) (s : State) : (cancelKey p s).queues = s.queues := rfl
@[simp] theorem regRead_queues (i : Iface) (p off : Nat) (s : State) : (regRead i p off s).2.queues = s.queues := by unfold regRead drawFree; dsimp only; (repeat' split) <;> simp
@[simp] theorem regReadFull_queues (i : Iface) (p off : Nat) (s : State) : (regReadFull i p off s).2.queues = s.queues := by unfold regReadFull; dsimp only; split <;> simp
@[simp] theorem timerCountRead_fab (i : Iface) (n : Nat) (s : State) : (timerCountRead i n s).2.fab = s.fab := by unfold timerCountRead; dsimp only; split <;> first | rfl | (refine foldl_keeps State.fab _ ?_ _ _; intros; rfl)
@[simp] theorem regReadValue_fab (i : Iface) (p off : Nat) (s : State) : (regReadValue i p off s).2.fab = s.fab := by unfold regReadValue epochOpen timeCapture drawFree; dsimp only; (repeat' split) <;> simp
@[simp] theorem cancelKey_fab (p : Nat) (s : State) : (cancelKey p s).fab = s.fab := rfl
@[simp] theorem timerCountRead_tb (i : Iface) (n : Nat) (s : State) : (timerCountRead i n s).2.tb = s.tb := by unfold timerCountRead; dsimp only; split <;> first | rfl | (refine foldl_keeps State.tb _ ?_ _ _; intros; rfl)
@[simp] theorem regReadValue_tb (i : Iface) (p off : Nat) (s : State) : (regReadValue i p off s).2.tb = s.tb := by unfold regReadValue epochOpen timeCapture drawFree; dsimp only; (repeat' split) <;> simp
@[simp] theorem throughPort_tb (i : Iface) (p off : Nat) (s : State) : (throughPort i p off s).2.tb = s.tb := by unfold throughPort reportPort; dsimp only; (repeat' split) <;> simp
@[simp] theorem cancelKey_tb (p : Nat) (s : State) : (cancelKey p s).tb = s.tb := rfl
@[simp] theorem regRead_tb (i : Iface) (p off : Nat) (s : State) : (regRead i p off s).2.tb = s.tb := by unfold regRead drawFree; dsimp only; (repeat' split) <;> simp
@[simp] theorem regReadFull_tb (i : Iface) (p off : Nat) (s : State) : (regReadFull i p off s).2.tb = s.tb := by unfold regReadFull; dsimp only; split <;> simp
@[simp] theorem timerCountRead_crc (i : Iface) (n : Nat) (s : State) : (timerCountRead i n s).2.crc = s.crc := by unfold timerCountRead; dsimp only; split <;> first | rfl | (refine foldl_keeps State.crc _ ?_ _ _; intros; rfl)
@[simp] theorem regReadValue_crc (i : Iface) (p off : Nat) (s : State) : (regReadValue i p off s).2.crc = s.crc := by unfold regReadValue epochOpen timeCapture drawFree; dsimp only; (repeat' split) <;> simp
@[simp] theorem throughPort_crc (i : Iface) (p off : Nat) (s : State) : (throughPort i p off s).2.crc = s.crc := by unfold throughPort reportPort; dsimp only; (repeat' split) <;> simp
@[simp] theorem cancelKey_crc (p : Nat) (s : State) : (cancelKey p s).crc = s.crc := rfl
@[simp] theorem regRead_crc (i : Iface) (p off : Nat) (s : State) : (regRead i p off s).2.crc = s.crc := by unfold regRead drawFree; dsimp only; (repeat' split) <;> simp
@[simp] theorem regReadFull_crc (i : Iface) (p off : Nat) (s : State) : (regReadFull i p off s).2.crc = s.crc := by unfold regReadFull; dsimp only; split <;> simp
@[simp] theorem timerCountRead_crcRef (i : Iface) (n : Nat) (s : State) : (timerCountRead i n s).2.crcRef = s.crcRef := by unfold timerCountRead; dsimp only; split <;> first | rfl | (refine foldl_keeps State.crcRef _ ?_ _ _; intros; rfl)
@[simp] theorem regReadValue_crcRef (i : Iface) (p off : Nat) (s : State) : (regReadValue i p off s).2.crcRef = s.crcRef := by unfold regReadValue epochOpen timeCapture drawFree; dsimp only; (repeat' split) <;> simp
@[simp] theorem throughPort_crcRef (i : Iface) (p off : Nat) (s : State) : (throughPort i p off s).2.crcRef = s.crcRef := by unfold throughPort reportPort; dsimp only; (repeat' split) <;> simp
@[simp] theorem cancelKey_crcRef (p : Nat) (s : State) : (cancelKey p s).crcRef = s.crcRef := rfl
@[simp] theorem regRead_crcRef (i : Iface) (p off : Nat) (s : State) : (regRead i p off s).2.crcRef = s.crcRef := by unfold regRead drawFree; dsimp only; (repeat' split) <;> simp
@[simp] theorem regReadFull_crcRef (i : Iface) (p off : Nat) (s : State) : (regReadFull i p off s).2.crcRef = s.crcRef := by unfold regReadFull; dsimp only; split <;> simp
@[simp] theorem timerCountRead_pcie (i : Iface) (n : Nat) (s : State) : (timerCountRead i n s).2.pcie = s.pcie := by unfold timerCountRead; dsimp only; split <;> first | rfl | (refine foldl_keeps State.pcie _ ?_ _ _; intros; rfl)
@[simp] theorem regReadValue_pcie (i : Iface) (p off : Nat) (s : State) : (regReadValue i p off s).2.pcie = s.pcie := by unfold regReadValue epochOpen timeCapture drawFree; dsimp only; (repeat' split) <;> simp
@[simp] theorem throughPort_pcie (i : Iface) (p off : Nat) (s : State) : (throughPort i p off s).2.pcie = s.pcie := by unfold throughPort reportPort; dsimp only; (repeat' split) <;> simp
@[simp] theorem cancelKey_pcie (p : Nat) (s : State) : (cancelKey p s).pcie = s.pcie := rfl
@[simp] theorem regRead_pcie (i : Iface) (p off : Nat) (s : State) : (regRead i p off s).2.pcie = s.pcie := by unfold regRead drawFree; dsimp only; (repeat' split) <;> simp
@[simp] theorem regReadFull_pcie (i : Iface) (p off : Nat) (s : State) : (regReadFull i p off s).2.pcie = s.pcie := by unfold regReadFull; dsimp only; split <;> simp
@[simp] theorem timerCountRead_mgt (i : Iface) (n : Nat) (s : State) : (timerCountRead i n s).2.mgt = s.mgt := by unfold timerCountRead; dsimp only; split <;> first | rfl | (refine foldl_keeps State.mgt _ ?_ _ _; intros; rfl)
@[simp] theorem regReadValue_mgt (i : Iface) (p off : Nat) (s : State) : (regReadValue i p off s).2.mgt = s.mgt := by unfold regReadValue epochOpen timeCapture drawFree; dsimp only; (repeat' split) <;> simp
@[simp] theorem throughPort_mgt (i : Iface) (p off : Nat) (s : State) : (throughPort i p off s).2.mgt = s.mgt := by unfold throughPort reportPort; dsimp only; (repeat' split) <;> simp
@[simp] theorem cancelKey_mgt (p : Nat) (s : State) : (cancelKey p s).mgt = s.mgt := rfl
@[simp] theorem regRead_mgt (i : Iface) (p off : Nat) (s : State) : (regRead i p off s).2.mgt = s.mgt := by unfold regRead drawFree; dsimp only; (repeat' split) <;> simp
@[simp] theorem regReadFull_mgt (i : Iface) (p off : Nat) (s : State) : (regReadFull i p off s).2.mgt = s.mgt := by unfold regReadFull; dsimp only; split <;> simp
@[simp] theorem timerCountRead_dbg (i : Iface) (n : Nat) (s : State) : (timerCountRead i n s).2.dbg = s.dbg := by unfold timerCountRead; dsimp only; split <;> first | rfl | (refine foldl_keeps State.dbg _ ?_ _ _; intros; rfl)
@[simp] theorem regReadValue_dbg (i : Iface) (p off : Nat) (s : State) : (regReadValue i p off s).2.dbg = s.dbg := by unfold regReadValue epochOpen timeCapture drawFree; dsimp only; (repeat' split) <;> simp
@[simp] theorem throughPort_dbg (i : Iface) (p off : Nat) (s : State) : (throughPort i p off s).2.dbg = s.dbg := by unfold throughPort reportPort; dsimp only; (repeat' split) <;> simp
@[simp] theorem cancelKey_dbg (p : Nat) (s : State) : (cancelKey p s).dbg = s.dbg := rfl
@[simp] theorem regRead_dbg (i : Iface) (p off : Nat) (s : State) : (regRead i p off s).2.dbg = s.dbg := by unfold regRead drawFree; dsimp only; (repeat' split) <;> simp
@[simp] theorem regReadFull_dbg (i : Iface) (p off : Nat) (s : State) : (regReadFull i p off s).2.dbg = s.dbg := by unfold regReadFull; dsimp only; split <;> simp
@[simp] theorem timerCountRead_uart (i : Iface) (n : Nat) (s : State) : (timerCountRead i n s).2.uart = s.uart := by unfold timerCountRead; dsimp only; split <;> first | rfl | (refine foldl_keeps State.uart _ ?_ _ _; intros; rfl)
@[simp] theorem regReadValue_uart (i : Iface) (p off : Nat) (s : State) : (regReadValue i p off s).2.uart = s.uart := by unfold regReadValue epochOpen timeCapture drawFree; dsimp only; (repeat' split) <;> simp
@[simp] theorem throughPort_uart (i : Iface) (p off : Nat) (s : State) : (throughPort i p off s).2.uart = s.uart := by unfold throughPort reportPort; dsimp only; (repeat' split) <;> simp
@[simp] theorem cancelKey_uart (p : Nat) (s : State) : (cancelKey p s).uart = s.uart := rfl
@[simp] theorem regRead_uart (i : Iface) (p off : Nat) (s : State) : (regRead i p off s).2.uart = s.uart := by unfold regRead drawFree; dsimp only; (repeat' split) <;> simp
@[simp] theorem regReadFull_uart (i : Iface) (p off : Nat) (s : State) : (regReadFull i p off s).2.uart = s.uart := by unfold regReadFull; dsimp only; split <;> simp
@[simp] theorem timerCountRead_ilkA (i : Iface) (n : Nat) (s : State) : (timerCountRead i n s).2.ilkA = s.ilkA := by unfold timerCountRead; dsimp only; split <;> first | rfl | (refine foldl_keeps State.ilkA _ ?_ _ _; intros; rfl)
@[simp] theorem regReadValue_ilkA (i : Iface) (p off : Nat) (s : State) : (regReadValue i p off s).2.ilkA = s.ilkA := by unfold regReadValue epochOpen timeCapture drawFree; dsimp only; (repeat' split) <;> simp
@[simp] theorem throughPort_ilkA (i : Iface) (p off : Nat) (s : State) : (throughPort i p off s).2.ilkA = s.ilkA := by unfold throughPort reportPort; dsimp only; (repeat' split) <;> simp
@[simp] theorem cancelKey_ilkA (p : Nat) (s : State) : (cancelKey p s).ilkA = s.ilkA := rfl
@[simp] theorem regRead_ilkA (i : Iface) (p off : Nat) (s : State) : (regRead i p off s).2.ilkA = s.ilkA := by unfold regRead drawFree; dsimp only; (repeat' split) <;> simp
@[simp] theorem regReadFull_ilkA (i : Iface) (p off : Nat) (s : State) : (regReadFull i p off s).2.ilkA = s.ilkA := by unfold regReadFull; dsimp only; split <;> simp
@[simp] theorem timerCountRead_ilkB (i : Iface) (n : Nat) (s : State) : (timerCountRead i n s).2.ilkB = s.ilkB := by unfold timerCountRead; dsimp only; split <;> first | rfl | (refine foldl_keeps State.ilkB _ ?_ _ _; intros; rfl)
@[simp] theorem regReadValue_ilkB (i : Iface) (p off : Nat) (s : State) : (regReadValue i p off s).2.ilkB = s.ilkB := by unfold regReadValue epochOpen timeCapture drawFree; dsimp only; (repeat' split) <;> simp
@[simp] theorem throughPort_ilkB (i : Iface) (p off : Nat) (s : State) : (throughPort i p off s).2.ilkB = s.ilkB := by unfold throughPort reportPort; dsimp only; (repeat' split) <;> simp
@[simp] theorem cancelKey_ilkB (p : Nat) (s : State) : (cancelKey p s).ilkB = s.ilkB := rfl
@[simp] theorem regRead_ilkB (i : Iface) (p off : Nat) (s : State) : (regRead i p off s).2.ilkB = s.ilkB := by unfold regRead drawFree; dsimp only; (repeat' split) <;> simp
@[simp] theorem regReadFull_ilkB (i : Iface) (p off : Nat) (s : State) : (regReadFull i p off s).2.ilkB = s.ilkB := by unfold regReadFull; dsimp only; split <;> simp
@[simp] theorem timerCountRead_ilkl (i : Iface) (n : Nat) (s : State) : (timerCountRead i n s).2.ilkl = s.ilkl := by unfold timerCountRead; dsimp only; split <;> first | rfl | (refine foldl_keeps State.ilkl _ ?_ _ _; intros; rfl)
@[simp] theorem regReadValue_ilkl (i : Iface) (p off : Nat) (s : State) : (regReadValue i p off s).2.ilkl = s.ilkl := by unfold regReadValue epochOpen timeCapture drawFree; dsimp only; (repeat' split) <;> simp
@[simp] theorem throughPort_ilkl (i : Iface) (p off : Nat) (s : State) : (throughPort i p off s).2.ilkl = s.ilkl := by unfold throughPort reportPort; dsimp only; (repeat' split) <;> simp
@[simp] theorem cancelKey_ilkl (p : Nat) (s : State) : (cancelKey p s).ilkl = s.ilkl := rfl
@[simp] theorem regRead_ilkl (i : Iface) (p off : Nat) (s : State) : (regRead i p off s).2.ilkl = s.ilkl := by unfold regRead drawFree; dsimp only; (repeat' split) <;> simp
@[simp] theorem regReadFull_ilkl (i : Iface) (p off : Nat) (s : State) : (regReadFull i p off s).2.ilkl = s.ilkl := by unfold regReadFull; dsimp only; split <;> simp
@[simp] theorem timerCountRead_tab (i : Iface) (n : Nat) (s : State) : (timerCountRead i n s).2.tab = s.tab := by unfold timerCountRead; dsimp only; split <;> first | rfl | (refine foldl_keeps State.tab _ ?_ _ _; intros; rfl)
@[simp] theorem regReadValue_tab (i : Iface) (p off : Nat) (s : State) : (regReadValue i p off s).2.tab = s.tab := by unfold regReadValue epochOpen timeCapture drawFree; dsimp only; (repeat' split) <;> simp
@[simp] theorem throughPort_tab (i : Iface) (p off : Nat) (s : State) : (throughPort i p off s).2.tab = s.tab := by unfold throughPort reportPort; dsimp only; (repeat' split) <;> simp
@[simp] theorem cancelKey_tab (p : Nat) (s : State) : (cancelKey p s).tab = s.tab := rfl
@[simp] theorem regRead_tab (i : Iface) (p off : Nat) (s : State) : (regRead i p off s).2.tab = s.tab := by unfold regRead drawFree; dsimp only; (repeat' split) <;> simp
@[simp] theorem regReadFull_tab (i : Iface) (p off : Nat) (s : State) : (regReadFull i p off s).2.tab = s.tab := by unfold regReadFull; dsimp only; split <;> simp
@[simp] theorem timerCountRead_dhd (i : Iface) (n : Nat) (s : State) : (timerCountRead i n s).2.dhd = s.dhd := by unfold timerCountRead; dsimp only; split <;> first | rfl | (refine foldl_keeps State.dhd _ ?_ _ _; intros; rfl)
@[simp] theorem regReadValue_dhd (i : Iface) (p off : Nat) (s : State) : (regReadValue i p off s).2.dhd = s.dhd := by unfold regReadValue epochOpen timeCapture drawFree; dsimp only; (repeat' split) <;> simp
@[simp] theorem throughPort_dhd (i : Iface) (p off : Nat) (s : State) : (throughPort i p off s).2.dhd = s.dhd := by unfold throughPort reportPort; dsimp only; (repeat' split) <;> simp
@[simp] theorem cancelKey_dhd (p : Nat) (s : State) : (cancelKey p s).dhd = s.dhd := rfl
@[simp] theorem regRead_dhd (i : Iface) (p off : Nat) (s : State) : (regRead i p off s).2.dhd = s.dhd := by unfold regRead drawFree; dsimp only; (repeat' split) <;> simp
@[simp] theorem regReadFull_dhd (i : Iface) (p off : Nat) (s : State) : (regReadFull i p off s).2.dhd = s.dhd := by unfold regReadFull; dsimp only; split <;> simp
@[simp] theorem timerCountRead_tiles (i : Iface) (n : Nat) (s : State) : (timerCountRead i n s).2.tiles = s.tiles := by unfold timerCountRead; dsimp only; split <;> first | rfl | (refine foldl_keeps State.tiles _ ?_ _ _; intros; rfl)
@[simp] theorem regReadValue_tiles (i : Iface) (p off : Nat) (s : State) : (regReadValue i p off s).2.tiles = s.tiles := by unfold regReadValue epochOpen timeCapture drawFree; dsimp only; (repeat' split) <;> simp
@[simp] theorem throughPort_tiles (i : Iface) (p off : Nat) (s : State) : (throughPort i p off s).2.tiles = s.tiles := by unfold throughPort reportPort; dsimp only; (repeat' split) <;> simp
@[simp] theorem cancelKey_tiles (p : Nat) (s : State) : (cancelKey p s).tiles = s.tiles := rfl
@[simp] theorem regRead_tiles (i : Iface) (p off : Nat) (s : State) : (regRead i p off s).2.tiles = s.tiles := by unfold regRead drawFree; dsimp only; (repeat' split) <;> simp
@[simp] theorem regReadFull_tiles (i : Iface) (p off : Nat) (s : State) : (regReadFull i p off s).2.tiles = s.tiles := by unfold regReadFull; dsimp only; split <;> simp
@[simp] theorem timerCountRead_links (i : Iface) (n : Nat) (s : State) : (timerCountRead i n s).2.links = s.links := by unfold timerCountRead; dsimp only; split <;> first | rfl | (refine foldl_keeps State.links _ ?_ _ _; intros; rfl)
@[simp] theorem regReadValue_links (i : Iface) (p off : Nat) (s : State) : (regReadValue i p off s).2.links = s.links := by unfold regReadValue epochOpen timeCapture drawFree; dsimp only; (repeat' split) <;> simp
@[simp] theorem throughPort_links (i : Iface) (p off : Nat) (s : State) : (throughPort i p off s).2.links = s.links := by unfold throughPort reportPort; dsimp only; (repeat' split) <;> simp
@[simp] theorem cancelKey_links (p : Nat) (s : State) : (cancelKey p s).links = s.links := rfl
@[simp] theorem regRead_links (i : Iface) (p off : Nat) (s : State) : (regRead i p off s).2.links = s.links := by unfold regRead drawFree; dsimp only; (repeat' split) <;> simp
@[simp] theorem regReadFull_links (i : Iface) (p off : Nat) (s : State) : (regReadFull i p off s).2.links = s.links := by unfold regReadFull; dsimp only; split <;> simp
@[simp] theorem timerCountRead_tbl (i : Iface) (n : Nat) (s : State) : (timerCountRead i n s).2.tbl = s.tbl := by unfold timerCountRead; dsimp only; split <;> first | rfl | (refine foldl_keeps State.tbl _ ?_ _ _; intros; rfl)
@[simp] theorem regReadValue_tbl (i : Iface) (p off : Nat) (s : State) : (regReadValue i p off s).2.tbl = s.tbl := by unfold regReadValue epochOpen timeCapture drawFree; dsimp only; (repeat' split) <;> simp
@[simp] theorem throughPort_tbl (i : Iface) (p off : Nat) (s : State) : (throughPort i p off s).2.tbl = s.tbl := by unfold throughPort reportPort; dsimp only; (repeat' split) <;> simp
@[simp] theorem cancelKey_tbl (p : Nat) (s : State) : (cancelKey p s).tbl = s.tbl := rfl
@[simp] theorem regRead_tbl (i : Iface) (p off : Nat) (s : State) : (regRead i p off s).2.tbl = s.tbl := by unfold regRead drawFree; dsimp only; (repeat' split) <;> simp
@[simp] theorem regReadFull_tbl (i : Iface) (p off : Nat) (s : State) : (regReadFull i p off s).2.tbl = s.tbl := by unfold regReadFull; dsimp only; split <;> simp
@[simp] theorem timerCountRead_sto (i : Iface) (n : Nat) (s : State) : (timerCountRead i n s).2.sto = s.sto := by unfold timerCountRead; dsimp only; split <;> first | rfl | (refine foldl_keeps State.sto _ ?_ _ _; intros; rfl)
@[simp] theorem regReadValue_sto (i : Iface) (p off : Nat) (s : State) : (regReadValue i p off s).2.sto = s.sto := by unfold regReadValue epochOpen timeCapture drawFree; dsimp only; (repeat' split) <;> simp
@[simp] theorem throughPort_sto (i : Iface) (p off : Nat) (s : State) : (throughPort i p off s).2.sto = s.sto := by unfold throughPort reportPort; dsimp only; (repeat' split) <;> simp
@[simp] theorem cancelKey_sto (p : Nat) (s : State) : (cancelKey p s).sto = s.sto := rfl
@[simp] theorem regRead_sto (i : Iface) (p off : Nat) (s : State) : (regRead i p off s).2.sto = s.sto := by unfold regRead drawFree; dsimp only; (repeat' split) <;> simp
@[simp] theorem regReadFull_sto (i : Iface) (p off : Nat) (s : State) : (regReadFull i p off s).2.sto = s.sto := by unfold regReadFull; dsimp only; split <;> simp
@[simp] theorem timerCountRead_boot (i : Iface) (n : Nat) (s : State) : (timerCountRead i n s).2.boot = s.boot := by unfold timerCountRead; dsimp only; split <;> first | rfl | (refine foldl_keeps State.boot _ ?_ _ _; intros; rfl)
@[simp] theorem regReadValue_boot (i : Iface) (p off : Nat) (s : State) : (regReadValue i p off s).2.boot = s.boot := by unfold regReadValue epochOpen timeCapture drawFree; dsimp only; (repeat' split) <;> simp
@[simp] theorem throughPort_boot (i : Iface) (p off : Nat) (s : State) : (throughPort i p off s).2.boot = s.boot := by unfold throughPort reportPort; dsimp only; (repeat' split) <;> simp
@[simp] theorem cancelKey_boot (p : Nat) (s : State) : (cancelKey p s).boot = s.boot := rfl
@[simp] theorem regRead_boot (i : Iface) (p off : Nat) (s : State) : (regRead i p off s).2.boot = s.boot := by unfold regRead drawFree; dsimp only; (repeat' split) <;> simp
@[simp] theorem regReadFull_boot (i : Iface) (p off : Nat) (s : State) : (regReadFull i p off s).2.boot = s.boot := by unfold regReadFull; dsimp only; split <;> simp
@[simp] theorem timerCountRead_jrn (i : Iface) (n : Nat) (s : State) : (timerCountRead i n s).2.jrn = s.jrn := by unfold timerCountRead; dsimp only; split <;> first | rfl | (refine foldl_keeps State.jrn _ ?_ _ _; intros; rfl)
@[simp] theorem regReadValue_jrn (i : Iface) (p off : Nat) (s : State) : (regReadValue i p off s).2.jrn = s.jrn := by unfold regReadValue epochOpen timeCapture drawFree; dsimp only; (repeat' split) <;> simp
@[simp] theorem throughPort_jrn (i : Iface) (p off : Nat) (s : State) : (throughPort i p off s).2.jrn = s.jrn := by unfold throughPort reportPort; dsimp only; (repeat' split) <;> simp
@[simp] theorem cancelKey_jrn (p : Nat) (s : State) : (cancelKey p s).jrn = s.jrn := rfl
@[simp] theorem regRead_jrn (i : Iface) (p off : Nat) (s : State) : (regRead i p off s).2.jrn = s.jrn := by unfold regRead drawFree; dsimp only; (repeat' split) <;> simp
@[simp] theorem regReadFull_jrn (i : Iface) (p off : Nat) (s : State) : (regReadFull i p off s).2.jrn = s.jrn := by unfold regReadFull; dsimp only; split <;> simp
@[simp] theorem timerCountRead_ast (i : Iface) (n : Nat) (s : State) : (timerCountRead i n s).2.ast = s.ast := by unfold timerCountRead; dsimp only; split <;> first | rfl | (refine foldl_keeps State.ast _ ?_ _ _; intros; rfl)
@[simp] theorem regReadValue_ast (i : Iface) (p off : Nat) (s : State) : (regReadValue i p off s).2.ast = s.ast := by unfold regReadValue epochOpen timeCapture drawFree; dsimp only; (repeat' split) <;> simp
@[simp] theorem throughPort_ast (i : Iface) (p off : Nat) (s : State) : (throughPort i p off s).2.ast = s.ast := by unfold throughPort reportPort; dsimp only; (repeat' split) <;> simp
@[simp] theorem cancelKey_ast (p : Nat) (s : State) : (cancelKey p s).ast = s.ast := rfl
@[simp] theorem regRead_ast (i : Iface) (p off : Nat) (s : State) : (regRead i p off s).2.ast = s.ast := by unfold regRead drawFree; dsimp only; (repeat' split) <;> simp
@[simp] theorem regReadFull_ast (i : Iface) (p off : Nat) (s : State) : (regReadFull i p off s).2.ast = s.ast := by unfold regReadFull; dsimp only; split <;> simp
@[simp] theorem timerCountRead_tch (i : Iface) (n : Nat) (s : State) : (timerCountRead i n s).2.tch = s.tch := by unfold timerCountRead; dsimp only; split <;> first | rfl | (refine foldl_keeps State.tch _ ?_ _ _; intros; rfl)
@[simp] theorem regReadValue_tch (i : Iface) (p off : Nat) (s : State) : (regReadValue i p off s).2.tch = s.tch := by unfold regReadValue epochOpen timeCapture drawFree; dsimp only; (repeat' split) <;> simp
@[simp] theorem throughPort_tch (i : Iface) (p off : Nat) (s : State) : (throughPort i p off s).2.tch = s.tch := by unfold throughPort reportPort; dsimp only; (repeat' split) <;> simp
@[simp] theorem cancelKey_tch (p : Nat) (s : State) : (cancelKey p s).tch = s.tch := rfl
@[simp] theorem regRead_tch (i : Iface) (p off : Nat) (s : State) : (regRead i p off s).2.tch = s.tch := by unfold regRead drawFree; dsimp only; (repeat' split) <;> simp
@[simp] theorem regReadFull_tch (i : Iface) (p off : Nat) (s : State) : (regReadFull i p off s).2.tch = s.tch := by unfold regReadFull; dsimp only; split <;> simp
@[simp] theorem timerCountRead_hmk (i : Iface) (n : Nat) (s : State) : (timerCountRead i n s).2.hmk = s.hmk := by unfold timerCountRead; dsimp only; split <;> first | rfl | (refine foldl_keeps State.hmk _ ?_ _ _; intros; rfl)
@[simp] theorem regReadValue_hmk (i : Iface) (p off : Nat) (s : State) : (regReadValue i p off s).2.hmk = s.hmk := by unfold regReadValue epochOpen timeCapture drawFree; dsimp only; (repeat' split) <;> simp
@[simp] theorem throughPort_hmk (i : Iface) (p off : Nat) (s : State) : (throughPort i p off s).2.hmk = s.hmk := by unfold throughPort reportPort; dsimp only; (repeat' split) <;> simp
@[simp] theorem cancelKey_hmk (p : Nat) (s : State) : (cancelKey p s).hmk = s.hmk := rfl
@[simp] theorem regRead_hmk (i : Iface) (p off : Nat) (s : State) : (regRead i p off s).2.hmk = s.hmk := by unfold regRead drawFree; dsimp only; (repeat' split) <;> simp
@[simp] theorem regReadFull_hmk (i : Iface) (p off : Nat) (s : State) : (regReadFull i p off s).2.hmk = s.hmk := by unfold regReadFull; dsimp only; split <;> simp
@[simp] theorem timerCountRead_lmn (i : Iface) (n : Nat) (s : State) : (timerCountRead i n s).2.lmn = s.lmn := by unfold timerCountRead; dsimp only; split <;> first | rfl | (refine foldl_keeps State.lmn _ ?_ _ _; intros; rfl)
@[simp] theorem regReadValue_lmn (i : Iface) (p off : Nat) (s : State) : (regReadValue i p off s).2.lmn = s.lmn := by unfold regReadValue epochOpen timeCapture drawFree; dsimp only; (repeat' split) <;> simp
@[simp] theorem throughPort_lmn (i : Iface) (p off : Nat) (s : State) : (throughPort i p off s).2.lmn = s.lmn := by unfold throughPort reportPort; dsimp only; (repeat' split) <;> simp
@[simp] theorem cancelKey_lmn (p : Nat) (s : State) : (cancelKey p s).lmn = s.lmn := rfl
@[simp] theorem regRead_lmn (i : Iface) (p off : Nat) (s : State) : (regRead i p off s).2.lmn = s.lmn := by unfold regRead drawFree; dsimp only; (repeat' split) <;> simp
@[simp] theorem regReadFull_lmn (i : Iface) (p off : Nat) (s : State) : (regReadFull i p off s).2.lmn = s.lmn := by unfold regReadFull; dsimp only; split <;> simp
@[simp] theorem timerCountRead_pwr (i : Iface) (n : Nat) (s : State) : (timerCountRead i n s).2.pwr = s.pwr := by unfold timerCountRead; dsimp only; split <;> first | rfl | (refine foldl_keeps State.pwr _ ?_ _ _; intros; rfl)
@[simp] theorem regReadValue_pwr (i : Iface) (p off : Nat) (s : State) : (regReadValue i p off s).2.pwr = s.pwr := by unfold regReadValue epochOpen timeCapture drawFree; dsimp only; (repeat' split) <;> simp
@[simp] theorem throughPort_pwr (i : Iface) (p off : Nat) (s : State) : (throughPort i p off s).2.pwr = s.pwr := by unfold throughPort reportPort; dsimp only; (repeat' split) <;> simp
@[simp] theorem cancelKey_pwr (p : Nat) (s : State) : (cancelKey p s).pwr = s.pwr := rfl
@[simp] theorem regRead_pwr (i : Iface) (p off : Nat) (s : State) : (regRead i p off s).2.pwr = s.pwr := by unfold regRead drawFree; dsimp only; (repeat' split) <;> simp
@[simp] theorem regReadFull_pwr (i : Iface) (p off : Nat) (s : State) : (regReadFull i p off s).2.pwr = s.pwr := by unfold regReadFull; dsimp only; split <;> simp

/-- A read through an interface answers what the register gives, where the word behind it can be read. -/
theorem seen_ifaceRead (i : Iface) (p off : Nat) (s : State) (hp : p < 256) (ho : off < 4096) (h4 : off % 4 = 0) (h : portOpen i s = true)
    (hu : ∀ (d : Dbg) (a : Arb), (regReadFull i p off { s with dbg := d, arb := a }).1.unc = false) :
    ∃ (d : Dbg) (a : Arb), (i ≠ .debug → d = s.dbg) ∧ answered i (regReadFull i p off { s with dbg := d, arb := a }).1.v s (ifaceRead i p off s) ∧
      seen i (ifaceRead i p off s) = seen i (regReadFull i p off { s with dbg := d, arb := a }).2 := by
  cases i with
  | pcie =>
    obtain ⟨a, ha⟩ := accessTraffic_arb .pcie p s
    have e := hu s.dbg a
    refine ⟨s.dbg, a, fun _ => rfl, ?_⟩
    change (regReadFull .pcie p off { s with arb := a }).1.unc = false at e
    constructor
    · simp [answered, ifaceRead, pcieRead, h, ha, uncValue, e, hostEmit]
    · simp [ifaceRead, pcieRead, h, ha, uncValue, e, seen, quiet, hush_hostEmit]
  | mgt =>
    obtain ⟨a, ha⟩ := accessTraffic_arb .mgt p s
    have hb := burst_reg p off hp ho h4
    have e := hu s.dbg a
    change (regReadFull .mgt p off { s with arb := a }).1.unc = false at e
    refine ⟨s.dbg, a, fun _ => rfl, ?_⟩
    constructor
    · simp [answered, ifaceRead, h, mgtServeRead, mgtReads, mgtDone, hb.1, hb.2, ha, e]
    · simp [ifaceRead, h, mgtServeRead, mgtReads, mgtDone, hb.1, hb.2, ha, seen, quiet, hush]
  | debug =>
    obtain ⟨a, ha⟩ := accessTraffic_arb .debug p (selectIr .regAccess s)
    have hb := burst_dbg p off hp ho h4
    have e := hu (selectIr .regAccess s).dbg a
    have h' : portOpen .debug (selectIr .regAccess s) = true := h
    change (regReadFull .debug p off { selectIr .regAccess s with arb := a }).1.unc = false at e
    refine ⟨(selectIr .regAccess s).dbg, a, fun h => absurd rfl h, ?_⟩
    have u : uncValue .debug p (regReadFull .debug p off { selectIr .regAccess s with arb := a }) = regReadFull .debug p off { selectIr .regAccess s with arb := a } := by
      unfold uncValue; rw [e]; rfl
    have q : ifaceRead .debug p off s = dbgDone (BitVec.ofNat 20 (regAddr p off)) (!(pagePresent (selectIr .regAccess s).variant p))
        { (regReadFull .debug p off { selectIr .regAccess s with arb := a }).2 with
          dbg := { (regReadFull .debug p off { selectIr .regAccess s with arb := a }).2.dbg with data := (regReadFull .debug p off { selectIr .regAccess s with arb := a }).1.v } } := by
      simp only [ifaceRead, regAccess, h', dbgRead, hb.1, hb.2, ha, u, e, Bool.false_or]
      rfl
    rw [q]
    exact ⟨rfl, rfl⟩

end Sys2Proof.Machine
end

