-- ==== Sys2Proof/Laws/Kept.lean ====
section
/-! SUPPORT. What most operations leave alone: the queue, the variant, the bytes of the store, the ingot map, the maps of its snapshots and the antifuses. -/

namespace Sys2Proof.Machine

/-- The queue, the variant, the bytes of the store, the ingot map, the maps of its snapshots and the antifuses. -/
structure Kept where
  pending : List Instr
  variant : Variant
  mem : Memory
  map : SMap Nat
  snaps : Vector (Option (SMap Nat)) 2
  rows : SMap Fuse

/-- See `Kept`. -/
def kept (s : State) : Kept :=
  { pending := s.pending, variant := s.variant, mem := s.sto.mem, map := s.sto.map, snaps := s.sto.snaps.map (Option.map MapSnap.map), rows := s.tch.rows }

theorem kept_pair {α : Type} (a : α) (t s : State) (h : kept t = kept s) : kept (a, t).2 = kept s := h

theorem kept_ite_pair {α : Type} (c : Prop) [Decidable c] (x y : α × State) (s : State) (h1 : kept x.2 = kept s) (h2 : kept y.2 = kept s) : kept (if c then x else y).2 = kept s := by
  split <;> assumption

@[simp] theorem kept_mk (s0 : State) (free : Nat) (pages : Vector PageHdr 64) (sys : Sys) (rst : Rst) (clkg : Clkg) (queues : Vector XQueue 26) (fab : Fabric) (arb : Arb) (tb : Tbase) (tmr : Vector Tmr 8) (fcr : Fcr) (crc : Vector CrcUnit 4) (crcRef : SMap (Nat × Word32)) (pcie : Pcie) (mgt : Mgt) (dbg : Dbg) (uart : Uart) (latch : SMap Word32) (ilkA : Ilk) (ilkB : Ilk) (ilkl : Ilkl) (tab : Tab) (dhd : Dhd) (ep : Epochs) (tiles : Vector Tile 8) (links : Vector Link 8) (tbl : Tbl) (sto : Sto) (boot : Boot) (jrn : Jrn) (ast : Ast) (tch : Tch) (hmk : Hmk) (lmn : Lmn) (pwr : Pwr) (h1 : sto.mem = s0.sto.mem) (h2 : sto.map = s0.sto.map) (h3 : sto.snaps.map (Option.map MapSnap.map) = s0.sto.snaps.map (Option.map MapSnap.map)) (h4 : tch.rows = s0.tch.rows) :
    kept (State.mk s0.pending s0.variant free pages sys rst clkg queues fab arb tb tmr fcr crc crcRef pcie mgt dbg uart latch ilkA ilkB ilkl tab dhd ep tiles links tbl sto boot jrn ast tch hmk lmn pwr) = kept s0 := by
  simp [kept, *]

@[simp] theorem kept_foldl {α : Type} (g : State → α → State) (h : ∀ t x, kept (g t x) = kept t) (l : List α) (s : State) : kept (l.foldl g s) = kept s := by
  induction l generalizing s with
  | nil => rfl
  | cons x l ih => rw [List.foldl_cons, ih, h]

@[simp] theorem kept_ite (c : Prop) [Decidable c] (a b : State) : kept (if c then a else b) = if c then kept a else kept b := by split <;> rfl

theorem kept_foldl_snd {α β : Type} (g : β × State → α → β × State) (h : ∀ t x, kept (g t x).2 = kept t.2) (l : List α) (s : β × State) : kept (l.foldl g s).2 = kept s.2 := by
  induction l generalizing s with
  | nil => rfl
  | cons x l ih => rw [List.foldl_cons, ih, h]

@[simp] theorem issue_kept (kind : Traffic) (src : Nat) (dst : Nat) (n : Nat) (s : State) : kept (issue kind src dst n s) = kept s := by
  unfold issue; repeat' split
  all_goals simp

@[simp] theorem discardRequests_kept (pg : Nat) (s : State) : kept (discardRequests pg s) = kept s := by
  unfold discardRequests; repeat' split
  all_goals simp

@[simp] theorem updHdr_kept (p : Nat) (f : PageHdr → PageHdr) (s : State) : kept (updHdr p f s) = kept s := by
  unfold updHdr
  all_goals simp

@[simp] theorem hostEmit_kept (o : HostOut) (s : State) : kept (hostEmit o s) = kept s := by
  unfold hostEmit; (try dsimp only)
  all_goals simp

@[simp] theorem sendVector_kept (v : Nat) (s : State) : kept (sendVector v s) = kept s := by
  unfold sendVector; (try dsimp only); repeat' split
  all_goals simp

@[simp] theorem sendPending_kept (s : State) : kept (sendPending s) = kept s := by
  unfold sendPending; (try dsimp only); repeat' split
  all_goals simp

@[simp] theorem summaryEdge_kept (old : Bool) (s : State) : kept (summaryEdge old s) = kept s := by
  unfold summaryEdge; repeat' split
  all_goals simp

@[simp] theorem evtBits_kept (p : Nat) (m : Word32) (s : State) : kept (evtBits p m s) = kept s := by
  unfold evtBits
  all_goals simp

@[simp] theorem evt_kept (p n : Nat) (s : State) : kept (evt p n s) = kept s := by
  unfold evt
  all_goals simp

@[simp] theorem evtIf_kept (c : Bool) (p n : Nat) (s : State) : kept (evtIf c p n s) = kept s := by
  unfold evtIf; repeat' split
  all_goals simp

@[simp] theorem errStat_kept (iface : Iface) (p off n : Nat) (s : State) : kept (errStat iface p off n s) = kept s := by
  unfold errStat
  all_goals simp

@[simp] theorem drawFree_kept (s : State) : kept (drawFree s).2 = kept s := by
  unfold drawFree; (try dsimp only)
  all_goals simp

@[simp] theorem reportAs_kept (r : Report) (s : State) : kept (reportAs r s) = kept s := by
  unfold reportAs; (try dsimp only); repeat' split
  all_goals simp

@[simp] theorem report_kept (src : Nat) (synd : Word32) (detail page : Nat) (s : State) : kept (report src synd detail page s) = kept s := by
  unfold report
  all_goals simp

@[simp] theorem report0_kept (src page : Nat) (s : State) : kept (report0 src page s) = kept s := by
  unfold report0
  all_goals simp

@[simp] theorem reportIf_kept (c : Bool) (src page : Nat) (s : State) : kept (reportIf c src page s) = kept s := by
  unfold reportIf; repeat' split
  all_goals simp

@[simp] theorem tileReport_kept (p k : Nat) (mask : BitVec 16) (s : State) : kept (tileReport p k mask s) = kept s := by
  unfold tileReport
  all_goals simp

@[simp] theorem readPort_kept (p : Nat) (w : WordCheck) (s : State) : kept (readPort p w s).2 = kept s := by
  unfold readPort; (try dsimp only); repeat' split
  all_goals simp

@[simp] theorem isolateCell_kept (page : Nat) (cell : Nat) (unserved : Bool) (s : State) : kept (isolateCell page cell unserved s) = kept s := by
  unfold isolateCell
  all_goals simp

@[simp] theorem readThrice_kept (p : Nat) (w : WordCheck) (s : State) : kept (readThrice p w s).2 = kept s := by
  unfold readThrice; (try dsimp only); repeat' split
  all_goals simp

@[simp] theorem readRetry_kept (p : Nat) (cell : Nat) (w : WordCheck) (s : State) : kept (readRetry p cell w s).2 = kept s := by
  unfold readRetry; (try dsimp only); repeat' split
  all_goals simp

@[simp] theorem reportRead_kept (corr unc page addr : Nat) (r : ReadOut) (s : State) : kept (reportRead corr unc page addr r s) = kept s := by
  unfold reportRead; repeat' split
  all_goals simp

@[simp] theorem admitSystem_kept (r : Rec) (s : State) : kept (admitSystem r s) = kept s := by
  unfold admitSystem; (try dsimp only); repeat' split
  all_goals simp

@[simp] theorem sysRecord_kept (time : Nat) (epoch : Word32) (source cls : Nat) (payload : List Byte) (s : State) : kept (sysRecord time epoch source cls payload s) = kept s := by
  unfold sysRecord
  all_goals simp

@[simp] theorem interlockRecord_kept (time : Nat) (epoch : Word32) (cls : Nat) (payload : List Byte) (s : State) : kept (interlockRecord time epoch cls payload s) = kept s := by
  unfold interlockRecord
  all_goals simp

@[simp] theorem setMode_kept (m : Mode) (s : State) : kept (setMode m s) = kept s := by
  unfold setMode; (try dsimp only); repeat' split
  all_goals simp

@[simp] theorem uartLine_kept (n : Nat) (s : State) : kept (uartLine n s) = kept s := by
  unfold uartLine; (try dsimp only); repeat' split
  all_goals simp

@[simp] theorem updQ_kept (i : Nat) (f : XQueue → XQueue) (s : State) : kept (updQ i f s) = kept s := by
  unfold updQ
  all_goals simp

@[simp] theorem loseQueue_kept (i : Nat) (s : State) : kept (loseQueue i s) = kept s := by
  unfold loseQueue; (try dsimp only); repeat' split
  all_goals simp

@[simp] theorem severQueue_kept (i : Nat) (prod cons : Bool) (s : State) : kept (severQueue i prod cons s) = kept s := by
  unfold severQueue; repeat' split
  all_goals simp

@[simp] theorem queueRelease_kept (i : Nat) (prod : Bool) (cons : Bool) (s : State) : kept (queueRelease i prod cons s) = kept s := by
  unfold queueRelease
  all_goals simp

@[simp] theorem qPass_kept (i : Nat) (n : Nat) (s : State) : kept (qPass i n s) = kept s := by
  unfold qPass
  all_goals simp

@[simp] theorem queueDiscard_kept (i n : Nat) (s : State) : kept (queueDiscard i n s) = kept s := by
  unfold queueDiscard; (try dsimp only); repeat' split
  all_goals simp

@[simp] theorem qPush_kept (i : Nat) (d : BitVec 128) (s : State) : kept (qPush i d s) = kept s := by
  unfold qPush; (try dsimp only); repeat' split
  all_goals simp

@[simp] theorem qPop_kept (i : Nat) (n : Nat) (s : State) : kept (qPop i n s) = kept s := by
  unfold qPop
  all_goals simp

@[simp] theorem updIlk_kept (c : Chan) (f : Ilk → Ilk) (s : State) : kept (updIlk c f s) = kept s := by
  unfold updIlk; repeat' split
  all_goals simp

@[simp] theorem imagesOff_kept (s : State) : kept (imagesOff s) = kept s := by
  unfold imagesOff; (try dsimp only)
  all_goals simp

@[simp] theorem chanTrip_kept (c : Chan) (cause : Cause) (epoch : Word32) (s : State) : kept (chanTrip c cause epoch s) = kept s := by
  unfold chanTrip
  all_goals simp

@[simp] theorem trip_kept (code chan detail pg : Nat) (s : State) : kept (trip code chan detail pg s) = kept s := by
  unfold trip; (try dsimp only); repeat' split
  all_goals simp

@[simp] theorem trip0_kept (code chan pg : Nat) (s : State) : kept (trip0 code chan pg s) = kept s := by
  unfold trip0
  all_goals simp

@[simp] theorem severPage_kept (pg : Nat) (s : State) : kept (severPage pg s) = kept s := by
  unfold severPage
  all_goals simp

@[simp] theorem fence_kept (pg : Nat) (src : Bool) (s : State) : kept (fence pg src s) = kept s := by
  unfold fence; (try dsimp only); repeat' split
  all_goals simp

@[simp] theorem resetHdr_kept (p : Nat) (s : State) : kept (resetHdr p s) = kept s := by
  unfold resetHdr
  all_goals simp

@[simp] theorem releasePin_kept (i : Nat) (s : State) : kept (releasePin i s) = kept s := by
  unfold releasePin; (try dsimp only)
  all_goals simp

@[simp] theorem releaseLatches_kept (i : Iface) (s : State) : kept (releaseLatches i s) = kept s := by
  unfold releaseLatches
  all_goals simp

@[simp] theorem pcieReset_kept (flr : Bool) (s : State) : kept (pcieReset flr s) = kept s := by
  unfold pcieReset; (try dsimp only)
  all_goals simp

@[simp] theorem lmnLost_kept (s : State) : kept (lmnLost s) = kept s := by
  unfold lmnLost
  all_goals simp

@[simp] theorem tblReset_kept (s : State) : kept (tblReset s) = kept s := by
  unfold tblReset
  all_goals simp

@[simp] theorem ilkReset_kept (c : Chan) (s : State) : kept (ilkReset c s) = kept s := by
  unfold ilkReset; repeat' split
  all_goals simp

@[simp] theorem closeCauses_kept (s : State) : kept (closeCauses s) = kept s := by
  unfold closeCauses
  all_goals simp

@[simp] theorem ilklReset_kept (s : State) : kept (ilklReset s) = kept s := by
  unfold ilklReset; (try dsimp only)
  all_goals simp

@[simp] theorem tbaseReset_kept (s : State) : kept (tbaseReset s) = kept s := by
  unfold tbaseReset; (try dsimp only)
  all_goals simp

@[simp] theorem tchReset_kept (s : State) : kept (tchReset s) = kept s := by
  unfold tchReset; (try dsimp only)
  all_goals simp

@[simp] theorem hmkReset_kept (s : State) : kept (hmkReset s) = kept s := by
  unfold hmkReset; (try dsimp only)
  all_goals simp

@[simp] theorem astReset_kept (s : State) : kept (astReset s) = kept s := by
  unfold astReset; (try dsimp only)
  all_goals simp

@[simp] theorem linkReset_kept (p : Nat) (s : State) : kept (linkReset p s) = kept s := by
  unfold linkReset
  all_goals simp

@[simp] theorem tileReset_kept (p : Nat) (s : State) : kept (tileReset p s) = kept s := by
  unfold tileReset; (try dsimp only)
  all_goals simp

@[simp] theorem tabReset_kept (s : State) : kept (tabReset s) = kept s := by
  unfold tabReset
  all_goals simp

@[simp] theorem dhdReset_kept (s : State) : kept (dhdReset s) = kept s := by
  unfold dhdReset
  all_goals simp

@[simp] theorem cancelModeReq_kept (code : Nat) (s : State) : kept (cancelModeReq code s) = kept s := by
  unfold cancelModeReq; (try dsimp only); repeat' split
  all_goals simp

@[simp] theorem cellsReset_kept (pg : Nat) (s : State) : kept (cellsReset pg s) = kept s := by
  unfold cellsReset
  all_goals simp

@[simp] theorem pfStart_kept (cause : Nat) (s : State) : kept (pfStart cause s) = kept s := by
  unfold pfStart; (try dsimp only); repeat' split
  all_goals simp

@[simp] theorem updSrc_kept (n : Nat) (f : Src → Src) (s : State) : kept (updSrc n f s) = kept s := by
  unfold updSrc; (try dsimp only)
  all_goals simp

@[simp] theorem judge_kept (t : Nat) (r : Report) (s : State) : kept (judge t r s).2 = kept s := by
  unfold judge; (try dsimp only)
  all_goals simp

@[simp] theorem errnLow_kept (s : State) : kept (errnLow s) = kept s := by
  unfold errnLow; (try dsimp only); repeat' split
  all_goals simp

@[simp] theorem faultRecord_kept (e : HistEntry) (s : State) : kept (faultRecord e s) = kept s := by
  unfold faultRecord
  all_goals simp

@[simp] theorem judgeAll_kept (t : Nat) (l : List Report) (s : State) : kept (judgeAll t l s).2 = kept s := by
  induction l generalizing s with
  | nil => rfl
  | cons r rest ih => simp [judgeAll, ih]

@[simp] theorem mergedReports_kept (l : List Report) (s : State) : kept (mergedReports l s) = kept s := by
  unfold mergedReports
  all_goals simp

@[simp] theorem ackSource_kept (n : Nat) (s : State) : kept (ackSource n s) = kept s := by
  unfold ackSource; repeat' split
  all_goals simp

@[simp] theorem ackAll_kept (s : State) : kept (ackAll s) = kept s := by
  unfold ackAll; (try dsimp only)
  all_goals simp

@[simp] theorem promoClr_kept (n : Nat) (s : State) : kept (promoClr n s) = kept s := by
  unfold promoClr; repeat' split
  all_goals simp

@[simp] theorem promoClrAll_kept (s : State) : kept (promoClrAll s) = kept s := by
  unfold promoClrAll; (try dsimp only)
  all_goals simp

@[simp] theorem fcrCntClr_kept (s : State) : kept (fcrCntClr s) = kept s := by
  unfold fcrCntClr; (try dsimp only)
  all_goals simp

@[simp] theorem srcCfgWrite_kept (iface : Iface) (w : Word32) (s : State) : kept (srcCfgWrite iface w s) = kept s := by
  unfold srcCfgWrite; (try dsimp only); repeat' split
  all_goals simp

@[simp] theorem errnTest_kept (iface : Iface) (s : State) : kept (errnTest iface s) = kept s := by
  unfold errnTest; (try dsimp only); repeat' split
  all_goals simp

@[simp] theorem hqSel_kept (age : Nat) (s : State) : kept (hqSel age s) = kept s := by
  unfold hqSel; (try dsimp only); repeat' split
  all_goals simp

@[simp] theorem updTmr_kept (n : Nat) (f : Tmr → Tmr) (s : State) : kept (updTmr n f s) = kept s := by
  unfold updTmr
  all_goals simp

@[simp] theorem clockCycle_kept (s : State) : kept (clockCycle s) = kept s := by
  unfold clockCycle
  all_goals simp

@[simp] theorem updChan_kept (n : Nat) (f : CmpChan → CmpChan) (s : State) : kept (updChan n f s) = kept s := by
  unfold updChan; (try dsimp only)
  all_goals simp

@[simp] theorem chanWrite_kept (iface : Iface) (n off : Nat) (w : CmpWrite) (s : State) : kept (chanWrite iface n off w s) = kept s := by
  unfold chanWrite; repeat' split
  all_goals simp

@[simp] theorem chanRegWrite_kept (iface : Iface) (n r off : Nat) (v : Word32) (s : State) : kept (chanRegWrite iface n r off v s) = kept s := by
  unfold chanRegWrite; (try dsimp only); repeat' split
  all_goals simp

@[simp] theorem chan0Set_kept (scanUs : Nat) (s : State) : kept (chan0Set scanUs s) = kept s := by
  unfold chan0Set
  all_goals simp

@[simp] theorem chan0Off_kept (s : State) : kept (chan0Off s) = kept s := by
  unfold chan0Off
  all_goals simp

@[simp] theorem wrapEvent_kept (n : Nat) (overrun : Bool) (s : State) : kept (wrapEvent n overrun s) = kept s := by
  unfold wrapEvent; (try dsimp only); repeat' split
  all_goals simp

@[simp] theorem tickTimer_kept (fuel n : Nat) (s : State) : kept (tickTimer fuel n s) = kept s := by
  induction fuel generalizing n s with
  | zero => rfl
  | succ fuel ih => unfold tickTimer; simp [ih]

@[simp] theorem tmrWrite_kept (iface : Iface) (n off : Nat) (w : TmrWrite) (s : State) : kept (tmrWrite iface n off w s) = kept s := by
  unfold tmrWrite; repeat' split
  all_goals simp

@[simp] theorem tmrRegWrite_kept (iface : Iface) (n r off : Nat) (v : Word32) (s : State) : kept (tmrRegWrite iface n r off v s) = kept s := by
  unfold tmrRegWrite; repeat' split
  all_goals simp

@[simp] theorem timerCountRead_kept (iface : Iface) (n : Nat) (s : State) : kept (timerCountRead iface n s).2 = kept s := by
  unfold timerCountRead; (try dsimp only); repeat' split
  all_goals simp

@[simp] theorem unfence_kept (page : Nat) (s : State) : kept (unfence page s) = kept s := by
  unfold unfence; (try dsimp only)
  all_goals simp

@[simp] theorem measSelWrite_kept (v : Word32) (s : State) : kept (measSelWrite v s) = kept s := by
  unfold measSelWrite; (try dsimp only); repeat' split
  all_goals simp

@[simp] theorem updShadow_kept (row : Nat) (f : Shadow → Shadow) (s : State) : kept (updShadow row f s) = kept s := by
  unfold updShadow; (try dsimp only)
  all_goals simp

@[simp] theorem shadowRead_kept (n : Nat) (s : State) : kept (shadowRead n s).2 = kept s := by
  unfold shadowRead; (try dsimp only)
  all_goals simp

@[simp] theorem judgeRow_kept (entries : List (Nat × Nat)) (n : Nat) (s : State) : kept (judgeRow entries n s) = kept s := by
  unfold judgeRow; (try dsimp only); repeat' split
  all_goals simp

@[simp] theorem tchJudge_kept (s : State) : kept (tchJudge s) = kept s := by
  unfold tchJudge; (try dsimp only)
  all_goals simp

@[simp] theorem readListed_kept (l : List Nat) (s : State) : kept (readListed l s).2 = kept s := by
  induction l generalizing s with
  | nil => rfl
  | cons n rest ih =>
    unfold readListed; dsimp only; repeat' split
    all_goals simp [ih]

@[simp] theorem manifestJudge_kept (s : State) : kept (manifestJudge s).2 = kept s := by
  unfold manifestJudge; dsimp only
  split
  · split
    · simp
    · split <;> simp only [readListed_kept, shadowRead_kept]
  · simp

@[simp] theorem manifestCheck_kept (s : State) : kept (manifestCheck s).2 = kept s := by
  unfold manifestCheck; (try dsimp only); repeat' split
  all_goals simp

@[simp] theorem incompleteExitNow_kept (s : State) : kept (incompleteExitNow s) = kept s := by
  unfold incompleteExitNow; (try dsimp only); repeat' split
  all_goals simp

@[simp] theorem incompleteExit_kept (s : State) : kept (incompleteExit s) = kept s := by
  unfold incompleteExit; (try dsimp only); repeat' split
  all_goals simp

@[simp] theorem tchEnd_kept (code : Nat) (s : State) : kept (tchEnd code s) = kept s := by
  unfold tchEnd; (try dsimp only); repeat' split
  all_goals simp

@[simp] theorem tchRead_kept (row margin : Nat) (s : State) : kept (tchRead row margin s) = kept s := by
  unfold tchRead; (try dsimp only); repeat' split
  all_goals simp

@[simp] theorem progStart_kept (row : Nat) (force : Bool) (s : State) : kept (progStart row force s) = kept s := by
  unfold progStart; (try dsimp only); repeat' split
  all_goals simp

@[simp] theorem progFailed_kept (code : Nat) (s : State) : kept (progFailed code s) = kept s := by
  unfold progFailed
  all_goals simp

@[simp] theorem progGood_kept (code row : Nat) (s : State) : kept (progGood code row s) = kept s := by
  unfold progGood; (try dsimp only); repeat' split
  all_goals simp

@[simp] theorem tchOverride_kept (row : Nat) (s : State) : kept (tchOverride row s) = kept s := by
  unfold tchOverride; repeat' split
  all_goals simp

@[simp] theorem tchClearOvr_kept (row : Nat) (s : State) : kept (tchClearOvr row s) = kept s := by
  unfold tchClearOvr; (try dsimp only); repeat' split
  all_goals simp

@[simp] theorem tchTraffic_kept (s : State) : kept (tchTraffic s) = kept s := by
  unfold tchTraffic
  all_goals simp

@[simp] theorem tchCommand_kept (v : Word32) (s : State) : kept (tchCommand v s) = kept s := by
  unfold tchCommand; (try dsimp only); repeat' split
  all_goals simp

@[simp] theorem calLoad1_kept (c : CalItem) (i : Nat) (s : State) : kept (calLoad1 c i s) = kept s := by
  unfold calLoad1; (try dsimp only)
  all_goals simp

@[simp] theorem calNote1_kept (c : CalItem) (i : Nat) (s : State) : kept (calNote1 c i s) = kept s := by
  unfold calNote1
  all_goals simp

@[simp] theorem calNote_kept (s : State) : kept (calNote s) = kept s := by
  unfold calNote
  all_goals simp

@[simp] theorem calLoad_kept (want : Nat → Nat → Bool) (s : State) : kept (calLoad want s) = kept s := by
  unfold calLoad; (try dsimp only)
  all_goals simp

@[simp] theorem calTileReload_kept (p : Nat) (s : State) : kept (calTileReload p s) = kept s := by
  unfold calTileReload; repeat' split
  all_goals simp

@[simp] theorem setStage_kept (id : CmdId) (g : CmdStage) (s : State) : kept (setStage id g s) = kept s := by
  unfold setStage; (try dsimp only)
  all_goals simp

@[simp] theorem finishCmd_kept (id : CmdId) (c : Cpl) (s : State) : kept (finishCmd id c s) = kept s := by
  unfold finishCmd
  all_goals simp

@[simp] theorem finishCode_kept (id : CmdId) (code : Nat) (s : State) : kept (finishCode id code s) = kept s := by
  unfold finishCode
  all_goals simp

@[simp] theorem mbxWrite_kept (off : Nat) (l : List Byte) (s : State) : kept (mbxWrite off l s) = kept s := by
  induction l generalizing off s with
  | nil => rfl
  | cons b t ih => unfold mbxWrite; simp [ih]

@[simp] theorem mbxPort_kept (k : Nat) (s : State) : kept (mbxPort k s).2 = kept s := by
  induction k generalizing s with
  | zero => rfl
  | succ k ih =>
    unfold mbxPort; dsimp only; split
    all_goals simp [ih]

@[simp] theorem takeData_kept (c : Cmd) (dma : Bool) (given : List Byte) (s : State) : kept (takeData c dma given s).2 = kept s := by
  unfold takeData; split
  · exact mbxPort_kept _ _
  · rfl

@[simp] theorem dmaError_kept (id : CmdId) (s : State) : kept (dmaError id s) = kept s := by
  unfold dmaError
  all_goals simp

@[simp] theorem updSto_kept (f : Sto → Sto) (s : State) (h1 : (f s.sto).mem = s.sto.mem) (h2 : (f s.sto).map = s.sto.map) (h3 : (f s.sto).snaps.map (Option.map MapSnap.map) = s.sto.snaps.map (Option.map MapSnap.map)) :
    kept (updSto f s) = kept s := by
  simp [updSto, kept, *]

@[simp] theorem noteBanks_snaps (t : Sto) : (noteBanks t).snaps.map (Option.map MapSnap.map) = t.snaps.map (Option.map MapSnap.map) := by
  apply Vector.ext; intro i hi
  have : i = 0 ∨ i = 1 := by omega
  rcases this with rfl | rfl <;> simp [noteBanks, vGet, Function.comp_def]

@[simp] theorem noteBanks_mem (t : Sto) : (noteBanks t).mem = t.mem := rfl
@[simp] theorem noteBanks_map (t : Sto) : (noteBanks t).map = t.map := rfl

@[simp] theorem isolateBank_kept (b : Nat) (s : State) : kept (isolateBank b s) = kept s := by
  unfold isolateBank; dsimp only
  split
  all_goals refine (report0_kept _ _ _).trans ((updSto_kept _ _ rfl rfl ?_).trans ?_)
  · exact noteBanks_snaps _
  · simp
  · exact noteBanks_snaps _
  · simp

@[simp] theorem wordFailed_kept (p : Nat) (s : State) : kept (wordFailed p s) = kept s := by
  unfold wordFailed; split
  · rw [report_kept]; exact updSto_kept (fun t => { t with poison := t.poison ++ [p / 16] }) s rfl rfl rfl
  · simp

@[simp] theorem readWordPhys_kept (p : Nat) (w : WordCheck) (s : State) : kept (readWordPhys p w s).2 = kept s := by
  unfold readWordPhys; (try dsimp only); repeat' split
  all_goals simp

@[simp] theorem readWords_kept (fs : List (Nat × WordCheck)) (k a : Nat) (s : State) : kept (readWords fs k a s).2 = kept s := by
  induction k generalizing a s with
  | zero => rfl
  | succ k ih =>
    unfold readWords; dsimp only
    all_goals simp [ih]

@[simp] theorem readCpl_kept (fs : List (Nat × WordCheck)) (a n : Nat) (s : State) : kept (readCpl fs a n s).2 = kept s := by
  unfold readCpl; (try dsimp only); repeat' split
  all_goals simp

@[simp] theorem idleCycle_kept (s : State) : kept (idleCycle s) = kept s := by
  unfold idleCycle; dsimp only; split
  · refine (updSto_kept _ _ ?_ ?_ ?_).trans (clockCycle_kept s) <;> unfold migrTick <;> split <;> first | rfl | exact noteBanks_snaps _
  · simp

@[simp] theorem wakeFlushes_kept (s : State) : kept (wakeFlushes s) = kept s := by
  unfold wakeFlushes; (try dsimp only)
  all_goals simp

@[simp] theorem readLine_kept (fs : List (Nat × WordCheck)) (p : Nat) (s : State) : kept (readLine fs p s) = kept s := by
  unfold readLine
  all_goals simp

@[simp] theorem stoCntClr_kept (s : State) : kept (stoCntClr s) = kept s := by
  unfold stoCntClr
  all_goals simp

@[simp] theorem readItem_kept (a n : Nat) (s : State) : kept (readItem a n s).2 = kept s := by
  unfold readItem; (try dsimp only); repeat' split
  all_goals simp

@[simp] theorem noteVerified_kept (k a len : Nat) (s : State) : kept (noteVerified k a len s) = kept s := by
  unfold noteVerified; (try dsimp only)
  all_goals simp

@[simp] theorem readImage_kept (a : Nat) (magic : List Byte) (lenOff maxLen : Nat) (s : State) : kept (readImage a magic lenOff maxLen s).2 = kept s := by
  unfold readImage; (try dsimp only); repeat' split
  all_goals simp

@[simp] theorem updHmk_kept (f : Hmk → Hmk) (s : State) : kept (updHmk f s) = kept s := by
  unfold updHmk
  all_goals simp

@[simp] theorem hmkSelf_kept (s : State) : kept (hmkSelf s) = kept s := by
  unfold hmkSelf
  all_goals simp

@[simp] theorem hmkReject_kept (reason obj copy slot : Nat) (s : State) : kept (hmkReject reason obj copy slot s) = kept s := by
  unfold hmkReject
  all_goals simp

@[simp] theorem katRun_kept (pass : Bool) (s : State) : kept (katRun pass s) = kept s := by
  unfold katRun; (try dsimp only); repeat' split
  all_goals simp

@[simp] theorem verifySig_kept (obj copy slot : Nat) (pk msg sig : List Byte) (s : State) : kept (verifySig obj copy slot pk msg sig s).2 = kept s := by
  unfold verifySig; (try dsimp only); repeat' split
  all_goals simp

@[simp] theorem verifyOwner_kept (obj copy slot : Nat) (img : List Byte) (s : State) : kept (verifyOwner obj copy slot img s).2 = kept s := by
  unfold verifyOwner; repeat' split
  all_goals simp

@[simp] theorem takeSlot_kept (r0 r1 : Option (List Byte)) (k : Nat) (s : State) : kept (takeSlot r0 r1 k s) = kept s := by
  unfold takeSlot; (try dsimp only); repeat' split
  all_goals simp

@[simp] theorem takeKeys_kept (s : State) : kept (takeKeys s) = kept s := by
  unfold takeKeys; (try dsimp only)
  all_goals simp

@[simp] theorem takeRoot_kept (s : State) : kept (takeRoot s) = kept s := by
  unfold takeRoot; repeat' split
  all_goals simp

@[simp] theorem takeIdentity_kept (s : State) : kept (takeIdentity s) = kept s := by
  unfold takeIdentity; (try dsimp only); repeat' split
  all_goals simp

@[simp] theorem checkCert_kept (role copy slot : Nat) (c : List Byte) (s : State) : kept (checkCert role copy slot c s).2 = kept s := by
  unfold checkCert; (try dsimp only); repeat' split
  all_goals simp

@[simp] theorem setMeas_kept (i : Nat) (h : List Byte) (s : State) : kept (setMeas i h s) = kept s := by
  unfold setMeas
  all_goals simp

@[simp] theorem checkPatch_kept (copy : Nat) (s : State) : kept (checkPatch copy s).2.2 = kept s := by
  unfold checkPatch; (try dsimp only); repeat' split
  all_goals simp

@[simp] theorem takePatch_kept (s : State) : kept (takePatch s) = kept s := by
  unfold takePatch; (try dsimp only); repeat' split
  all_goals simp

@[simp] theorem attBegin_kept (s : State) : kept (attBegin s) = kept s := by
  unfold attBegin; repeat' split
  all_goals simp

@[simp] theorem attEnd_kept (id : CmdId) (c : Cpl) (s : State) : kept (attEnd id c s) = kept s := by
  unfold attEnd
  all_goals simp

@[simp] theorem measSel_kept (v : Word32) (s : State) : kept (measSel v s) = kept s := by
  unfold measSel; (try dsimp only); repeat' split
  all_goals simp

@[simp] theorem hmkCntClr_kept (s : State) : kept (hmkCntClr s) = kept s := by
  unfold hmkCntClr
  all_goals simp

@[simp] theorem updJrn_kept (f : Jrn → Jrn) (s : State) : kept (updJrn f s) = kept s := by
  unfold updJrn
  all_goals simp

@[simp] theorem judgeCredit_kept (s : State) : kept (judgeCredit s) = kept s := by
  unfold judgeCredit; (try dsimp only); repeat' split
  all_goals simp

@[simp] theorem judgeCover_kept (s : State) : kept (judgeCover s) = kept s := by
  unfold judgeCover; (try dsimp only)
  all_goals simp

@[simp] theorem recompute_kept (s : State) : kept (recompute s) = kept s := by
  unfold recompute; (try dsimp only); repeat' split
  all_goals simp

@[simp] theorem chargerOn_kept (s : State) : kept (chargerOn s) = kept s := by
  unfold chargerOn; (try dsimp only)
  all_goals simp

@[simp] theorem chargerOff_kept (s : State) : kept (chargerOff s) = kept s := by
  unfold chargerOff; (try dsimp only)
  all_goals simp

@[simp] theorem measDue_kept (s : State) : kept (measDue s) = kept s := by
  unfold measDue; (try dsimp only); repeat' split
  all_goals simp

@[simp] theorem measNow_kept (s : State) : kept (measNow s) = kept s := by
  unfold measNow
  all_goals simp

@[simp] theorem measFail_kept (s : State) : kept (measFail s) = kept s := by
  unfold measFail
  all_goals simp

@[simp] theorem gapRecord_kept (s : State) : kept (gapRecord s) = kept s := by
  unfold gapRecord; (try dsimp only); repeat' split
  all_goals simp

@[simp] theorem dropRecord_kept (src : CmdSrc) (b : Nat) (s : State) : kept (dropRecord src b s) = kept s := by
  unfold dropRecord; (try dsimp only); repeat' split
  all_goals simp

@[simp] theorem admitHost_kept (id : CmdId) (lossy : Bool) (r : Rec) (s : State) : kept (admitHost id lossy r s) = kept s := by
  unfold admitHost; (try dsimp only); repeat' split
  all_goals simp

@[simp] theorem giveSeq_kept (b : BufRec) (s : State) : kept (giveSeq b s) = kept s := by
  unfold giveSeq; (try dsimp only); repeat' split
  all_goals simp

@[simp] theorem giveSeqs_kept (l : List BufRec) (s : State) : kept (giveSeqs l s) = kept s := by
  induction l generalizing s with
  | nil => simp [giveSeqs]
  | cons b t ih => unfold giveSeqs; split <;> simp [ih]

@[simp] theorem floorCheck_kept (s : State) : kept (floorCheck s) = kept s := by
  unfold floorCheck; repeat' split
  all_goals simp

@[simp] theorem ringRead_kept (g : Ring) (fs : List (Nat × WordCheck)) (k p : Nat) (s : State) : kept (ringRead g fs k p s).2 = kept s := by
  induction k generalizing p s with
  | zero => rfl
  | succ k ih =>
    unfold ringRead; dsimp only
    all_goals simp [ih]

@[simp] theorem ringPoison_kept (g : Ring) (p : Nat) (s : State) : kept (ringPoison g p s) = kept s := by
  unfold ringPoison; apply updSto_kept <;> (dsimp only; split <;> rfl)

@[simp] theorem advanceOldest_kept (g : Ring) (k : Nat) (s : State) : kept (advanceOldest g k s) = kept s := by
  unfold advanceOldest; (try dsimp only); repeat' split
  all_goals simp

@[simp] theorem newestAnchor_kept (g : Ring) (fs : List (Nat × WordCheck)) (s : State) : kept (newestAnchor g fs s).2 = kept s := by
  unfold newestAnchor
  exact kept_foldl_snd _ (fun acc i => kept_pair _ _ _ (readWords_kept _ _ _ _)) _ _

@[simp] theorem drainWords_kept (g : Ring) (ws : List (Nat × WordCheck)) (k i p : Nat) (s : State) : kept (drainWords g ws k i p s) = kept s := by
  induction k generalizing i p s with
  | zero => rfl
  | succ k ih => unfold drainWords; dsimp only; rw [ih]; repeat' split
                 all_goals simp

@[simp] theorem sealMark_kept (s : State) : kept (sealMark s) = kept s := by
  unfold sealMark; repeat' split
  all_goals simp

@[simp] theorem deliverOne_kept (g : Ring) (fs : List (Nat × WordCheck)) (p : Nat) (s : State) : kept (deliverOne g fs p s).2 = kept s := by
  unfold deliverOne
  exact kept_ite_pair _ _ _ _ (kept_pair _ _ _ (ringRead_kept _ _ _ _ _)) (kept_pair _ _ _ ((ringRead_kept _ _ _ _ _).trans (ringRead_kept _ _ _ _ _)))

@[simp] theorem deliverUp_kept (g : Ring) (fs : List (Nat × WordCheck)) (m k p n : Nat) (acc : List Byte) (s : State) : kept (deliverUp g fs m k p n acc s).2 = kept s := by
  induction k generalizing p n acc s with
  | zero => rfl
  | succ k ih =>
    unfold deliverUp; dsimp only; repeat' split
    all_goals simp [ih]

@[simp] theorem journalCpl_kept (fs : List (Nat × WordCheck)) (start maxBytes : Nat) (s : State) : kept (journalCpl fs start maxBytes s).2 = kept s := by
  unfold journalCpl; (try dsimp only); repeat' split
  all_goals simp

@[simp] theorem endWaiting_kept (s : State) : kept (endWaiting s) = kept s := by
  unfold endWaiting; (try dsimp only)
  all_goals simp

@[simp] theorem walkRecord_kept (g : Ring) (fs : List (Nat × WordCheck)) (w : Walk) (w0 : List Byte) (s : State) : kept (walkRecord g fs w w0 s).2 = kept s := by
  unfold walkRecord
  exact kept_ite_pair _ _ _ _ (kept_pair _ _ _ (ringRead_kept _ _ _ _ _)) (kept_ite_pair _ _ _ _ (kept_pair _ _ _ (ringRead_kept _ _ _ _ _))
    (kept_pair _ _ _ ((ringRead_kept _ _ _ _ _).trans (ringRead_kept _ _ _ _ _))))

@[simp] theorem walkStep_kept (g : Ring) (fs : List (Nat × WordCheck)) (w : Walk) (s : State) : kept (walkStep g fs w s).2 = kept s := by
  unfold walkStep
  exact kept_ite_pair _ _ _ _ (kept_pair _ _ _ (ringRead_kept _ _ _ _ _)) (kept_ite_pair _ _ _ _ ((walkRecord_kept _ _ _ _ _).trans (ringRead_kept _ _ _ _ _))
    (kept_ite_pair _ _ _ _ (kept_pair _ _ _ (ringRead_kept _ _ _ _ _)) (kept_pair _ _ _ (ringRead_kept _ _ _ _ _))))

@[simp] theorem walk_kept (g : Ring) (fs : List (Nat × WordCheck)) (k : Nat) (w : Walk) (s : State) : kept (walk g fs k w s).2 = kept s := by
  induction k generalizing w s with
  | zero => rfl
  | succ k ih =>
    rw [walk]
    exact kept_ite_pair _ _ _ _ ((ih _ _).trans (walkStep_kept _ _ _ _)) (kept_pair _ _ _ (walkStep_kept _ _ _ _))

@[simp] theorem directRecord_kept (cls : Nat) (payload : List Byte) (s : State) : kept (directRecord cls payload s) = kept s := by
  unfold directRecord; (try dsimp only)
  all_goals simp

@[simp] theorem provisionalFrom_kept (c esr : Nat) (s : State) : kept (provisionalFrom c esr s) = kept s := by
  unfold provisionalFrom; repeat' split
  all_goals simp

@[simp] theorem handOver_kept (s : State) : kept (handOver s) = kept s := by
  refine (kept_foldl_snd _ (fun acc e => ?_) _ _).trans rfl
  dsimp only; split
  · rfl
  · exact faultRecord_kept _ _

@[simp] theorem sealWatchWrite_kept (iface : Iface) (hi : Bool) (v : Word32) (s : State) : kept (sealWatchWrite iface hi v s) = kept s := by
  unfold sealWatchWrite; (try dsimp only); repeat' split
  all_goals simp

@[simp] theorem jrnCntClr_kept (s : State) : kept (jrnCntClr s) = kept s := by
  unfold jrnCntClr
  all_goals simp

@[simp] theorem updLmn_kept (f : Lmn → Lmn) (s : State) : kept (updLmn f s) = kept s := by
  unfold updLmn
  all_goals simp

@[simp] theorem wakeAssert_kept (at_ : Nat) (test : Bool) (s : State) : kept (wakeAssert at_ test s) = kept s := by
  unfold wakeAssert; repeat' split
  all_goals simp

@[simp] theorem lmnApply_kept (w : LmnWrite) (s : State) : kept (lmnApply w s) = kept s := by
  unfold lmnApply; repeat' split
  all_goals simp

@[simp] theorem lmnWrite_kept (iface : Iface) (off : Nat) (v : Word32) (s : State) : kept (lmnWrite iface off v s) = kept s := by
  unfold lmnWrite; repeat' split
  all_goals simp

@[simp] theorem logBackground_kept (chk : WordCheck) (s : State) : kept (logBackground chk s) = kept s := by
  unfold logBackground; (try dsimp only); repeat' split
  all_goals simp

@[simp] theorem logWrite_kept (start changed woke : Nat) (s : State) : kept (logWrite start changed woke s) = kept s := by
  unfold logWrite; (try dsimp only); repeat' split
  all_goals simp

@[simp] theorem mergeEntry_kept (e : LmnEntry) (s : State) : kept (mergeEntry e s) = kept s := by
  unfold mergeEntry; (try dsimp only); repeat' split
  all_goals simp

@[simp] theorem lmnMerge_kept (s : State) : kept (lmnMerge s) = kept s := by
  unfold lmnMerge; (try dsimp only); repeat' split
  all_goals simp

@[simp] theorem entrySelect_kept (age : BitVec 8) (s : State) : kept (entrySelect age s) = kept s := by
  unfold entrySelect; (try dsimp only); repeat' split
  all_goals simp

@[simp] theorem lmnCalLoad_kept (s : State) : kept (lmnCalLoad s) = kept s := by
  unfold lmnCalLoad
  all_goals simp

@[simp] theorem updCrc_kept (n : Nat) (f : CrcUnit → CrcUnit) (s : State) : kept (updCrc n f s) = kept s := by
  unfold updCrc
  all_goals simp

@[simp] theorem crcStart_kept (n : Nat) (s : State) : kept (crcStart n s) = kept s := by
  unfold crcStart
  all_goals simp

@[simp] theorem crcRegWrite_kept (iface : Iface) (n off : Nat) (v : Word32) (s : State) : kept (crcRegWrite iface n off v s) = kept s := by
  unfold crcRegWrite; (try dsimp only); repeat' split
  all_goals simp

@[simp] theorem crcWords_kept (n : Nat) (fs : List (Nat × WordCheck)) (k a : Nat) (c : CrcRun) (s : State) : kept (crcWords n fs k a c s).2 = kept s := by
  induction k generalizing a c s with
  | zero => rfl
  | succ k ih =>
    unfold crcWords; dsimp only; repeat' split
    all_goals simp [ih]

@[simp] theorem crcCheck_kept (n k a : Nat) (s : State) : kept (crcCheck n k a s) = kept s := by
  unfold crcCheck; repeat' split
  all_goals simp

@[simp] theorem loaderEnd_kept (code : Nat) (s : State) : kept (loaderEnd code s) = kept s := by
  unfold loaderEnd; (try dsimp only); repeat' split
  all_goals simp

@[simp] theorem modeReqWrite_kept (v : Word32) (s : State) : kept (modeReqWrite v s) = kept s := by
  unfold modeReqWrite; (try dsimp only); repeat' split
  all_goals simp

@[simp] theorem settleCauses_kept (s : State) : kept (settleCauses s) = kept s := by
  unfold settleCauses; (try dsimp only); repeat' split
  all_goals simp

@[simp] theorem scanHalt_kept (s : State) : kept (scanHalt s) = kept s := by
  unfold scanHalt; (try dsimp only); repeat' split
  all_goals simp

@[simp] theorem modeDone_kept (m : Mode) (s : State) : kept (modeDone m s) = kept s := by
  unfold modeDone; (try dsimp only)
  all_goals simp

@[simp] theorem enterIncomplete_kept (s : State) : kept (enterIncomplete s) = kept s := by
  unfold enterIncomplete
  all_goals simp

@[simp] theorem takeRequest_kept (s : State) : kept (takeRequest s) = kept s := by
  unfold takeRequest; (try dsimp only); repeat' split
  all_goals simp

@[simp] theorem takeModes_kept (s : State) : kept (takeModes s) = kept s := by
  unfold takeModes; repeat' split
  all_goals simp

@[simp] theorem setLinkCfg_kept (p n : Nat) (v : Word32) (s : State) : kept (setLinkCfg p n v s) = kept s := by
  unfold setLinkCfg
  all_goals simp

@[simp] theorem claimFailed_kept (f : ClaimFail) (s : State) : kept (claimFailed f s) = kept s := by
  unfold claimFailed; (try dsimp only)
  all_goals simp

@[simp] theorem hclaimWrite_kept (v : Word32) (busy : Bool) (s : State) : kept (hclaimWrite v busy s) = kept s := by
  unfold hclaimWrite; (try dsimp only); repeat' split
  all_goals simp

@[simp] theorem updIlkl_kept (f : Ilkl → Ilkl) (s : State) : kept (updIlkl f s) = kept s := by
  unfold updIlkl
  all_goals simp

@[simp] theorem injectedReads_kept (fuel corr unc page : Nat) (s : State) : kept (injectedReads fuel corr unc page s).2 = kept s := by
  induction fuel generalizing s with
  | zero => rfl
  | succ fuel ih =>
    unfold injectedReads; dsimp only; repeat' split
    all_goals simp [ih]

@[simp] theorem checkTable_kept (l : List Byte) (s : State) : kept (checkTable l s).2 = kept s := by
  unfold checkTable; repeat' split
  all_goals simp

@[simp] theorem runChecks_kept (copy : Nat) (s : State) : kept (runChecks copy s).2 = kept s := by
  unfold runChecks; (try dsimp only); repeat' split
  all_goals simp

@[simp] theorem checkCopy_kept (copy : Nat) (s : State) : kept (checkCopy copy s).2 = kept s := by
  unfold checkCopy; (try dsimp only); repeat' split
  all_goals simp

@[simp] theorem writePinMap_kept (t : Table) (s : State) : kept (writePinMap t s) = kept s := by
  unfold writePinMap; (try dsimp only)
  all_goals simp

@[simp] theorem installTable_kept (t : Table) (copy : Nat) (s : State) : kept (installTable t copy s) = kept s := by
  unfold installTable; (try dsimp only)
  all_goals simp

@[simp] theorem removeTable_kept (s : State) : kept (removeTable s) = kept s := by
  unfold removeTable; (try dsimp only)
  all_goals simp

@[simp] theorem restoreTable_kept (s : State) : kept (restoreTable s) = kept s := by
  unfold restoreTable; (try dsimp only); repeat' split
  all_goals simp

@[simp] theorem startSync_kept (s : State) : kept (startSync s) = kept s := by
  unfold startSync; repeat' split
  all_goals simp

@[simp] theorem installChosen_kept (readBack : Bool) (r0 : CopyCheck) (r1 : CopyCheck) (pick : Option (Nat × Table)) (s : State) : kept (installChosen readBack r0 r1 pick s) = kept s := by
  unfold installChosen; repeat' split
  all_goals simp

@[simp] theorem startupInstall_kept (readBack : Bool) (s : State) : kept (startupInstall readBack s) = kept s := by
  unfold startupInstall; (try dsimp only); repeat' split
  all_goals simp

@[simp] theorem reinstallActive_kept (readBack : Bool) (s : State) : kept (reinstallActive readBack s) = kept s := by
  unfold reinstallActive; repeat' split
  all_goals simp

@[simp] theorem clearLatch_kept (s : State) : kept (clearLatch s) = kept s := by
  unfold clearLatch; (try dsimp only)
  all_goals simp

@[simp] theorem clearTripNow_kept (s : State) : kept (clearTripNow s) = kept s := by
  unfold clearTripNow; (try dsimp only); repeat' split
  all_goals simp

@[simp] theorem loaderChecks_kept (op copy : Nat) (s : State) : kept (loaderChecks op copy s) = kept s := by
  unfold loaderChecks; (try dsimp only); repeat' split
  all_goals simp

@[simp] theorem loaderCmd_kept (v : Word32) (s : State) : kept (loaderCmd v s) = kept s := by
  unfold loaderCmd; (try dsimp only); repeat' split
  all_goals simp

@[simp] theorem ptCheck_kept (copy : Nat) (s : State) : kept (ptCheck copy s).2 = kept s := by
  unfold ptCheck; (try dsimp only); repeat' split
  all_goals simp

@[simp] theorem ptSelect_kept (s : State) : kept (ptSelect s) = kept s := by
  unfold ptSelect; (try dsimp only); repeat' split
  all_goals simp

@[simp] theorem ptCmdWrite_kept (v : Word32) (s : State) : kept (ptCmdWrite v s) = kept s := by
  unfold ptCmdWrite; dsimp only; split
  · rw [evt_kept]; exact (updSto_kept _ _ rfl rfl rfl).trans (updSto_kept _ _ rfl rfl rfl)
  · rw [evt_kept]; exact (updSto_kept _ _ rfl rfl rfl).trans ((ptCheck_kept _ _).trans (updSto_kept _ _ rfl rfl rfl))

@[simp] theorem updBoot_kept (f : Boot → Boot) (s : State) : kept (updBoot f s) = kept s := by
  unfold updBoot
  all_goals simp

@[simp] theorem takeRecord_kept (s : State) : kept (takeRecord s) = kept s := by
  unfold takeRecord; (try dsimp only); repeat' split
  all_goals simp

@[simp] theorem checkManifest_kept (slot : Bool) (s : State) : kept (checkManifest slot s).2 = kept s := by
  unfold checkManifest; (try dsimp only); repeat' split
  all_goals simp

@[simp] theorem trySlot_kept (slot : Bool) (s : State) : kept (trySlot slot s).2 = kept s := by
  unfold trySlot; (try dsimp only); repeat' split
  all_goals simp

@[simp] theorem chooseSlot_kept (slot trial : Bool) (m : Manifest) (s : State) : kept (chooseSlot slot trial m s) = kept s := by
  unfold chooseSlot
  all_goals simp

@[simp] theorem rearmWindow_kept (s : State) : kept (rearmWindow s) = kept s := by
  unfold rearmWindow; repeat' split
  all_goals simp

@[simp] theorem releaseWindow_kept (s : State) : kept (releaseWindow s) = kept s := by
  unfold releaseWindow; repeat' split
  all_goals simp

@[simp] theorem bootCtrlWrite_kept (v : Word32) (s : State) : kept (bootCtrlWrite v s) = kept s := by
  unfold bootCtrlWrite; repeat' split
  all_goals simp

@[simp] theorem missChunk_kept (n : Nat) (s : State) : kept (missChunk n s) = kept s := by
  unfold missChunk
  all_goals simp

@[simp] theorem chunkBytes_kept (w : WordCheck) (addr k : Nat) (s : State) : kept (chunkBytes w addr k s).2 = kept s := by
  unfold chunkBytes; (try dsimp only); repeat' split
  all_goals simp

@[simp] theorem windowRead_kept (w : WordCheck) (fuel addr k : Nat) (s : State) : kept (windowRead w fuel addr k s).2 = kept s := by
  induction fuel generalizing addr k s with
  | zero => rfl
  | succ fuel ih =>
    unfold windowRead; dsimp only; repeat' split
    all_goals simp [ih]

@[simp] theorem xspiAnswer_kept (bs : Option (List Byte)) (s : State) : kept (xspiAnswer bs s) = kept s := by
  unfold xspiAnswer; repeat' split
  all_goals simp

@[simp] theorem xspiRead_kept (w : WordCheck) (addr : Word32) (k : Nat) (s : State) : kept (xspiRead w addr k s) = kept s := by
  unfold xspiRead; (try dsimp only); repeat' split
  all_goals simp

@[simp] theorem bootRefuse_kept (code : Nat) (s : State) : kept (bootRefuse code s) = kept s := by
  unfold bootRefuse
  all_goals simp

@[simp] theorem bootStart_kept (r : BootRec) (s : State) : kept (bootStart r s) = kept s := by
  unfold bootStart
  all_goals simp

@[simp] theorem bootCmdWrite_kept (v : Word32) (s : State) : kept (bootCmdWrite v s) = kept s := by
  unfold bootCmdWrite; (try dsimp only); repeat' split
  all_goals simp

@[simp] theorem updSq_kept (q : Nat) (f : Sq → Sq) (s : State) : kept (updSq q f s) = kept s := by
  unfold updSq; (try dsimp only)
  all_goals simp

@[simp] theorem queueError_kept (q code : Nat) (s : State) : kept (queueError q code s) = kept s := by
  unfold queueError
  all_goals simp

@[simp] theorem queueStart_kept (q : Nat) (s : State) : kept (queueStart q s) = kept s := by
  unfold queueStart
  all_goals simp

@[simp] theorem queueEn_kept (q : Nat) (en : Bool) (s : State) : kept (queueEn q en s) = kept s := by
  unfold queueEn; (try dsimp only); repeat' split
  all_goals simp

@[simp] theorem sqTailWrite_kept (q : Nat) (v : BitVec 12) (s : State) : kept (sqTailWrite q v s) = kept s := by
  unfold sqTailWrite; (try dsimp only); repeat' split
  all_goals simp

@[simp] theorem cqHeadWrite_kept (q : Nat) (v : BitVec 12) (s : State) : kept (cqHeadWrite q v s) = kept s := by
  unfold cqHeadWrite; (try dsimp only); repeat' split
  all_goals simp

@[simp] theorem queueRegWrite_kept (iface : Iface) (q r off : Nat) (v : Word32) (s : State) : kept (queueRegWrite iface q r off v s) = kept s := by
  unfold queueRegWrite; (try dsimp only); repeat' split
  all_goals simp

@[simp] theorem queueMessage_kept (q : Nat) (s : State) : kept (queueMessage q s) = kept s := by
  unfold queueMessage; (try dsimp only)
  all_goals simp

@[simp] theorem postQueue_kept (q : Nat) (d : Desc) (cid : BitVec 16) (c : Cpl) (s : State) : kept (postQueue q d cid c s) = kept s := by
  unfold postQueue; (try dsimp only); repeat' split
  all_goals simp

@[simp] theorem postMbx_kept (d : Desc) (cid : BitVec 16) (c : Cpl) (s : State) : kept (postMbx d cid c s) = kept s := by
  unfold postMbx; (try dsimp only)
  all_goals simp

@[simp] theorem evtAck_kept (v : Word32) (s : State) : kept (evtAck v s) = kept s := by
  unfold evtAck; repeat' split
  all_goals simp

@[simp] theorem mbxGo_kept (iface : Iface) (v : Word32) (s : State) : kept (mbxGo iface v s) = kept s := by
  unfold mbxGo; (try dsimp only); repeat' split
  all_goals simp

@[simp] theorem pcieCntClr_kept (s : State) : kept (pcieCntClr s) = kept s := by
  unfold pcieCntClr; (try dsimp only)
  all_goals simp

@[simp] theorem msixWrite_kept (v w : Nat) (x : Word32) (s : State) : kept (msixWrite v w x s) = kept s := by
  unfold msixWrite; (try dsimp only); repeat' split
  all_goals simp

@[simp] theorem pcieRegWrite_kept (iface : Iface) (off : Nat) (v : Word32) (s : State) : kept (pcieRegWrite iface off v s) = kept s := by
  unfold pcieRegWrite; (try dsimp only); repeat' split
  all_goals simp

@[simp] theorem updPwr_kept (f : Pwr → Pwr) (s : State) : kept (updPwr f s) = kept s := by
  unfold updPwr
  all_goals simp

@[simp] theorem setFeed_kept (b : Bool) (f : FeedSt) (s : State) : kept (setFeed b f s) = kept s := by
  unfold setFeed; repeat' split
  all_goals simp

@[simp] theorem setFeedV_kept (b : Bool) (v : BitVec 12) (s : State) : kept (setFeedV b v s) = kept s := by
  unfold setFeedV; repeat' split
  all_goals simp

@[simp] theorem chargeFollow_kept (s : State) : kept (chargeFollow s) = kept s := by
  unfold chargeFollow; repeat' split
  all_goals simp

@[simp] theorem feedFails_kept (b : Bool) (gap : Nat) (s : State) : kept (feedFails b gap s) = kept s := by
  unfold feedFails; (try dsimp only); repeat' split
  all_goals simp

@[simp] theorem feedSwap_kept (s : State) : kept (feedSwap s) = kept s := by
  unfold feedSwap; (try dsimp only)
  all_goals simp

@[simp] theorem feedUntrust_kept (b : Bool) (s : State) : kept (feedUntrust b s) = kept s := by
  unfold feedUntrust; (try dsimp only); repeat' split
  all_goals simp

@[simp] theorem pwrEnd_kept (code : Nat) (s : State) : kept (pwrEnd code s) = kept s := by
  unfold pwrEnd; repeat' split
  all_goals simp

@[simp] theorem pwrCmd_kept (v : Word32) (s : State) : kept (pwrCmd v s) = kept s := by
  unfold pwrCmd; (try dsimp only); repeat' split
  all_goals simp

@[simp] theorem pwrCntClr_kept (s : State) : kept (pwrCntClr s) = kept s := by
  unfold pwrCntClr
  all_goals simp

@[simp] theorem setRail_kept (r : Nat) (mv : Nat) (s : State) : kept (setRail r mv s) = kept s := by
  unfold setRail; (try dsimp only); repeat' split
  all_goals simp

@[simp] theorem updDhd_kept (f : Dhd → Dhd) (s : State) : kept (updDhd f s) = kept s := by
  unfold updDhd
  all_goals simp

@[simp] theorem updTab_kept (f : Tab → Tab) (s : State) : kept (updTab f s) = kept s := by
  unfold updTab
  all_goals simp

@[simp] theorem wdogRefresh_kept (s : State) : kept (wdogRefresh s) = kept s := by
  unfold wdogRefresh; repeat' split
  all_goals simp

@[simp] theorem releaseOut_kept (s : State) (o : PairOut) : kept (releaseOut s o) = kept s := by
  unfold releaseOut; repeat' split
  all_goals simp

@[simp] theorem rendezvousRead_kept (r : PairRead) (s : State) : kept (rendezvousRead r s) = kept s := by
  unfold rendezvousRead; repeat' split
  all_goals simp

@[simp] theorem pairMismatch_kept (g : Nat) (a : BitVec 16) (b : BitVec 16) (pinj : Bool) (s : State) : kept (pairMismatch g a b pinj s) = kept s := by
  unfold pairMismatch
  all_goals simp

@[simp] theorem superviseReads_kept (s : State) : kept (superviseReads s) = kept s := by
  unfold superviseReads
  all_goals simp

@[simp] theorem pinjNext_kept (s : State) : kept (pinjNext s) = kept s := by
  unfold pinjNext; repeat' split
  all_goals simp

@[simp] theorem mismClr_kept (s : State) : kept (mismClr s) = kept s := by
  unfold mismClr; repeat' split
  all_goals simp

@[simp] theorem tickClr_kept (s : State) : kept (tickClr s) = kept s := by
  unfold tickClr
  all_goals simp

@[simp] theorem tabCntClr_kept (s : State) : kept (tabCntClr s) = kept s := by
  unfold tabCntClr
  all_goals simp

@[simp] theorem tickTrip_kept (s : State) : kept (tickTrip s) = kept s := by
  unfold tickTrip
  all_goals simp

@[simp] theorem tickPulse_kept (i : Nat) (s : State) : kept (tickPulse i s) = kept s := by
  unfold tickPulse; (try dsimp only); repeat' split
  all_goals simp

@[simp] theorem exchangeTrip_kept (src : Chan) (reason : Nat) (word : Nat) (chans : Nat) (p : Nat) (same : Bool) (s : State) : kept (exchangeTrip src reason word chans p same s) = kept s := by
  unfold exchangeTrip; (try dsimp only)
  all_goals simp

@[simp] theorem stopChans_kept (chans : Nat) (s : State) : kept (stopChans chans s) = kept s := by
  unfold stopChans
  all_goals simp

@[simp] theorem dirFail_kept (src : Chan) (reason : Nat) (word : Nat) (same : Bool) (s : State) : kept (dirFail src reason word same s) = kept s := by
  unfold dirFail; repeat' split
  all_goals simp

@[simp] theorem memCorr_kept (c : Chan) (w : Nat) (r : ReadOut) (s : State) : kept (memCorr c w r s) = kept s := by
  unfold memCorr
  all_goals simp

@[simp] theorem inboundReads_kept (c : Chan) (l : List (Nat × WordCheck)) (s : State) : kept (inboundReads c l s) = kept s := by
  unfold inboundReads; refine kept_foldl _ (fun t e => ?_) _ _
  dsimp only; split <;> simp

@[simp] theorem frameTaken_kept (src : Chan) (s : State) : kept (frameTaken src s) = kept s := by
  unfold frameTaken; repeat' split
  all_goals simp

@[simp] theorem mailboxHolds_kept (src : Chan) (f : TabFrame) (s : State) : kept (mailboxHolds src f s) = kept s := by
  unfold mailboxHolds
  all_goals simp

@[simp] theorem mailboxReads_kept (src : Chan) (l : List (Nat × WordCheck)) (n w : Nat) (s : State) : kept (mailboxReads src l n w s).2 = kept s := by
  induction n generalizing w s with
  | zero => rfl
  | succ n ih => unfold mailboxReads; dsimp only; split <;> simp [ih]

@[simp] theorem arrives_kept (src : Chan) (f : TabFrame) (s : State) : kept (arrives src f s) = kept s := by
  unfold arrives
  all_goals simp

@[simp] theorem deliver_kept (src : Chan) (f : TabFrame) (s : State) : kept (deliver src f s) = kept s := by
  unfold deliver; repeat' split
  all_goals simp

@[simp] theorem barrier_kept (src : Chan) (p : Nat) (h : BitVec 128) (s : State) : kept (barrier src p h s) = kept s := by
  unfold barrier; (try dsimp only); repeat' split
  all_goals simp

@[simp] theorem deliverOwn_kept (src : Chan) (p : Nat) (s : State) : kept (deliverOwn src p s) = kept s := by
  unfold deliverOwn
  all_goals simp

@[simp] theorem sendOwn_kept (p : Nat) (src : Chan) (s : State) : kept (sendOwn p src s) = kept s := by
  unfold sendOwn; dsimp only; repeat' split
  all_goals simp

@[simp] theorem tabRunTo_kept (p : Nat) (s : State) : kept (tabRunTo p s) = kept s := by
  unfold tabRunTo
  all_goals simp

@[simp] theorem tabScanStart_kept (s : State) : kept (tabScanStart s) = kept s := by
  unfold tabScanStart
  all_goals simp

@[simp] theorem tabPinj_kept (missed : Bool) (s : State) : kept (tabPinj missed s) = kept s := by
  unfold tabPinj; repeat' split
  all_goals simp

@[simp] theorem updLink_kept (p : Nat) (f : Link → Link) (s : State) : kept (updLink p f s) = kept s := by
  unfold updLink
  all_goals simp

@[simp] theorem sampleChan_kept (c : Chan) (t : Table) (epoch : Word32) (s : State) : kept (sampleChan c t epoch s) = kept s := by
  unfold sampleChan; (try dsimp only); repeat' split
  all_goals simp

@[simp] theorem evalSignals_kept (c : Chan) (t : Table) (f : EvalFault) (s : State) : kept (evalSignals c t f s) = kept s := by
  unfold evalSignals; (try dsimp only); repeat' split
  all_goals simp

@[simp] theorem sigOutcome_kept (c : Chan) (t : Table) (w : Nat) (r : ReadOut) (s : State) : kept (sigOutcome c t w r s) = kept s := by
  unfold sigOutcome; repeat' split
  all_goals simp

@[simp] theorem arrayRead_kept (e : Nat × WordCheck) (s : State) : kept (arrayRead e s).2 = kept s := by
  unfold arrayRead
  all_goals simp

@[simp] theorem sigError_kept (c : Chan) (t : Table) (s : State) (e : Nat × WordCheck) : kept (sigError c t s e) = kept s := by
  unfold sigError; dsimp only; repeat' split
  all_goals simp

@[simp] theorem tblError_kept (c : Chan) (s : State) (e : Nat × WordCheck) : kept (tblError c s e) = kept s := by
  unfold tblError; split <;> simp

@[simp] theorem readSigs_kept (c : Chan) (t : Table) (l : List Nat) (s : State) : kept (readSigs c t l s) = kept s := by
  induction l generalizing s with
  | nil => rfl
  | cons w l ih => unfold readSigs; split <;> simp [ih]

@[simp] theorem evalChan_kept (c : Chan) (f : EvalFault) (s : State) : kept (evalChan c f s) = kept s := by
  unfold evalChan; repeat' split
  all_goals simp

@[simp] theorem setPhase_kept (n : Nat) (s : State) : kept (setPhase n s) = kept s := by
  unfold setPhase; (try dsimp only); repeat' split
  all_goals simp

@[simp] theorem endPhase_kept (i c : Nat) (s : State) : kept (endPhase i c s) = kept s := by
  unfold endPhase; (try dsimp only); repeat' split
  all_goals simp

@[simp] theorem notePhase_kept (i : Nat) (s : State) : kept (notePhase i s) = kept s := by
  unfold notePhase; (try dsimp only); repeat' split
  all_goals simp

@[simp] theorem gapNote_kept (s : State) : kept (gapNote s) = kept s := by
  unfold gapNote
  all_goals simp

@[simp] theorem commitEpoch_kept (t : Table) (verdict : Nat) (s : State) : kept (commitEpoch t verdict s) = kept s := by
  unfold commitEpoch; (try dsimp only); repeat' split
  all_goals simp

@[simp] theorem noteOutput_kept (s : State) : kept (noteOutput s) = kept s := by
  unfold noteOutput; (try dsimp only); repeat' split
  all_goals simp

@[simp] theorem testAtCompare_kept (s : State) : kept (testAtCompare s) = kept s := by
  unfold testAtCompare; repeat' split
  all_goals simp

@[simp] theorem noOutput_kept (s : State) : kept (noOutput s) = kept s := by
  unfold noOutput
  all_goals simp

@[simp] theorem lateCut_kept (t : Table) (i : Nat) (s : State) : kept (lateCut t i s) = kept s := by
  unfold lateCut; (try dsimp only); repeat' split
  all_goals simp

@[simp] theorem standingCauses_kept (pulse : Option Nat) (s : State) : kept (standingCauses pulse s) = kept s := by
  unfold standingCauses; (try dsimp only); repeat' split
  all_goals simp

@[simp] theorem clearAtStart_kept (s : State) : kept (clearAtStart s) = kept s := by
  unfold clearAtStart; (try dsimp only); repeat' split
  all_goals simp

@[simp] theorem freshImages_kept (s : State) : kept (freshImages s) = kept s := by
  unfold freshImages; (try dsimp only)
  all_goals simp

@[simp] theorem linkTraffic_kept (c : Chan) (out : Bool) (s : State) : kept (linkTraffic c out s) = kept s := by
  unfold linkTraffic
  all_goals simp

@[simp] theorem sampleOwn_kept (c : Chan) (e : Word32) (s : State) : kept (sampleOwn c e s) = kept s := by
  unfold sampleOwn; repeat' split
  all_goals simp

@[simp] theorem enterScan_kept (entering : Bool) (s : State) : kept (enterScan entering s) = kept s := by
  unfold enterScan; dsimp only; split <;> simp

@[simp] theorem scanOpens_kept (pulse : Option Nat) (entering : Bool) (s : State) : kept (scanOpens pulse entering s) = kept s := by
  unfold scanOpens; simp

@[simp] theorem startScan_kept (pulse : Option Nat) (s : State) : kept (startScan pulse s) = kept s := by
  have h := takeModes_kept s
  unfold startScan
  generalize takeModes s = u at h ⊢
  dsimp only
  generalize hv : sampleOwn .a (nextEpoch (scanOpens pulse (u.ilkA.st == .halted) (enterScan (u.ilkA.st == .halted) u)).sys.epoch) (scanOpens pulse (u.ilkA.st == .halted) (enterScan (u.ilkA.st == .halted) u)) = v
  have hk : kept v = kept u := by rw [← hv]; simp
  split
  · exact h
  · split
    · rw [hk, h]
    · rw [sampleOwn_kept, hk, h]

@[simp] theorem digests_kept (s : State) : kept (digests s) = kept s := by
  rw [show digests s = updIlk .b (fun k => { k with digest := inputDigest k.other k.own }) (updIlk .a (fun k => { k with digest := inputDigest k.own k.other }) s) by rw [digests],
    updIlk_kept, updIlk_kept]

@[simp] theorem compareTrips_kept (a : BitVec 8320) (b : BitVec 8320) (s : State) : kept (compareTrips a b s) = kept s := by
  unfold compareTrips
  all_goals simp

@[simp] theorem divergence_kept (c : Chan) (idle : BitVec 8320) (tripped : Bool) (reported : Bool) (s : State) : kept (divergence c idle tripped reported s) = kept s := by
  unfold divergence; repeat' split
  all_goals simp

@[simp] theorem compareAll_kept (s : State) : kept (compareAll s) = kept s := by
  unfold compareAll; (try dsimp only); repeat' split
  all_goals simp

@[simp] theorem compareVerdicts_kept (s : State) : kept (compareVerdicts s) = kept s := by
  unfold compareVerdicts
  all_goals simp

@[simp] theorem compareReads_kept (c : Chan) (l : List (Nat × WordCheck)) (s : State) : kept (compareReads c l s) = kept s := by
  unfold compareReads; repeat' split
  all_goals simp

@[simp] theorem groupRecord_kept (t : Table) (n : Nat) (s : State) : kept (groupRecord t n s) = kept s := by
  unfold groupRecord; (try dsimp only); repeat' split
  all_goals simp

@[simp] theorem tailRecords_kept (t : Table) (s : State) : kept (tailRecords t s) = kept s := by
  unfold tailRecords; (try dsimp only); repeat' split
  all_goals simp

@[simp] theorem tailScrub_kept (c : Chan) (l : List (Nat × WordCheck)) (s : State) : kept (tailScrub c l s) = kept s := by
  unfold tailScrub
  all_goals simp

@[simp] theorem scanEnd_kept (s : State) : kept (scanEnd s) = kept s := by
  unfold scanEnd; (try dsimp only); repeat' split
  all_goals simp

@[simp] theorem tailWork_kept (t : Table) (missed : Bool) (sa : List (Nat × WordCheck)) (sb : List (Nat × WordCheck)) (s : State) : kept (tailWork t missed sa sb s) = kept s := by
  unfold tailWork; (try dsimp only); repeat' split
  all_goals simp

@[simp] theorem tailEnd_kept (s : State) : kept (tailEnd s) = kept s := by
  have h : ∀ (a b : Ilk), kept { s with ilkA := a, ilkB := b } = kept s := fun _ _ => rfl
  unfold tailEnd; dsimp only
  split
  · rw [startScan_kept, scanEnd_kept, h]
  · rw [scanEnd_kept, h]

@[simp] theorem updSide_kept (p : Nat) (c : Chan) (f : Side → Side) (s : State) : kept (updSide p c f s) = kept s := by
  unfold updSide; repeat' split
  all_goals simp

@[simp] theorem restorePath_kept (p : Nat) (t : TileTest) (s : State) : kept (restorePath p t s) = kept s := by
  unfold restorePath; repeat' split
  all_goals simp

@[simp] theorem countAbort_kept (pin : Nat) (s : State) : kept (countAbort pin s) = kept s := by
  unfold countAbort; (try dsimp only); repeat' split
  all_goals simp

@[simp] theorem abortTest_kept (p pin : Nat) (s : State) : kept (abortTest p pin s) = kept s := by
  unfold abortTest; (try dsimp only); repeat' split
  all_goals simp

@[simp] theorem sotRearm_kept (p : Nat) (c : Chan) (f : OutFrame) (s : State) : kept (sotRearm p c f s) = kept s := by
  unfold sotRearm; (try dsimp only); repeat' split
  all_goals simp

@[simp] theorem tileAccept_kept (p : Nat) (c : Chan) (f : OutFrame) (s : State) : kept (tileAccept p c f s) = kept s := by
  unfold tileAccept; (try dsimp only); repeat' split
  all_goals simp

@[simp] theorem oneSideReset_kept (p : Nat) (c : Chan) (s : State) : kept (oneSideReset p c s) = kept s := by
  unfold oneSideReset; repeat' split
  all_goals simp

@[simp] theorem watchdogExpiry_kept (p : Nat) (c : Chan) (s : State) : kept (watchdogExpiry p c s) = kept s := by
  unfold watchdogExpiry; repeat' split
  all_goals simp

@[simp] theorem updTbl_kept (f : Tbl → Tbl) (s : State) : kept (updTbl f s) = kept s := by
  unfold updTbl
  all_goals simp

@[simp] theorem testFail_kept (use pin code : Nat) (s : State) : kept (testFail use pin code s) = kept s := by
  unfold testFail; (try dsimp only)
  all_goals simp

@[simp] theorem testCompleted_kept (entry : Nat) (s : State) : kept (testCompleted entry s) = kept s := by
  unfold testCompleted
  all_goals simp

@[simp] theorem endSlot_kept (k : Slot) (s : State) : kept (endSlot k s) = kept s := by
  unfold endSlot; repeat' split
  all_goals simp

@[simp] theorem advanceSlots_kept (s : State) : kept (advanceSlots s) = kept s := by
  unfold advanceSlots; (try dsimp only)
  all_goals simp

@[simp] theorem mapSlots_kept (p : Nat) (f : Slot → Slot) (s : State) : kept (mapSlots p f s) = kept s := by
  unfold mapSlots
  all_goals simp

@[simp] theorem voidTile_kept (p : Nat) (s : State) : kept (voidTile p s) = kept s := by
  unfold voidTile
  all_goals simp

@[simp] theorem voidChanged_kept (p : Nat) (chg : Chan → BitVec 16) (s : State) : kept (voidChanged p chg s) = kept s := by
  unfold voidChanged; (try dsimp only); repeat' split
  all_goals simp

@[simp] theorem countOverdue_kept (s : State) : kept (countOverdue s) = kept s := by
  unfold countOverdue; (try dsimp only); repeat' split
  all_goals simp

@[simp] theorem noteChanges_kept (p : Nat) (s : State) : kept (noteChanges p s) = kept s := by
  unfold noteChanges; (try dsimp only); repeat' split
  all_goals simp

@[simp] theorem dropTile_kept (p : Nat) (s : State) : kept (dropTile p s) = kept s := by
  unfold dropTile; (try dsimp only)
  all_goals simp

@[simp] theorem chooseRb_kept (p : Nat) (s : State) : kept (chooseRb p s).2 = kept s := by
  unfold chooseRb; (try dsimp only); repeat' split
  all_goals simp

@[simp] theorem frameMissed_kept (p : Nat) (c : Chan) (s : State) : kept (frameMissed p c s) = kept s := by
  unfold frameMissed; (try dsimp only); repeat' split
  all_goals simp

@[simp] theorem judgeReads_kept (f : InFrame) (i : Nat) (k : Slot) (s : State) : kept (judgeReads f i k s) = kept s := by
  unfold judgeReads; (try dsimp only); repeat' split
  all_goals simp

@[simp] theorem judgeSlots_kept (p : Nat) (c : Chan) (f : InFrame) (s : State) : kept (judgeSlots p c f s) = kept s := by
  refine (kept_foldl _ (fun t i => ?_) _ _).trans ?_
  · dsimp only; repeat' split
    all_goals simp
  · split <;> simp

@[simp] theorem inboundMissed_kept (p : Nat) (c : Chan) (s : State) : kept (inboundMissed p c s) = kept s := by
  unfold inboundMissed; repeat' split
  all_goals simp

@[simp] theorem judgeDemands_kept (p : Nat) (c : Chan) (f : InFrame) (s : State) : kept (judgeDemands p c f s) = kept s := by
  refine (kept_foldl _ (fun t d => ?_) _ _).trans (updTbl_kept _ _)
  dsimp only; repeat' split
  all_goals simp

@[simp] theorem captDone_kept (c : Capture) (timeout : Bool) (delay : Nat) (s : State) : kept (captDone c timeout delay s) = kept s := by
  unfold captDone; (try dsimp only)
  all_goals simp

@[simp] theorem judgeCapture_kept (p : Nat) (f : InFrame) (s : State) : kept (judgeCapture p f s) = kept s := by
  unfold judgeCapture; repeat' split
  all_goals simp

@[simp] theorem xsClr_kept (s : State) : kept (xsClr s) = kept s := by
  unfold xsClr
  all_goals simp

@[simp] theorem tblCntClr_kept (s : State) : kept (tblCntClr s) = kept s := by
  unfold tblCntClr
  all_goals simp

@[simp] theorem updStream_kept (p : Nat) (c : Chan) (f : Stream → Stream) (s : State) : kept (updStream p c f s) = kept s := by
  unfold updStream; repeat' split
  all_goals simp

@[simp] theorem frameError_kept (p : Nat) (c : Chan) (alive : Bool) (s : State) : kept (frameError p c alive s) = kept s := by
  unfold frameError; (try dsimp only); repeat' split
  all_goals simp

@[simp] theorem latchTile_kept (p : Nat) (s : State) : kept (latchTile p s) = kept s := by
  unfold latchTile; (try dsimp only); repeat' split
  all_goals simp

@[simp] theorem lostFrames_kept (s : State) : kept (lostFrames s) = kept s := by
  unfold lostFrames
  all_goals simp

@[simp] theorem latchTests_kept (w : WordCheck) (s : State) : kept (latchTests w s) = kept s := by
  unfold latchTests; (try dsimp only); repeat' split
  all_goals simp

@[simp] theorem edgesLost_kept (p : Nat) (n : Nat) (pins : BitVec 16) (s : State) : kept (edgesLost p n pins s) = kept s := by
  unfold edgesLost
  all_goals simp

@[simp] theorem rejectedEdges_kept (p : Nat) (readable : Bool) (f : InFrame) (s : State) : kept (rejectedEdges p readable f s) = kept s := by
  unfold rejectedEdges; repeat' split
  all_goals simp

@[simp] theorem takeEdge_kept (p : Nat) (capt : Nat) (e : TileEdge) (s : State) : kept (takeEdge p capt e s) = kept s := by
  unfold takeEdge; repeat' split
  all_goals simp

@[simp] theorem compareCfg_kept (p : Nat) (s : State) : kept (compareCfg p s) = kept s := by
  unfold compareCfg; (try dsimp only); repeat' split
  all_goals simp

@[simp] theorem takeFresh_kept (p : Nat) (c : Chan) (was : Bool) (s : State) : kept (takeFresh p c was s) = kept s := by
  unfold takeFresh; (try dsimp only); repeat' split
  all_goals simp

@[simp] theorem flagEvents_kept (p : Nat) (c : Chan) (old new : InFrame) (s : State) : kept (flagEvents p c old new s) = kept s := by
  unfold flagEvents; (try dsimp only)
  all_goals simp

@[simp] theorem supplyEvents_kept (p : Nat) (fresh : Bool) (l0 : Link) (s : State) : kept (supplyEvents p fresh l0 s) = kept s := by
  unfold supplyEvents; (try dsimp only); repeat' split
  all_goals simp

@[simp] theorem linkRises_kept (p : Nat) (dly : BitVec 10) (s : State) : kept (linkRises p dly s) = kept s := by
  unfold linkRises; (try dsimp only); repeat' split
  all_goals simp

@[simp] theorem linkAccept_kept (p : Nat) (c : Chan) (f : InFrame) (dly : BitVec 10) (s : State) : kept (linkAccept p c f dly s) = kept s := by
  unfold linkAccept; (try dsimp only); repeat' split
  all_goals simp

@[simp] theorem linkReject_kept (p : Nat) (c : Chan) (alive readable : Bool) (f : InFrame) (s : State) : kept (linkReject p c alive readable f s) = kept s := by
  unfold linkReject
  all_goals simp

@[simp] theorem frameRead_kept (p : Nat) (c : Chan) (f : InFrame) (w : WordCheck) (dly : BitVec 10) (s : State) : kept (frameRead p c f w dly s) = kept s := by
  unfold frameRead
  all_goals simp

@[simp] theorem sendResetSeq_kept (p : Nat) (s : State) : kept (sendResetSeq p s) = kept s := by
  unfold sendResetSeq
  all_goals simp

@[simp] theorem linkCntClr_kept (p : Nat) (s : State) : kept (linkCntClr p s) = kept s := by
  unfold linkCntClr; (try dsimp only)
  all_goals simp

@[simp] theorem tileCtrlWrite_kept (p : Nat) (v : Word32) (s : State) : kept (tileCtrlWrite p v s) = kept s := by
  unfold tileCtrlWrite; (try dsimp only); repeat' split
  all_goals simp

@[simp] theorem rearmWrite_kept (p : Nat) (v : Word32) (s : State) : kept (rearmWrite p v s) = kept s := by
  unfold rearmWrite; repeat' split
  all_goals simp

@[simp] theorem cfgRegWrite_kept (iface : Iface) (p n off : Nat) (v : Word32) (s : State) : kept (cfgRegWrite iface p n off v s) = kept s := by
  unfold cfgRegWrite; repeat' split
  all_goals simp

@[simp] theorem updAst_kept (f : Ast → Ast) (s : State) : kept (updAst f s) = kept s := by
  unfold updAst
  all_goals simp

@[simp] theorem markPin_kept (test i : Nat) (s : State) : kept (markPin test i s) = kept s := by
  unfold markPin; repeat' split
  all_goals simp

@[simp] theorem markTile_kept (test p : Nat) (s : State) : kept (markTile test p s) = kept s := by
  unfold markTile; (try dsimp only); repeat' split
  all_goals simp

@[simp] theorem noteFail_kept (test : Nat) (x : AssayItem) (s : State) : kept (noteFail test x s) = kept s := by
  unfold noteFail
  all_goals simp

@[simp] theorem bootBlocked_kept (s : State) : kept (bootBlocked s) = kept s := by
  unfold bootBlocked; (try dsimp only)
  all_goals simp

@[simp] theorem failOutcome_kept (test : Nat) (x : AssayItem) (periodic : Bool) (s : State) : kept (failOutcome test x periodic s) = kept s := by
  unfold failOutcome; (try dsimp only); repeat' split
  all_goals simp

@[simp] theorem skipTest_kept (test : Nat) (x : AssayItem) (s : State) : kept (skipTest test x s) = kept s := by
  unfold skipTest; (try dsimp only)
  all_goals simp

@[simp] theorem startupSet_kept (r : StartSet) (s : State) : kept (startupSet r s) = kept s := by
  unfold startupSet; (try dsimp only); repeat' split
  all_goals simp

@[simp] theorem bootQueueTest_kept (bad : BitVec 4) (s : State) : kept (bootQueueTest bad s) = kept s := by
  unfold bootQueueTest
  all_goals simp

@[simp] theorem noteNext_kept (p : Nat) (s : State) : kept (noteNext p s) = kept s := by
  unfold noteNext; repeat' split
  all_goals simp

@[simp] theorem beginTest_kept (p : Nat) (t : PinTest) (test : Nat) (s : State) : kept (beginTest p t test s) = kept s := by
  unfold beginTest
  all_goals simp

@[simp] theorem testDone_kept (p : Nat) (t : PinTest) (s : State) : kept (testDone p t s) = kept s := by
  unfold testDone; (try dsimp only); repeat' split
  all_goals simp

@[simp] theorem restoreWords_kept (bank i : Nat) (ws : List (Nat × WordCheck)) (k : Nat) (s : State) : kept (restoreWords bank i ws k s) = kept s := by
  induction k generalizing s with
  | zero => rfl
  | succ k ih =>
    have h : ∀ (w : Nat) (u : State), kept (updSto (fun t => if t.poison.contains w then t else { t with poison := t.poison ++ [w] }) u) = kept u := fun w u => by
      apply updSto_kept <;> split <;> rfl
    unfold restoreWords; dsimp only; rw [ih]; split
    · rw [reportAs_kept, h, readRetry_kept]
    · rw [readRetry_kept]

@[simp] theorem segmentDone_kept (bank : Nat) (s : State) : kept (segmentDone bank s) = kept s := by
  unfold segmentDone; (try dsimp only); repeat' split
  all_goals simp

@[simp] theorem astCntClr_kept (s : State) : kept (astCntClr s) = kept s := by
  unfold astCntClr
  all_goals simp

@[simp] theorem astRegWrite_kept (iface : Iface) (off : Nat) (v : Word32) (s : State) : kept (astRegWrite iface off v s) = kept s := by
  unfold astRegWrite; (try dsimp only); repeat' split
  all_goals simp

@[simp] theorem updSys_kept (f : Sys → Sys) (s : State) : kept (updSys f s) = kept s := by
  unfold updSys
  all_goals simp

@[simp] theorem regionEnded_kept (g : ResetTarget) (s : State) : kept (regionEnded g s) = kept s := by
  unfold regionEnded; split
  all_goals simp

@[simp] theorem phaseEnds_kept (n us : Nat) (s : State) : kept (phaseEnds n us s) = kept s := by
  unfold phaseEnds; repeat' split
  all_goals simp

@[simp] theorem p1Work_kept (fcrOk kat : Bool) (s : State) : kept (p1Work fcrOk kat s) = kept s := by
  unfold p1Work; (try dsimp only); repeat' split
  all_goals simp

@[simp] theorem dhdInjected_kept (bad : BitVec 64) (s : State) : kept (dhdInjected bad s) = kept s := by
  unfold dhdInjected; (try dsimp only)
  all_goals simp

@[simp] theorem checkUserCal_kept (copy : Nat) (s : State) : kept (checkUserCal copy s).2 = kept s := by
  unfold checkUserCal; (try dsimp only); repeat' split
  all_goals simp

@[simp] theorem takeUserCal_kept (s : State) : kept (takeUserCal s) = kept s := by
  unfold takeUserCal; (try dsimp only); repeat' split
  all_goals simp

@[simp] theorem rstEnd_kept (code : Nat) (s : State) : kept (rstEnd code s) = kept s := by
  unfold rstEnd; (try dsimp only); repeat' split
  all_goals simp

@[simp] theorem unfencePages_kept (l : List Nat) (s : State) : kept (unfencePages l s) = kept s := by
  unfold unfencePages
  all_goals simp

@[simp] theorem reportPort_kept (src : Option Nat) (page addr : Nat) (r : ReadOut) (s : State) : kept (reportPort src page addr r s) = kept s := by
  unfold reportPort; repeat' split
  all_goals simp

@[simp] theorem throughPort_kept (i : Iface) (p off : Nat) (s : State) : kept (throughPort i p off s).2 = kept s := by
  unfold throughPort; (try dsimp only); repeat' split
  all_goals simp

@[simp] theorem epochOpen_kept (i : Iface) (s : State) : kept (epochOpen i s).2 = kept s := by
  unfold epochOpen; (try dsimp only); repeat' split
  all_goals simp

@[simp] theorem epochClose_kept (i : Iface) (s : State) : kept (epochClose i s) = kept s := by
  unfold epochClose
  all_goals simp

@[simp] theorem timeCapture_kept (q : Nat) (s : State) : kept (timeCapture q s).2 = kept s := by
  unfold timeCapture; (try dsimp only); repeat' split
  all_goals simp

@[simp] theorem regReadValue_kept (i : Iface) (p off : Nat) (s : State) : kept (regReadValue i p off s).2 = kept s := by
  unfold regReadValue; (try dsimp only); repeat' split
  all_goals simp

@[simp] theorem cancelKey_kept (p : Nat) (s : State) : kept (cancelKey p s) = kept s := by
  unfold cancelKey
  all_goals simp

@[simp] theorem regRead_kept (i : Iface) (p off : Nat) (s : State) : kept (regRead i p off s).2 = kept s := by
  unfold regRead; (try dsimp only); repeat' split
  all_goals simp

@[simp] theorem regReadFull_kept (i : Iface) (p off : Nat) (s : State) : kept (regReadFull i p off s).2 = kept s := by
  unfold regReadFull; (try dsimp only); repeat' split
  all_goals simp

@[simp] theorem ilkCtrlWrite_kept (c : Chan) (v : Word32) (s : State) : kept (ilkCtrlWrite c v s) = kept s := by
  unfold ilkCtrlWrite; (try dsimp only); repeat' split
  all_goals simp

@[simp] theorem writeIlk_kept (c : Chan) (off : Nat) (v : Word32) (s : State) : kept (writeIlk c off v s) = kept s := by
  unfold writeIlk; repeat' split
  all_goals simp

@[simp] theorem writeTbl_kept (off : Nat) (v : Word32) (s : State) : kept (writeTbl off v s) = kept s := by
  unfold writeTbl; (try dsimp only); repeat' split
  all_goals simp

@[simp] theorem writeTile_kept (i : Iface) (p rearm off : Nat) (v : Word32) (s : State) : kept (writeTile i p rearm off v s) = kept s := by
  unfold writeTile; repeat' split
  all_goals simp

@[simp] theorem writeSto_kept (off : Nat) (v : Word32) (s : State) : kept (writeSto off v s) = kept s := by
  unfold writeSto; (try dsimp only); repeat' split
  all_goals simp

@[simp] theorem writeJrn_kept (i : Iface) (off : Nat) (v : Word32) (s : State) : kept (writeJrn i off v s) = kept s := by
  unfold writeJrn; (try dsimp only); repeat' split
  all_goals simp

@[simp] theorem mgtCntClr_kept (s : State) : kept (mgtCntClr s) = kept s := by
  unfold mgtCntClr; (try dsimp only)
  all_goals simp

@[simp] theorem writeMgt_kept (i : Iface) (off : Nat) (v : Word32) (s : State) : kept (writeMgt i off v s) = kept s := by
  unfold writeMgt; (try dsimp only); repeat' split
  all_goals simp

@[simp] theorem ackWrite_kept (v : Word32) (s : State) : kept (ackWrite v s) = kept s := by
  unfold ackWrite; (try dsimp only); repeat' split
  all_goals simp

@[simp] theorem promoWrite_kept (i : Iface) (v : Word32) (s : State) : kept (promoWrite i v s) = kept s := by
  unfold promoWrite; (try dsimp only); repeat' split
  all_goals simp

@[simp] theorem fcrCtrlWrite_kept (i : Iface) (v : Word32) (s : State) : kept (fcrCtrlWrite i v s) = kept s := by
  unfold fcrCtrlWrite; (try dsimp only); repeat' split
  all_goals simp

@[simp] theorem writeFcr_kept (i : Iface) (off : Nat) (v : Word32) (s : State) : kept (writeFcr i off v s) = kept s := by
  unfold writeFcr; (try dsimp only); repeat' split
  all_goals simp

@[simp] theorem writeTch_kept (off : Nat) (v : Word32) (s : State) : kept (writeTch off v s) = kept s := by
  unfold writeTch; (try dsimp only); repeat' split
  all_goals simp

@[simp] theorem writeHmk_kept (off : Nat) (v : Word32) (s : State) : kept (writeHmk off v s) = kept s := by
  unfold writeHmk; repeat' split
  all_goals simp

@[simp] theorem writeLmn_kept (i : Iface) (off : Nat) (v : Word32) (s : State) : kept (writeLmn i off v s) = kept s := by
  unfold writeLmn; repeat' split
  all_goals simp

@[simp] theorem ownedWrite_kept (i : Iface) (pg kind n off : Nat) (f : State → State) (s : State) (h : kept (f s) = kept s) : kept (ownedWrite i pg kind n off f s) = kept s := by
  unfold ownedWrite; split <;> simp [h]

@[simp] theorem injWrite_kept (i : Iface) (p : Nat) (keyed : Bool) (v : Word32) (s : State) : kept (injWrite i p keyed v s) = kept s := by
  unfold injWrite; repeat' split
  all_goals simp

@[simp] theorem wkeyWrite_kept (i : Iface) (p : Nat) (v : Word32) (s : State) : kept (wkeyWrite i p v s) = kept s := by
  unfold wkeyWrite; repeat' split
  all_goals simp

@[simp] theorem evtEnWrite_kept (p : Nat) (v : Word32) (s : State) : kept (evtEnWrite p v s) = kept s := by
  unfold evtEnWrite
  all_goals simp

@[simp] theorem absentWrite_kept (i : Iface) (s : State) : kept (absentWrite i s) = kept s := by
  unfold absentWrite; repeat' split
  all_goals simp

@[simp] theorem widthWrite_kept (p off : Nat) (s : State) : kept (widthWrite p off s) = kept s := by
  unfold widthWrite; repeat' split
  all_goals simp

@[simp] theorem closedAccess_kept (i : Iface) (s : State) : kept (closedAccess i s) = kept s := by
  unfold closedAccess; repeat' split
  all_goals simp

@[simp] theorem accessTraffic_kept (i : Iface) (p : Nat) (s : State) : kept (accessTraffic i p s) = kept s := by
  unfold accessTraffic
  all_goals simp

@[simp] theorem mgtReads_kept (a n k : Nat) (st : BitVec 8) (s : State) : kept (mgtReads a n k st s).2 = kept s := by
  induction n generalizing k st s with
  | zero => rfl
  | succ n ih => simp [mgtReads, ih]

@[simp] theorem mgtDone_kept (mode3 : Bool) (st : BitVec 8) (data : List Word32) (s : State) : kept (mgtDone mode3 st data s) = kept s := by
  unfold mgtDone; (try dsimp only)
  all_goals simp

@[simp] theorem mgtServeRead_kept (mode3 : Bool) (a n : Nat) (s : State) : kept (mgtServeRead mode3 a n s) = kept s := by
  unfold mgtServeRead; (try dsimp only)
  all_goals simp

@[simp] theorem mgtRefused_kept (mode3 : Bool) (st : BitVec 8) (crc : Bool) (s : State) : kept (mgtRefused mode3 st crc s) = kept s := by
  unfold mgtRefused; (try dsimp only); repeat' split
  all_goals simp

@[simp] theorem mgtClocked_kept (f : MgtFrame) (s : State) : kept (mgtClocked f s) = kept s := by
  unfold mgtClocked
  all_goals simp

@[simp] theorem selectIr_kept (ir : TapIr) (s : State) : kept (selectIr ir s) = kept s := by
  unfold selectIr; (try dsimp only)
  all_goals simp

@[simp] theorem selectScan_kept (ir : TapIr) (s : State) : kept (selectScan ir s) = kept s := by
  unfold selectScan; repeat' split
  all_goals simp

@[simp] theorem dbgDone_kept (a : BitVec 20) (err : Bool) (s : State) : kept (dbgDone a err s) = kept s := by
  unfold dbgDone; (try dsimp only)
  all_goals simp

@[simp] theorem dbgRefused_kept (s : State) : kept (dbgRefused s) = kept s := by
  unfold dbgRefused; (try dsimp only)
  all_goals simp

@[simp] theorem uncValue_kept (i : Iface) (p : Nat) (r : RegVal × State) : kept (uncValue i p r).2 = kept r.2 := by
  unfold uncValue; dsimp only; split <;> simp [drawFree_kept]

@[simp] theorem dbgRead_kept (a : BitVec 20) (s : State) : kept (dbgRead a s) = kept s := by
  unfold dbgRead; dsimp only
  rw [dbgDone_kept]; exact (uncValue_kept _ _ _).trans (by simp)

@[simp] theorem regAccess_kept (early : Bool) (f : State → State) (s : State) (h : ∀ t, kept (f t) = kept t) : kept (regAccess early f s) = kept s := by
  unfold regAccess; dsimp only; split <;> simp [h]

@[simp] theorem pcieRead_kept (p off : Nat) (s : State) : kept (pcieRead p off s) = kept s := by
  unfold pcieRead; dsimp only; repeat' split
  all_goals simp

@[simp] theorem ifaceRead_kept (i : Iface) (p off : Nat) (s : State) : kept (ifaceRead i p off s) = kept s := by
  unfold ifaceRead; repeat' split
  all_goals simp

@[simp] theorem thirdFailure_kept (page : Nat) (cell : Nat) (unserved : Bool) (s : State) : kept (thirdFailure page cell unserved s) = kept s := by
  unfold thirdFailure
  all_goals simp

end Sys2Proof.Machine
end

