-- ==== Sys2Proof/Laws/Memory.lean ====
section
/-! SUPPORT. Laws of byte memory: a read after a write, and that every write keeps the canonical form. -/

namespace Sys2Proof.Machine

theorem memWfFrom_mono (m : Memory) (a b : Nat) (h : a ≤ b) (hw : memWfFrom b m = true) : memWfFrom a m = true := by
  cases m with
  | nil => rfl
  | cons c t => simp only [memWfFrom, Bool.and_eq_true, decide_eq_true_eq] at hw ⊢; exact ⟨⟨by omega, hw.1.2⟩, hw.2⟩

theorem memGet_below (m : Memory) (a b : Nat) (h : a < b) (hw : memWfFrom b m = true) : memGet m a = 0 := by
  cases m with
  | nil => rfl
  | cons c t =>
    simp only [memWfFrom, Bool.and_eq_true, decide_eq_true_eq] at hw
    simp only [memGet]
    rw [if_neg (by omega), if_pos (by omega)]

theorem memSet_wfFrom (m : Memory) (lo a : Nat) (v : Byte) (ha : lo ≤ a) (hw : memWfFrom lo m = true) : memWfFrom lo (memSet m a v) = true := by
  induction m generalizing lo with
  | nil => simp only [memSet]; split <;> simp_all [memWfFrom]
  | cons c t ih =>
    obtain ⟨k, b⟩ := c
    simp only [memWfFrom, Bool.and_eq_true, decide_eq_true_eq] at hw
    simp only [memSet]
    split
    · rename_i e; subst e
      split
      · exact memWfFrom_mono t lo (k + 1) (by omega) hw.2
      · simp_all [memWfFrom]
    split
    · split
      · simp_all [memWfFrom]
      · simp only [memWfFrom, Bool.and_eq_true, decide_eq_true_eq]
        exact ⟨⟨ha, by simp_all⟩, ⟨by omega, hw.1.2⟩, hw.2⟩
    · simp only [memWfFrom, Bool.and_eq_true, decide_eq_true_eq]
      exact ⟨hw.1, ih (k + 1) (by omega) hw.2⟩

/-- A write of one byte keeps the canonical form. -/
theorem memSet_wf (m : Memory) (a : Nat) (v : Byte) (h : m.wf = true) : (memSet m a v).wf = true := memSet_wfFrom m 0 a v (Nat.zero_le a) h

/-- A write of bytes keeps the canonical form. -/
theorem memWrite_wf (m : Memory) (a : Nat) (l : List Byte) (h : m.wf = true) : (memWrite m a l).wf = true := by
  induction l generalizing m a with
  | nil => exact h
  | cons b t ih => exact ih _ _ (memSet_wf m a b h)

theorem memGet_memSet_from (m : Memory) (lo a x : Nat) (v : Byte) (hw : memWfFrom lo m = true) : memGet (memSet m a v) x = if x = a then v else memGet m x := by
  induction m generalizing lo with
  | nil => simp only [memSet, memGet]; split <;> (split <;> simp_all [memGet]); intro h; omega
  | cons c t ih =>
    obtain ⟨k, b⟩ := c
    simp only [memWfFrom, Bool.and_eq_true, decide_eq_true_eq] at hw
    have below : ∀ y, y < k + 1 → memGet t y = 0 := fun y hy => memGet_below t y (k + 1) hy hw.2
    simp only [memSet]
    by_cases h1 : k = a
    · subst h1
      rw [if_pos rfl]
      by_cases hv : v = 0
      · rw [if_pos hv]
        by_cases hx : x = k
        · subst hx; rw [if_pos rfl, hv]; exact below x (by omega)
        · rw [if_neg hx]; simp only [memGet]; rw [if_neg (by omega)]
          split
          · exact below x (by omega)
          · rfl
      · rw [if_neg hv]; simp only [memGet]
        by_cases hx : x = k
        · simp [hx]
        · rw [if_neg (fun e => hx e.symm), if_neg hx]
          split
          · simp only [if_neg (fun e => hx e.symm : ¬ k = x)]
          · simp only [if_neg (fun e => hx e.symm : ¬ k = x)]
    · rw [if_neg h1]
      by_cases h2 : a < k
      · rw [if_pos h2]
        by_cases hv : v = 0
        · rw [if_pos hv]
          by_cases hx : x = a
          · subst hx; simp only [memGet]; rw [if_neg h1, if_pos h2, hv]; simp
          · rw [if_neg hx]
        · rw [if_neg hv]
          by_cases hx : x = a
          · subst hx; simp [memGet]
          · rw [if_neg hx]
            show (if a = x then v else if x < a then 0 else memGet ((k, b) :: t) x) = _
            rw [if_neg (by omega)]
            split
            · simp only [memGet]; rw [if_neg (by omega), if_pos (by omega)]
            · rfl
      · rw [if_neg h2]
        simp only [memGet]
        rw [ih (k + 1) hw.2]
        by_cases hx : x = a
        · subst hx; rw [if_neg h1, if_neg h2, if_pos rfl]
          simp
        · rw [if_neg hx, if_neg hx]

/-- The byte at an address after one byte has been written. -/
theorem memGet_memSet (m : Memory) (a x : Nat) (v : Byte) (h : m.wf = true) : memGet (memSet m a v) x = if x = a then v else memGet m x :=
  memGet_memSet_from m 0 a x v h

/-- The byte at an address after bytes have been written. -/
theorem memGet_memWrite (m : Memory) (a : Nat) (l : List Byte) (x : Nat) (h : m.wf = true) :
    memGet (memWrite m a l) x = if a ≤ x ∧ x < a + l.length then l.getD (x - a) 0 else memGet m x := by
  induction l generalizing m a with
  | nil => simp only [memWrite, List.length_nil]; rw [if_neg (by omega)]
  | cons b t ih =>
    simp only [memWrite]
    rw [ih _ _ (memSet_wf m a b h), memGet_memSet m a x b h]
    by_cases hx : x = a
    · subst hx; simp only [List.length_cons]; rw [if_neg (by omega), if_pos (show x ≤ x ∧ x < x + (t.length + 1) by omega)]; simp
    · rw [if_neg hx]
      by_cases hr : a + 1 ≤ x ∧ x < a + 1 + t.length
      · rw [if_pos hr, if_pos (show a ≤ x ∧ x < a + (b :: t).length by simp only [List.length_cons]; omega)]
        obtain ⟨d, hd⟩ : ∃ d, x - a = d + 1 := ⟨x - a - 1, by omega⟩
        rw [hd, show x - (a + 1) = d by omega]; simp
      · rw [if_neg hr, if_neg (show ¬(a ≤ x ∧ x < a + (b :: t).length) by simp only [List.length_cons]; omega)]

/-- A fold of single writes keeps the canonical form. -/
theorem memSet_foldl_wf {α : Type} (f : α → Nat) (g : α → Byte) (l : List α) (m : Memory) (h : m.wf = true) :
    Memory.wf (l.foldl (fun m c => memSet m (f c) (g c)) m) = true := by
  induction l generalizing m with
  | nil => exact h
  | cons c t ih => exact ih _ (memSet_wf m _ _ h)

end Sys2Proof.Machine
end

