-- ==== Sys2Proof/Laws/Grows.lean ====
section
/-! SUPPORT. What every operation sustains: the queue and the variant stand, the store keeps its canonical form, the maps keep their keys rising, and a blown antifuse stays blown. -/

namespace Sys2Proof.Machine

/-- The map and the maps of the snapshots list each logical ingot once. -/
def mapsRise (m : SMap Nat) (v : Vector (Option (SMap Nat)) 2) : Prop := keysRise m ∧ ∀ x, some x ∈ v.toList → keysRise x

/-- A blown antifuse stays blown. -/
def fuseGains (a b : Fuse) : Prop := b.n &&& a.n = a.n ∧ b.l &&& a.l = a.l ∧ b.h &&& a.h = a.h

/-- What stands from one state to a later one. -/
structure Grows (a b : Kept) : Prop where
  pending : b.pending = a.pending
  variant : b.variant = a.variant
  mem : a.mem.wf = true → b.mem.wf = true
  maps : mapsRise a.map a.snaps → mapsRise b.map b.snaps
  rows : ∀ row, fuseGains (smGetD a.rows row {}) (smGetD b.rows row {})

theorem fuseGains_refl (a : Fuse) : fuseGains a a := by simp [fuseGains]

theorem and_gains {n : Nat} (a b c : BitVec n) (h1 : b &&& a = a) (h2 : c &&& b = b) : c &&& a = a := by
  rw [← h1, ← BitVec.and_assoc, h2]

theorem fuseGains_trans (a b c : Fuse) (h1 : fuseGains a b) (h2 : fuseGains b c) : fuseGains a c :=
  ⟨and_gains _ _ _ h1.1 h2.1, and_gains _ _ _ h1.2.1 h2.2.1, and_gains _ _ _ h1.2.2 h2.2.2⟩

theorem fuseGains_blow (a : Fuse) (p : BitVec 140) (b : Fuse) : fuseGains a (blow a p b) := by
  have h : ∀ x y : BitVec 140, (x ||| y) &&& x = x := by intro x y; ext i; simp; exact .inl
  exact ⟨h _ _, h _ _, h _ _⟩

@[simp] theorem Grows.refl (a : Kept) : Grows a a := ⟨rfl, rfl, id, id, fun _ => fuseGains_refl _⟩

theorem Grows.trans {a b c : Kept} (h : Grows a b) (g : Grows b c) : Grows a c :=
  ⟨g.pending.trans h.pending, g.variant.trans h.variant, g.mem ∘ h.mem, g.maps ∘ h.maps, fun r => fuseGains_trans _ _ _ (h.rows r) (g.rows r)⟩

theorem grows_foldl {k : Kept} {α : Type} (g : State → α → State) (hg : ∀ t x, Grows k (kept t) → Grows k (kept (g t x))) (l : List α) (s : State) (h : Grows k (kept s)) :
    Grows k (kept (l.foldl g s)) := by
  induction l generalizing s with
  | nil => exact h
  | cons x l ih => exact ih _ (hg _ _ h)

/-! ## Changes of the store -/

/-- A change of the store keeps the canonical form and the rising keys. -/
structure Sound (f : Sto → Sto) : Prop where
  mem : ∀ t, Memory.wf t.mem = true → Memory.wf (f t).mem = true
  maps : ∀ t, mapsRise t.map (t.snaps.map (Option.map MapSnap.map)) → mapsRise (f t).map ((f t).snaps.map (Option.map MapSnap.map))

theorem updSto_grows {k : Kept} {f : Sto → Sto} (hf : Sound f) (s : State) (h : Grows k (kept s)) : Grows k (kept (updSto f s)) :=
  h.trans ⟨rfl, rfl, hf.mem _, hf.maps _, fun _ => fuseGains_refl _⟩

theorem Sound.comp {f g : Sto → Sto} (hf : Sound f) (hg : Sound g) : Sound (fun t => f (g t)) :=
  ⟨fun t h => hf.mem _ (hg.mem t h), fun t h => hf.maps _ (hg.maps t h)⟩

theorem writeLog_sound (a : Nat) (l : List Byte) : Sound (writeLog a l) := ⟨fun _ h => memWrite_wf _ _ _ h, fun _ h => h⟩

theorem writeSpan_sound (k a : Nat) (l : List Byte) : Sound (writeSpan k a l) := by
  induction k generalizing a l with
  | zero => exact ⟨fun _ h => h, fun _ h => h⟩
  | succ k ih =>
    constructor <;> intro t h <;> unfold writeSpan <;> dsimp only <;> split
    · exact memWrite_wf _ _ _ h
    · exact (ih _ _).mem _ (memWrite_wf _ _ _ h)
    · exact h
    · exact (ih _ _).maps _ h

theorem writeSnapshot_sound : Sound writeSnapshot := by
  refine ⟨fun t h => h, fun t h => ⟨h.1, fun x hx => ?_⟩⟩
  unfold writeSnapshot at hx
  generalize (match (match vGet t.snaps 0 none with | none => none | some m => some m.base.toNat : Option Nat), (match vGet t.snaps 1 none with | none => none | some m => some m.base.toNat : Option Nat) with
    | none, _ => 0 | _, none => 1 | some x, some y => if y < x then 1 else 0) = i at hx
  simp only [vSet, Vector.toList_map, List.mem_map, Vector.toList_setIfInBounds] at hx
  obtain ⟨o, ho, hx⟩ := hx
  rcases List.mem_or_eq_of_mem_set ho with ho | rfl
  · exact h.2 x (by simp only [Vector.toList_map, List.mem_map]; exact ⟨o, ho, hx⟩)
  · simp at hx; exact hx ▸ h.1

theorem commitMap_sound (x : Nat × Nat) (y : Option (Nat × Nat)) : Sound (commitMap x y) := by
  have put : ∀ (m : SMap Nat) (e : Nat × Nat), keysRise m → keysRise (if e.1 = e.2 then smErase m e.1 else smSet m e.1 e.2) := fun m e h => by
    split
    · exact keysRise_smErase _ _ h
    · exact keysRise_smSet _ _ _ h
  constructor
  · intro t h; unfold commitMap; dsimp only; split <;> exact h
  · intro t h
    have h' : mapsRise (if t.log.length ≥ logCap then writeSnapshot t else t).map ((if t.log.length ≥ logCap then writeSnapshot t else t).snaps.map (Option.map MapSnap.map)) := by
      split
      · exact writeSnapshot_sound.maps t h
      · exact h
    refine ⟨?_, h'.2⟩
    unfold commitMap; dsimp only
    cases y with
    | none => exact put _ _ h'.1
    | some e => exact put _ _ (put _ _ h'.1)

theorem copyIngot_sound (a b : Nat) : Sound (copyIngot a b) :=
  ⟨fun _ h => memSet_foldl_wf (fun c : Host.Cell => c.1 % 65536 + b * 65536) Prod.snd _ _ (memSet_foldl_wf Prod.fst (fun _ => 0) _ _ h), fun _ h => h⟩

theorem sound_foldl {α : Type} (f : α → Sto → Sto) (hf : ∀ x, Sound (f x)) (l : List α) : Sound (fun t => l.foldl (fun t x => f x t) t) := by
  induction l with
  | nil => exact ⟨fun _ h => h, fun _ h => h⟩
  | cons x l ih => exact ih.comp (hf x)

theorem commitAtomic_sound (a : Atomic) : Sound (commitAtomic a) := by
  have h1 : Sound (fun t : Sto => a.targets.foldl (fun t x => copyIngot (physIngot t x.1) x.2 t) t) :=
    sound_foldl (fun (x : Nat × Nat) t => copyIngot (physIngot t x.1) x.2 t) (fun x => ⟨fun t => (copyIngot_sound _ _).mem t, fun t => (copyIngot_sound _ _).maps t⟩) _
  have h3 : ∀ f : Sto → Sto, Sound f → Sound (fun t => writeSpan 3 a.addr a.data { f t with atomics := (f t).atomics.filter fun b => b.id != a.id }) := fun f hf =>
    ⟨fun t h => (writeSpan_sound _ _ _).mem _ (hf.mem t h), fun t h => (writeSpan_sound _ _ _).maps _ (hf.maps t h)⟩
  unfold commitAtomic
  split
  · exact h3 _ h1
  · exact h3 _ ((commitMap_sound _ _).comp h1)
  · exact h3 _ ((commitMap_sound _ _).comp h1)

theorem replay_rises (bad : Option Nat) (i : Nat) (q : Word32) (m : SMap Nat) (l : List (BitVec 128)) (h : keysRise m) : keysRise (replay bad i q m l).1 := by
  have put : ∀ (m : SMap Nat) (e : Nat × Nat), keysRise m → keysRise (if e.1 = e.2 then smErase m e.1 else smSet m e.1 e.2) := fun m e h => by
    split
    · exact keysRise_smErase _ _ h
    · exact keysRise_smSet _ _ _ h
  induction l generalizing i q m with
  | nil => exact h
  | cons b rest ih =>
    unfold replay; split
    · exact h
    · rename_i w _; split
      · exact h
      · dsimp only; apply ih
        cases w.second with
        | none => exact put _ (w.log0, w.phy0) h
        | some e => exact put _ _ (put _ (w.log0, w.phy0) h)

theorem newestSnap_rises (t : Sto) (h : mapsRise t.map (t.snaps.map (Option.map MapSnap.map))) : keysRise (newestSnap t).map := by
  have g : ∀ i m, vGet t.snaps i none = some m → keysRise m.map := fun i m e => by
    refine h.2 _ ?_
    simp only [Vector.toList_map, List.mem_map]
    refine ⟨some m, ?_, rfl⟩
    unfold vGet at e
    cases hi : t.snaps[i]? with
    | none => simp [hi] at e
    | some o =>
      rw [hi] at e; simp at e; subst e
      have hl : i < 2 := by
        rcases Nat.lt_or_ge i 2 with hl | hl
        · exact hl
        · simp [Vector.getElem?_eq_none hl] at hi
      rw [Vector.getElem?_eq_getElem hl] at hi
      simp at hi; exact hi ▸ (by simp)
  unfold newestSnap; split
  · split <;> exact g _ _ ‹_›
  · exact g _ _ ‹_›
  · exact g _ _ ‹_›
  · simp [keysRise]

theorem mapRecover_sound (bad : Option Nat) : Sound (mapRecover bad) :=
  ⟨fun _ h => h, fun t h => ⟨replay_rises _ _ _ _ _ (newestSnap_rises t h), h.2⟩⟩

theorem regAccess_grows {k : Kept} (early : Bool) (f : State → State) (s : State) (hf : ∀ t, Grows k (kept t) → Grows k (kept (f t))) (h : Grows k (kept s)) :
    Grows k (kept (regAccess early f s)) := by
  unfold regAccess; dsimp only; split
  · simpa using h
  · exact hf _ (by simpa using h)

theorem setFuse_grows {k : Kept} (row : Nat) (p : BitVec 140) (b : Fuse) (s : State) (h : Grows k (kept s)) :
    Grows k (kept (setFuse row (blow (fuseAt s row) p b) s)) := by
  refine h.trans ⟨rfl, rfl, id, id, fun r => ?_⟩
  show fuseGains (smGetD s.tch.rows r {}) (smGetD (smSet s.tch.rows row (blow (fuseAt s row) p b)) r {})
  by_cases e : r = row
  · subst e; rw [smGetD_smSet_self]; exact fuseGains_blow _ _ _
  · rw [smGetD_smSet_ne _ _ _ _ _ e]; exact fuseGains_refl _

theorem beginWrite_grows {k : Kept} (b : List WaitWrite) (w : WaitWrite) (s t : State) (e : beginWrite b w s = some t) (h : Grows k (kept s)) : Grows k (kept t) := by
  unfold beginWrite at e; dsimp only at e
  split at e
  · cases e
  · split at e
    · split at e
      · cases e
      · obtain ⟨ts, -, rfl⟩ := Option.map_eq_some_iff.mp e
        simpa using h
    · cases e
      rw [finishCmd_kept]; exact updSto_grows (writeSpan_sound _ _ _) _ h

theorem grows_ite {k : Kept} (c : Prop) [Decidable c] (a b : Kept) (ha : Grows k a) (hb : Grows k b) : Grows k (if c then a else b) := by split <;> assumption

/-! ## Every operation that is not covered by `kept` -/

@[simp] theorem stoReset_grows {k : Kept} (s : State) (h : Grows k (kept s)) : Grows k (kept (stoReset s)) :=   h.trans ⟨rfl, rfl, id, fun m => ⟨by simp [keysRise, kept, stoReset], m.2⟩, fun _ => fuseGains_refl _⟩

@[simp] theorem resetBlock_grows {k : Kept} (pg : Nat) (s : State) (h : Grows k (kept s)) : Grows k (kept (resetBlock pg s)) := by
  unfold resetBlock; (try dsimp only); repeat' split
  all_goals simp [h]

@[simp] theorem regionResetStart_grows {k : Kept} (r : Region) (s : State) (h : Grows k (kept s)) : Grows k (kept (regionResetStart r s)) := by
  have h1 : Grows k (kept ((regionPages r).foldl (fun t p => discardRequests p (cellsReset p { t with fab := { t.fab with fenced := setBit t.fab.fenced p (pagePresent t.variant p) } })) s)) :=
    grows_foldl _ (fun t p g => by simp [g]) _ _ h
  unfold regionResetStart
  generalize (regionPages r).foldl (fun t p => discardRequests p (cellsReset p { t with fab := { t.fab with fenced := setBit t.fab.fenced p (pagePresent t.variant p) } })) s = s1 at *
  have h2 : Grows k (kept ((regionQueues r).foldl (fun t q => severQueue q.1 q.2.1 q.2.2 t) s1)) := grows_foldl _ (fun t q g => by simp [g]) _ _ h1
  dsimp only
  generalize (regionQueues r).foldl (fun t q => severQueue q.1 q.2.1 q.2.2 t) s1 = s2 at *
  have h3 : Grows k (kept (if r = .logic then closeCauses (trip0 0x10 0 pgIlkl s2) else s2)) := by split <;> simp [h2]
  generalize (if r = .logic then closeCauses (trip0 0x10 0 pgIlkl s2) else s2) = s3 at *
  have h4 : Grows k (kept ((regionPages r).foldl (fun t p => resetBlock p t) s3)) := grows_foldl _ (fun t p g => resetBlock_grows _ _ g) _ _ h3
  generalize (regionPages r).foldl (fun t p => resetBlock p t) s3 = s4 at *
  cases r
  · simp [h4]
  · simp [h4]
  · exact h4
  · refine grows_foldl _ (fun t p g => ?_) _ _ h4
    split <;> simp [g]
  · exact h4

@[simp] theorem blockResetStart_grows {k : Kept} (pg : Nat) (s : State) (h : Grows k (kept s)) : Grows k (kept (blockResetStart pg s)) := by
  unfold blockResetStart; (try dsimp only)
  all_goals simp [h]

@[simp] theorem takeReset_grows {k : Kept} (t : ResetTarget) (s : State) (h : Grows k (kept s)) : Grows k (kept (takeReset t s)) := by
  unfold takeReset; split
  · exact grows_foldl _ (fun t p g => by simp [g]) _ _ (regionResetStart_grows _ _ h)
  · simp [h]

@[simp] theorem startReset_grows {k : Kept} (t : ResetTarget) (fromFcr : Bool) (s : State) (h : Grows k (kept s)) : Grows k (kept (startReset t fromFcr s)) := by
  unfold startReset; (try dsimp only); repeat' split
  all_goals simp [h]

@[simp] theorem chipReset_grows {k : Kept} (cause : ChipCause) (s : State) (h : Grows k (kept s)) : Grows k (kept (chipReset cause s)) := by
  unfold chipReset
  refine grows_foldl _ (fun t p g => ?_) _ _ (h.trans ⟨rfl, rfl, id, fun m => ⟨by simp [keysRise, kept], m.2⟩, fun _ => fuseGains_refl _⟩)
  split <;> simp [g]

@[simp] theorem react_grows {k : Kept} (e : HistEntry) (page : Nat) (s : State) (h : Grows k (kept s)) : Grows k (kept (react e page s)) := by
  unfold react; extract_lets s1 f1 s2 s3 f3 s4 s5 s6 s7
  have h1 : Grows k (kept s1) := by simp only [s1, evtIf_kept]; exact h
  have h2 : Grows k (kept s2) := by simp only [s2]; split <;> exact h1
  have h3 : Grows k (kept s3) := by simp only [s3, errnLow_kept]; exact h2
  have h4 : Grows k (kept s4) := by
    simp only [s4]; split
    · split <;> exact h3
    · exact h2
  have h5 : Grows k (kept s5) := by simp only [s5]; split <;> simp [h4]
  have h6 : Grows k (kept s6) := by simp only [s6]; split <;> simp [h5]
  have h7 : Grows k (kept s7) := by simp only [s7]; split <;> simp [h6]
  split
  · rw [pfStart_kept]; exact h7
  · exact h7

@[simp] theorem recordEvent_grows {k : Kept} (t : Nat) (coincident : Bool) (j : Judged) (s : State) (h : Grows k (kept s)) : Grows k (kept (recordEvent t coincident j s)) := by
  unfold recordEvent; (try dsimp only); repeat' split
  all_goals simp [h]

@[simp] theorem recordAll_grows {k : Kept} (t : Nat) (c : Bool) (l : List Judged) (s : State) (h : Grows k (kept s)) : Grows k (kept (recordAll t c l s)) := by
  induction l generalizing c s with
  | nil => exact h
  | cons j rest ih => exact ih _ _ (recordEvent_grows _ _ _ _ h)

@[simp] theorem faultGroup_grows {k : Kept} (rs : List Report) (s : State) (h : Grows k (kept s)) : Grows k (kept (faultGroup rs s)) := by
  unfold faultGroup; (try dsimp only)
  all_goals simp [h]

@[simp] theorem takeSpare_grows {k : Kept} (p : BitVec 140) (l : List Nat) (b : List Fuse) (s : State) (h : Grows k (kept s)) : Grows k (kept (takeSpare p l b s).2) := by
  induction l generalizing b s with
  | nil => exact h
  | cons i rest ih =>
    unfold takeSpare; dsimp only; split
    · exact setFuse_grows _ _ _ _ h
    · exact ih _ _ (setFuse_grows _ _ _ _ h)

@[simp] theorem takeEntry_grows {k : Kept} (w : Word32) (l : List Nat) (b : List Fuse) (s : State) (h : Grows k (kept s)) : Grows k (kept (takeEntry w l b s).2) := by
  induction l generalizing b s with
  | nil => exact h
  | cons e rest ih =>
    unfold takeEntry; dsimp only; split
    · exact setFuse_grows _ _ _ _ h
    · exact ih _ _ (setFuse_grows _ _ _ _ h)

@[simp] theorem moveRow_grows {k : Kept} (n : Nat) (v : BitVec 128) (spares entries : List Fuse) (s : State) (h : Grows k (kept s)) : Grows k (kept (moveRow n v spares entries s).2) := by
  unfold moveRow; (try dsimp only); repeat' split
  all_goals simp [h]

@[simp] theorem progComplete_grows {k : Kept} (back : Option Fuse) (spares entries : List Fuse) (s : State) (h : Grows k (kept s)) : Grows k (kept (progComplete back spares entries s)) := by
  unfold progComplete; split
  · exact h
  · rename_i r _
    have g := setFuse_grows (k := k) r.row r.pattern (back.getD (exactFuse r.pattern)) { s with tch := { s.tch with run := none } } (by simpa using h)
    have e : fuseAt { s with tch := { s.tch with run := none } } r.row = fuseAt s r.row := rfl
    rw [e] at g
    dsimp only
    generalize setFuse r.row (blow (fuseAt s r.row) r.pattern (back.getD (exactFuse r.pattern))) { s with tch := { s.tch with run := none } } = u at *
    repeat' split
    all_goals simp [g]

@[simp] theorem progCut_grows {k : Kept} (code : Nat) (back : Fuse) (s : State) (h : Grows k (kept s)) : Grows k (kept (progCut code back s)) := by
  unfold progCut; split
  · exact h
  · rw [tchEnd_kept]; exact setFuse_grows _ _ _ { s with tch := { s.tch with run := none } } (by simpa using h)

@[simp] theorem beginWaits_grows {k : Kept} (b l : List WaitWrite) (s : State) (h : Grows k (kept s)) : Grows k (kept (beginWaits b l s).2) := by
  induction l generalizing b s with
  | nil => exact h
  | cons w rest ih =>
    unfold beginWaits; split
    · exact ih _ _ (beginWrite_grows _ _ _ _ ‹_› h)
    · exact ih _ _ h

@[simp] theorem wakeWrites_grows {k : Kept} (s : State) (h : Grows k (kept s)) : Grows k (kept (wakeWrites s)) := by
  unfold wakeWrites; dsimp only; rw [updSto_kept _ _ rfl rfl rfl]; exact beginWaits_grows _ _ _ h

@[simp] theorem acceptWrite_grows {k : Kept} (w : WaitWrite) (s : State) (h : Grows k (kept s)) : Grows k (kept (acceptWrite w s)) := by
  unfold acceptWrite; split
  · exact beginWrite_grows _ _ _ _ ‹_› h
  · simpa using h

@[simp] theorem hostWrite_grows {k : Kept} (atomic : Bool) (id : CmdId) (dma : Bool) (given : List Byte) (s : State) (h : Grows k (kept s)) : Grows k (kept (hostWrite atomic id dma given s)) := by
  unfold hostWrite; split
  · exact h
  · dsimp only; split
    · simpa using h
    · split
      · simpa using h
      · split
        · rw [finishCmd_kept]; exact h
        · have g : kept (takeData ‹Cmd› dma given (issue .hostAccess (cmdPage ‹Cmd›) pgSto ((Cmd.desc ‹Cmd›).length.toNat / 16) s)).2 = kept s := by simp
          split
          · rename_i e; rw [e] at g; exact acceptWrite_grows _ _ (by rw [g]; exact h)
          · rename_i e; rw [e] at g; rw [dmaError_kept, g]; exact h

@[simp] theorem parkRequest_grows {k : Kept} (done : List CmdId) (s : State) (h : Grows k (kept s)) : Grows k (kept (parkRequest done s)) := by
  unfold parkRequest; split
  · exact h
  · have g := grows_foldl (fun u a => if done.contains a.id then finishCmd a.id { result := 0, count := a.data.length } (updSto (commitAtomic a) u) else u)
      (fun t a g => by split; · rw [finishCmd_kept]; exact updSto_grows (commitAtomic_sound _) _ g
                       exact g) s.sto.atomics s h
    dsimp only at g ⊢
    simpa using g

@[simp] theorem writeItem_grows {k : Kept} (a : Nat) (l : List Byte) (s : State) (h : Grows k (kept s)) : Grows k (kept (writeItem a l s)) := updSto_grows (writeSpan_sound _ _ _) s h

@[simp] theorem raiseFloor_grows {k : Kept} (s : State) (h : Grows k (kept s)) : Grows k (kept (raiseFloor s)) := updSto_grows (f := fun t => writeSnapshot { t with floor := t.floor + 2 ^ 40 }) ⟨fun _ h => h, fun t h => writeSnapshot_sound.maps { t with floor := t.floor + 2 ^ 40 } h⟩ s h

@[simp] theorem ringWrite_grows {k : Kept} (g : Ring) (p : Nat) (l : List Byte) (s : State) (h : Grows k (kept s)) : Grows k (kept (ringWrite g p l s)) := by
  unfold ringWrite; dsimp only; split
  · exact updSto_grows (writeSpan_sound _ _ _) _ h
  · exact updSto_grows (writeSpan_sound _ _ _) _ (updSto_grows (writeSpan_sound _ _ _) _ h)

@[simp] theorem writeIndex_grows {k : Kept} (g : Ring) (p seq : Nat) (s : State) (h : Grows k (kept s)) : Grows k (kept (writeIndex g p seq s)) := updSto_grows (writeSpan_sound _ _ _) s h

@[simp] theorem writeAnchor_grows {k : Kept} (no : Word32) (pf : Bool) (s : State) (h : Grows k (kept s)) : Grows k (kept (writeAnchor no pf s)) := by
  unfold writeAnchor; rw [updJrn_kept]; exact updSto_grows (writeSpan_sound _ _ _) s h

@[simp] theorem drainRecord_grows {k : Kept} (g : Ring) (ws : List (Nat × WordCheck)) (i : Nat) (b : BufRec) (s : State) (h : Grows k (kept s)) : Grows k (kept (drainRecord g ws i b s)) := by
  unfold drainRecord; (try dsimp only); repeat' split
  all_goals simp [h]

@[simp] theorem drainRecords_grows {k : Kept} (g : Ring) (ws : List (Nat × WordCheck)) (i : Nat) (l : List BufRec) (s : State) (h : Grows k (kept s)) : Grows k (kept (drainRecords g ws i l s)) := by
  induction l generalizing i s with
  | nil => exact h
  | cons b t ih => exact ih _ _ (drainRecord_grows _ _ _ _ _ h)

@[simp] theorem commitBatch_grows {k : Kept} (ws : List (Nat × WordCheck)) (s : State) (h : Grows k (kept s)) : Grows k (kept (commitBatch ws s)) := by
  unfold commitBatch; dsimp only; split
  · exact h
  · rw [wakeFlushes_kept, sealMark_kept, judgeCover_kept]
    generalize hs : (updJrn _ _ : State) = u
    have g : Grows k (kept u) := by
      rw [← hs, updJrn_kept]
      apply ringWrite_grows
      split
      · rw [advanceOldest_kept]; exact drainRecords_grows _ _ _ _ _ h
      · exact drainRecords_grows _ _ _ _ _ h
    split
    · exact writeAnchor_grows _ _ _ g
    · exact g

@[simp] theorem formatJournal_grows {k : Kept} (g : Ring) (old : Option Anchor) (s : State) (h : Grows k (kept s)) : Grows k (kept (formatJournal g old s).1) := by
  unfold formatJournal; dsimp only; rw [evt_kept]
  apply writeAnchor_grows
  rw [provisionalFrom_kept, updJrn_kept]
  exact updSto_grows (writeSpan_sound _ _ _) _ (raiseFloor_grows _ h)

@[simp] theorem recoverFrom_grows {k : Kept} (g : Ring) (fs : List (Nat × WordCheck)) (a : Anchor) (s : State) (h : Grows k (kept s)) : Grows k (kept (recoverFrom g fs a s)) := by
  have g : ∀ (l : List (Nat × Nat)) (u : State), Grows k (kept u) → Grows k (kept (l.foldl (fun u e => writeIndex g e.1 e.2 u) u)) := grows_foldl _ (fun t e g => writeIndex_grows _ _ _ _ g)
  unfold recoverFrom; dsimp only
  rw [kept_ite, report0_kept, ite_self]
  apply writeAnchor_grows
  rw [provisionalFrom_kept, advanceOldest_kept]
  apply g
  rw [updJrn_kept, walk_kept]; exact h

@[simp] theorem recoverWith_grows {k : Kept} (g : Ring) (fs : List (Nat × WordCheck)) (merge : Nat) (x : Option Anchor) (s : State) (h : Grows k (kept s)) : Grows k (kept (recoverWith g fs merge x s)) := by
  unfold recoverWith; dsimp only
  rw [handOver_kept, recompute_kept, directRecord_kept]
  split
  · rw [directRecord_kept, evt_kept, updJrn_kept]; exact formatJournal_grows _ _ _ h
  · split
    · rw [evt_kept, updJrn_kept]; exact recoverFrom_grows _ _ _ _ h
    · rw [directRecord_kept, evt_kept, updJrn_kept]; exact formatJournal_grows _ _ _ h

@[simp] theorem recoverJournal_grows {k : Kept} (fs : List (Nat × WordCheck)) (merge : Nat) (s : State) (h : Grows k (kept s)) : Grows k (kept (recoverJournal fs merge s)) := by
  unfold recoverJournal; split
  · exact h
  · exact recoverWith_grows _ _ _ _ _ (by rw [newestAnchor_kept]; exact h)

@[simp] theorem syncCopies_grows {k : Kept} (s : State) (h : Grows k (kept s)) : Grows k (kept (syncCopies s).2) := by
  unfold syncCopies; dsimp only; split
  · exact h
  · split
    · rw [injectedReads_kept]; exact h
    · split
      · rw [readImage_kept, injectedReads_kept]; exact h
      · rw [readImage_kept, injectedReads_kept]; exact h
      · split
        · rw [readItem_kept, readImage_kept, injectedReads_kept]; exact h
        · exact writeItem_grows _ _ _ (by rw [readItem_kept, readImage_kept, injectedReads_kept]; exact h)

@[simp] theorem installEnd_grows {k : Kept} (r : LoaderRun) (readBack previous : Bool) (s : State) (h : Grows k (kept s)) : Grows k (kept (installEnd r readBack previous s)) := by
  unfold installEnd; (try dsimp only); repeat' split
  all_goals simp [h]

@[simp] theorem writeRecord_grows {k : Kept} (r : BootRec) (s : State) (h : Grows k (kept s)) : Grows k (kept (writeRecord r s)) := by
  unfold writeRecord; (try dsimp only); repeat' split
  all_goals simp [h]

@[simp] theorem feedReturns_grows {k : Kept} (s : State) (h : Grows k (kept s)) : Grows k (kept (feedReturns s)) := by
  unfold feedReturns; repeat' split
  all_goals simp [h]

@[simp] theorem rstCmdWrite_grows {k : Kept} (v : Word32) (s : State) (h : Grows k (kept s)) : Grows k (kept (rstCmdWrite v s)) := by
  unfold rstCmdWrite; (try dsimp only); repeat' split
  all_goals simp [h]

@[simp] theorem pageRestart_grows {k : Kept} (l : List Nat) (bad : BitVec 64) (readBack : Bool) (fs : List (Nat × WordCheck)) (s : State) (h : Grows k (kept s)) : Grows k (kept (pageRestart l bad readBack fs s)) := by
  unfold pageRestart; (try dsimp only); repeat' split
  all_goals simp [h]

@[simp] theorem pageWrite_grows {k : Kept} (i : Iface) (p off : Nat) (v : Word32) (s : State) (h : Grows k (kept s)) : Grows k (kept (pageWrite i p off v s)) := by
  unfold pageWrite; (try dsimp only); repeat' split
  all_goals simp [h]

@[simp] theorem fieldWrite_grows {k : Kept} (i : Iface) (p off : Nat) (keyed : Bool) (v : Word32) (s : State) (h : Grows k (kept s)) : Grows k (kept (fieldWrite i p off keyed v s)) := by
  unfold fieldWrite; (try dsimp only); repeat' split
  all_goals simp [h]

@[simp] theorem presentWrite_grows {k : Kept} (i : Iface) (p off : Nat) (keyed : Bool) (v : Word32) (s : State) (h : Grows k (kept s)) : Grows k (kept (presentWrite i p off keyed v s)) := by
  unfold presentWrite; repeat' split
  all_goals simp [h]

@[simp] theorem regWrite_grows {k : Kept} (i : Iface) (p off : Nat) (v : Word32) (s : State) (h : Grows k (kept s)) : Grows k (kept (regWrite i p off v s)) := by
  unfold regWrite; repeat' split
  all_goals simp [h]

@[simp] theorem mgtWrites_grows {k : Kept} (a : Nat) (l : List Word32) (n : Nat) (st : BitVec 8) (s : State) (h : Grows k (kept s)) : Grows k (kept (mgtWrites a l n st s).2) := by
  induction l generalizing n st s with
  | nil => exact h
  | cons v t ih => exact ih _ _ _ (regWrite_grows _ _ _ _ _ (by rw [accessTraffic_kept]; exact h))

@[simp] theorem mgtServeWrite_grows {k : Kept} (mode3 : Bool) (a : Nat) (l : List Word32) (s : State) (h : Grows k (kept s)) : Grows k (kept (mgtServeWrite mode3 a l s)) := by
  unfold mgtServeWrite; (try dsimp only)
  all_goals simp [h]

@[simp] theorem mgtServeKeyed_grows {k : Kept} (mode3 : Bool) (a : Nat) (v : Word32) (s : State) (h : Grows k (kept s)) : Grows k (kept (mgtServeKeyed mode3 a v s)) := by
  unfold mgtServeKeyed; (try dsimp only); repeat' split
  all_goals simp [h]

@[simp] theorem mgtFrame_grows {k : Kept} (f : MgtFrame) (s : State) (h : Grows k (kept s)) : Grows k (kept (mgtFrame f s)) := by
  unfold mgtFrame; (try dsimp only); repeat' split
  all_goals simp [h]

@[simp] theorem abortAccess_grows {k : Kept} (a : MgtAbort) (s : State) (h : Grows k (kept s)) : Grows k (kept (abortAccess a s)) := by
  unfold abortAccess; repeat' split
  all_goals simp [h]

@[simp] theorem dbgWrite_grows {k : Kept} (a : BitVec 20) (v : Word32) (s : State) (h : Grows k (kept s)) : Grows k (kept (dbgWrite a v s)) := by
  unfold dbgWrite; (try dsimp only)
  all_goals simp [h]

@[simp] theorem dbgKeyed_grows {k : Kept} (a : BitVec 20) (v : Word32) (s : State) (h : Grows k (kept s)) : Grows k (kept (dbgKeyed a v s)) := by
  unfold dbgKeyed; (try dsimp only)
  all_goals simp [h]

@[simp] theorem pcieWrite_grows {k : Kept} (p off : Nat) (v : Word32) (s : State) (h : Grows k (kept s)) : Grows k (kept (pcieWrite p off v s)) := by
  unfold pcieWrite; repeat' split
  all_goals simp [h]

@[simp] theorem ifaceWrite_grows {k : Kept} (i : Iface) (p off : Nat) (v : Word32) (s : State) (h : Grows k (kept s)) : Grows k (kept (ifaceWrite i p off v s)) := by
  unfold ifaceWrite; split
  · simp [h]
  · split <;> simp [h]
  · exact regAccess_grows _ _ _ (fun t g => dbgWrite_grows _ _ _ g) h

@[simp] theorem keyedWrite_grows {k : Kept} (i : Iface) (p off : Nat) (v : Word32) (s : State) (h : Grows k (kept s)) : Grows k (kept (keyedWrite i p off v s)) := by
  unfold keyedWrite; split
  · simp [h]
  · split <;> simp [h]
  · exact regAccess_grows _ _ _ (fun t g => dbgKeyed_grows _ _ _ g) h

@[simp] theorem loaderWrite_grows {k : Kept} (i : Iface) (op : Nat) (copy : Bool) (s : State) (h : Grows k (kept s)) : Grows k (kept (loaderWrite i op copy s)) := by
  unfold loaderWrite
  all_goals simp [h]

@[simp] theorem hclaim_grows {k : Kept} (i : Iface) (op : Nat) (kind : BitVec 3) (index : BitVec 7) (busy : Bool) (s : State) (h : Grows k (kept s)) : Grows k (kept (hclaim i op kind index busy s)) := by
  unfold hclaim; (try dsimp only)
  all_goals simp [h]

@[simp] theorem tchWrite_grows {k : Kept} (i : Iface) (op margin row : Nat) (force : Bool) (s : State) (h : Grows k (kept s)) : Grows k (kept (tchWrite i op margin row force s)) := by
  unfold tchWrite
  all_goals simp [h]

@[simp] theorem tearCopy_grows {k : Kept} (s : State) (h : Grows k (kept s)) : Grows k (kept (tearCopy s)) := by
  unfold tearCopy; dsimp only; repeat' split
  · exact h
  · exact h
  · exact updSto_grows (writeSpan_sound _ _ _) _ h

@[simp] theorem railsDown_grows {k : Kept} (s : State) (h : Grows k (kept s)) : Grows k (kept (railsDown s)) := by
  unfold railsDown; rw [updPwr_kept]; exact tearCopy_grows s h

/-- The store right after reset has the canonical form. -/
theorem reset_mem_wf : Memory.wf State.reset.sto.mem = true := rfl

end Sys2Proof.Machine
end

