-- ==== Sys2Proof/Laws/Meanings.lean ====
section
/-! SUPPORT. Every meaning answers a next state, and what stands across it (`Grows`). -/

namespace Sys2Proof.Machine

theorem execFaultReport_grows (n : Nat) (more : List Report) (s : State) : ∃ u, execFaultReport n more s = .next u ∧ Grows (kept s) (kept u) := by
  unfold execFaultReport; (try dsimp only)
  all_goals exact ⟨_, rfl, by simp⟩

theorem execFaultChipReset_grows (atLimit : Bool) (s : State) : ∃ u, execFaultChipReset atLimit s = .next u ∧ Grows (kept s) (kept u) := by
  unfold execFaultChipReset; repeat' split
  all_goals exact ⟨_, rfl, by simp⟩

theorem execErrnRelease_grows (s : State) : ∃ u, execErrnRelease s = .next u ∧ Grows (kept s) (kept u) := by
  unfold execErrnRelease; (try dsimp only); repeat' split
  all_goals exact ⟨_, rfl, by simp⟩

theorem execCounterStart_grows (s : State) : ∃ u, execCounterStart s = .next u ∧ Grows (kept s) (kept u) := by
  unfold execCounterStart; (try dsimp only); repeat' split
  all_goals exact ⟨_, rfl, by simp⟩

theorem execSystemViewSnapshot_grows (seq : BitVec 8) (s : State) : ∃ u, execSystemViewSnapshot seq s = .next u ∧ Grows (kept s) (kept u) := by
  unfold execSystemViewSnapshot; (try dsimp only); repeat' split
  all_goals exact ⟨_, rfl, by simp⟩

theorem execTileSnapshot_grows (s : State) : ∃ u, execTileSnapshot s = .next u ∧ Grows (kept s) (kept u) := by
  unfold execTileSnapshot; (try dsimp only); repeat' split
  all_goals exact ⟨_, rfl, by simp⟩

theorem execCompareMatch_grows (n : Nat) (s : State) : ∃ u, execCompareMatch n s = .next u ∧ Grows (kept s) (kept u) := by
  unfold execCompareMatch; (try dsimp only); repeat' split
  all_goals exact ⟨_, rfl, by simp⟩

theorem execCompareWriteEffect_grows (n : Nat) (s : State) : ∃ u, execCompareWriteEffect n s = .next u ∧ Grows (kept s) (kept u) := by
  unfold execCompareWriteEffect; repeat' split
  all_goals exact ⟨_, rfl, by simp⟩

theorem execTimerTick_grows (n : Nat) (s : State) : ∃ u, execTimerTick n s = .next u ∧ Grows (kept s) (kept u) := by
  unfold execTimerTick; (try dsimp only); repeat' split
  all_goals exact ⟨_, rfl, by simp⟩

theorem execTimerWriteEffect_grows (n : Nat) (s : State) : ∃ u, execTimerWriteEffect n s = .next u ∧ Grows (kept s) (kept u) := by
  unfold execTimerWriteEffect; repeat' split
  all_goals exact ⟨_, rfl, by simp⟩

theorem execCellTransactionFail_grows (page cell : Nat) (fresh unserved : Bool) (s : State) : ∃ u, execCellTransactionFail page cell fresh unserved s = .next u ∧ Grows (kept s) (kept u) := by
  unfold execCellTransactionFail; (try dsimp only); repeat' split
  all_goals exact ⟨_, rfl, by simp⟩

theorem execFabricTimeout_grows (page : Nat) (s : State) : ∃ u, execFabricTimeout page s = .next u ∧ Grows (kept s) (kept u) := by
  unfold execFabricTimeout; repeat' split
  all_goals exact ⟨_, rfl, by simp⟩

theorem execFenceRemove_grows (page : Nat) (checked drained : Bool) (s : State) : ∃ u, execFenceRemove page checked drained s = .next u ∧ Grows (kept s) (kept u) := by
  unfold execFenceRemove; repeat' split
  all_goals exact ⟨_, rfl, by simp⟩

theorem execQueueSever_grows (q : Nat) (prod cons : Bool) (s : State) : ∃ u, execQueueSever q prod cons s = .next u ∧ Grows (kept s) (kept u) := by
  unfold execQueueSever; repeat' split
  all_goals exact ⟨_, rfl, by simp⟩

theorem execQueueRejoining_grows (q : RejoinAsk) (s : State) : ∃ u, execQueueRejoining q s = .next u ∧ Grows (kept s) (kept u) := by
  unfold execQueueRejoining; repeat' split
  all_goals exact ⟨_, rfl, by simp⟩

theorem execQueueJoined_grows (q : Nat) (resetProd resetCons : Bool) (s : State) : ∃ u, execQueueJoined q resetProd resetCons s = .next u ∧ Grows (kept s) (kept u) := by
  unfold execQueueJoined; repeat' split
  all_goals exact ⟨_, rfl, by simp⟩

theorem execClkMeasDone_grows (freq : BitVec 24) (s : State) : ∃ u, execClkMeasDone freq s = .next u ∧ Grows (kept s) (kept u) := by
  unfold execClkMeasDone; (try dsimp only); repeat' split
  all_goals exact ⟨_, rfl, by simp⟩

theorem execPllUnlock_grows (b : Fin 4) (perstLow : Bool) (s : State) : ∃ u, execPllUnlock b perstLow s = .next u ∧ Grows (kept s) (kept u) := by
  unfold execPllUnlock; (try dsimp only); repeat' split
  all_goals exact ⟨_, rfl, by simp⟩

theorem execMonFail_grows (b : Fin 7) (perstLow : Bool) (s : State) : ∃ u, execMonFail b perstLow s = .next u ∧ Grows (kept s) (kept u) := by
  unfold execMonFail; (try dsimp only); repeat' split
  all_goals exact ⟨_, rfl, by simp⟩

theorem execProgComplete_grows (back : Option Fuse) (spares entries : List Fuse) (s : State) : ∃ u, execProgComplete back spares entries s = .next u ∧ Grows (kept s) (kept u) := by
  unfold execProgComplete
  all_goals exact ⟨_, rfl, by simp⟩

theorem execProgWindowLost_grows (back : Fuse) (s : State) : ∃ u, execProgWindowLost back s = .next u ∧ Grows (kept s) (kept u) := by
  unfold execProgWindowLost
  all_goals exact ⟨_, rfl, by simp⟩

theorem execRowMove_grows (spares entries : List Fuse) (s : State) : ∃ u, execRowMove spares entries s = .next u ∧ Grows (kept s) (kept u) := by
  unfold execRowMove; (try dsimp only); repeat' split
  all_goals exact ⟨_, rfl, by simp⟩

theorem execRead_grows (id : CmdId) (dma : Bool) (fs : List (Nat × WordCheck)) (s : State) : ∃ u, execRead id dma fs s = .next u ∧ Grows (kept s) (kept u) := by
  unfold execRead; (try dsimp only); repeat' split
  all_goals exact ⟨_, rfl, by simp⟩

theorem execWrite_grows (id : CmdId) (dma : Bool) (given : List Byte) (s : State) : ∃ u, execWrite id dma given s = .next u ∧ Grows (kept s) (kept u) := by
  unfold execWrite
  all_goals exact ⟨_, rfl, by simp⟩

theorem execWriteAtomic_grows (id : CmdId) (dma : Bool) (given : List Byte) (s : State) : ∃ u, execWriteAtomic id dma given s = .next u ∧ Grows (kept s) (kept u) := by
  unfold execWriteAtomic
  all_goals exact ⟨_, rfl, by simp⟩

theorem execAtomicCommit_grows (id : CmdId) (s : State) : ∃ u, execAtomicCommit id s = .next u ∧ Grows (kept s) (kept u) := by
  unfold execAtomicCommit; split
  · exact ⟨_, rfl, by simp⟩
  · refine ⟨_, rfl, ?_⟩
    rw [wakeFlushes_kept]; apply wakeWrites_grows; rw [finishCmd_kept]
    exact updSto_grows (commitAtomic_sound _) _ (Grows.refl _)

theorem execMigrationDone_grows (lost : MigrationEnd) (s : State) : ∃ u, execMigrationDone lost s = .next u ∧ Grows (kept s) (kept u) := by
  have n : ∀ (f : Sto → Sto) (u : State), kept (updSto f u) = kept u → kept (updSto (fun t => noteBanks (f t)) u) = kept u := fun f u h => by
    rw [← h]; simp only [kept, updSto, noteBanks_snaps, noteBanks_mem, noteBanks_map]
  unfold execMigrationDone; split
  · exact ⟨_, rfl, by simp⟩
  · refine ⟨_, rfl, ?_⟩
    rw [kept_foldl _ (by simp), evt_kept, n _ _ (updSto_kept _ _ rfl rfl rfl)]; exact Grows.refl _

theorem execScrubStep_grows (fs : List (Nat × WordCheck)) (s : State) : ∃ u, execScrubStep fs s = .next u ∧ Grows (kept s) (kept u) := by
  unfold execScrubStep; (try dsimp only); repeat' split
  all_goals exact ⟨_, rfl, by simp⟩

theorem execParkRequest_grows (done : List CmdId) (s : State) : ∃ u, execParkRequest done s = .next u ∧ Grows (kept s) (kept u) := by
  unfold execParkRequest; repeat' split
  all_goals exact ⟨_, rfl, by simp⟩

theorem execStoreParked_grows (s : State) : ∃ u, execStoreParked s = .next u ∧ Grows (kept s) (kept u) := by
  unfold execStoreParked; repeat' split
  all_goals exact ⟨_, rfl, by simp⟩

theorem execVerifyRequest_grows (rank obj copy slot : Nat) (pk msg sig : List Byte) (s : State) : ∃ u, execVerifyRequest rank obj copy slot pk msg sig s = .next u ∧ Grows (kept s) (kept u) := by
  unfold execVerifyRequest; (try dsimp only); repeat' split
  all_goals exact ⟨_, rfl, by simp⟩

theorem execVerifyDone_grows (us : Nat) (s : State) : ∃ u, execVerifyDone us s = .next u ∧ Grows (kept s) (kept u) := by
  unfold execVerifyDone; (try dsimp only); repeat' split
  all_goals exact ⟨_, rfl, by simp⟩

theorem execAttest_grows (id : CmdId) (s : State) : ∃ u, execAttest id s = .next u ∧ Grows (kept s) (kept u) := by
  unfold execAttest; repeat' split
  all_goals exact ⟨_, rfl, by simp⟩

theorem execSigningStep_grows (last selfOk dma : Bool) (s : State) : ∃ u, execSigningStep last selfOk dma s = .next u ∧ Grows (kept s) (kept u) := by
  unfold execSigningStep; (try dsimp only); repeat' split
  all_goals exact ⟨_, rfl, by simp⟩

theorem execKeyrecRepair_grows (s : State) : ∃ u, execKeyrecRepair s = .next u ∧ Grows (kept s) (kept u) := by
  unfold execKeyrecRepair; repeat' split
  all_goals exact ⟨_, rfl, by simp⟩

theorem execPatchRepair_grows (s : State) : ∃ u, execPatchRepair s = .next u ∧ Grows (kept s) (kept u) := by
  unfold execPatchRepair; dsimp only; split
  · exact ⟨_, rfl, by simp⟩
  split
  · split
    · exact ⟨_, rfl, by simp⟩
    · refine ⟨_, rfl, ?_⟩
      rw [evt_kept, updHmk_kept]; exact updSto_grows (writeSpan_sound _ _ _) _ (by simp)
  · exact ⟨_, rfl, by simp⟩

theorem execCreditRecompute_grows (holdV : Nat) (s : State) : ∃ u, execCreditRecompute holdV s = .next u ∧ Grows (kept s) (kept u) := by
  unfold execCreditRecompute
  all_goals exact ⟨_, rfl, by simp⟩

theorem execHoldupMeasDue_grows (s : State) : ∃ u, execHoldupMeasDue s = .next u ∧ Grows (kept s) (kept u) := by
  unfold execHoldupMeasDue
  all_goals exact ⟨_, rfl, by simp⟩

theorem execHoldupMeasPostpone_grows (s : State) : ∃ u, execHoldupMeasPostpone s = .next u ∧ Grows (kept s) (kept u) := by
  unfold execHoldupMeasPostpone; repeat' split
  all_goals exact ⟨_, rfl, by simp⟩

theorem execHoldupMeasStart_grows (step : Nat) (s : State) : ∃ u, execHoldupMeasStart step s = .next u ∧ Grows (kept s) (kept u) := by
  unfold execHoldupMeasStart; repeat' split
  all_goals exact ⟨_, rfl, by simp⟩

theorem execHoldupMeasTimerStart_grows (s : State) : ∃ u, execHoldupMeasTimerStart s = .next u ∧ Grows (kept s) (kept u) := by
  unfold execHoldupMeasTimerStart; repeat' split
  all_goals exact ⟨_, rfl, by simp⟩

theorem execHoldupMeasDone_grows (us : Nat) (s : State) : ∃ u, execHoldupMeasDone us s = .next u ∧ Grows (kept s) (kept u) := by
  unfold execHoldupMeasDone; (try dsimp only); repeat' split
  all_goals exact ⟨_, rfl, by simp⟩

theorem execHoldupMeasTimeout_grows (s : State) : ∃ u, execHoldupMeasTimeout s = .next u ∧ Grows (kept s) (kept u) := by
  unfold execHoldupMeasTimeout; repeat' split
  all_goals exact ⟨_, rfl, by simp⟩

theorem execGapRecord_grows (s : State) : ∃ u, execGapRecord s = .next u ∧ Grows (kept s) (kept u) := by
  unfold execGapRecord; repeat' split
  all_goals exact ⟨_, rfl, by simp⟩

theorem execJournalAppend_grows (id : CmdId) (dma : Bool) (given : List Byte) (s : State) : ∃ u, execJournalAppend id dma given s = .next u ∧ Grows (kept s) (kept u) := by
  unfold execJournalAppend; split
  · exact ⟨_, rfl, by simp⟩
  · have g := takeData_kept ‹Cmd› dma given (issue .journalPayload (cmdPage ‹Cmd›) pgJrn (((Cmd.desc ‹Cmd›).length.toNat + 15) / 16) s)
    repeat' split
    all_goals first
      | (rename_i t e; rw [e] at g; replace g : kept t = kept s := g.trans (issue_kept _ _ _ _ _); exact ⟨_, rfl, by simp [g]⟩)
      | exact ⟨_, rfl, by simp⟩

theorem execSnapshot_grows (id : CmdId) (s : State) : ∃ u, execSnapshot id s = .next u ∧ Grows (kept s) (kept u) := by
  unfold execSnapshot; (try dsimp only); repeat' split
  all_goals exact ⟨_, rfl, by simp⟩

theorem execSeqAssign_grows (s : State) : ∃ u, execSeqAssign s = .next u ∧ Grows (kept s) (kept u) := by
  unfold execSeqAssign; repeat' split
  all_goals exact ⟨_, rfl, by simp⟩

theorem execFloorSnapshotDone_grows (s : State) : ∃ u, execFloorSnapshotDone s = .next u ∧ Grows (kept s) (kept u) := by
  unfold execFloorSnapshotDone; repeat' split
  all_goals exact ⟨_, rfl, by simp⟩

theorem execBatchCommit_grows (ws : List (Nat × WordCheck)) (s : State) : ∃ u, execBatchCommit ws s = .next u ∧ Grows (kept s) (kept u) := by
  unfold execBatchCommit; repeat' split
  all_goals exact ⟨_, rfl, by simp⟩

theorem execFlush_grows (id : CmdId) (s : State) : ∃ u, execFlush id s = .next u ∧ Grows (kept s) (kept u) := by
  unfold execFlush; (try dsimp only); repeat' split
  all_goals exact ⟨_, rfl, by simp⟩

theorem execJournalRead_grows (id : CmdId) (dma : Bool) (fs : List (Nat × WordCheck)) (s : State) : ∃ u, execJournalRead id dma fs s = .next u ∧ Grows (kept s) (kept u) := by
  unfold execJournalRead; (try dsimp only); repeat' split
  all_goals exact ⟨_, rfl, by simp⟩

theorem execSealRequest_grows (back : Fuse) (s : State) : ∃ u, execSealRequest back s = .next u ∧ Grows (kept s) (kept u) := by
  unfold execSealRequest; (try dsimp only); repeat' split
  all_goals exact ⟨_, rfl, by simp⟩

theorem execSealingDone_grows (s : State) : ∃ u, execSealingDone s = .next u ∧ Grows (kept s) (kept u) := by
  unfold execSealingDone; (try dsimp only); repeat' split
  all_goals exact ⟨_, rfl, by simp⟩

theorem execLmnPowerOn_grows (s : State) : ∃ u, execLmnPowerOn s = .next u ∧ Grows (kept s) (kept u) := by
  unfold execLmnPowerOn; (try dsimp only); repeat' split
  all_goals exact ⟨_, rfl, by simp⟩

theorem execLmnRoundStart_grows (ticks crossed : Nat) (chk : WordCheck) (s : State) : ∃ u, execLmnRoundStart ticks crossed chk s = .next u ∧ Grows (kept s) (kept u) := by
  unfold execLmnRoundStart; (try dsimp only); repeat' split
  all_goals exact ⟨_, rfl, by simp⟩

theorem execLmnRoundDecision_grows (pins : BitVec 8) (s : State) : ∃ u, execLmnRoundDecision pins s = .next u ∧ Grows (kept s) (kept u) := by
  unfold execLmnRoundDecision; (try dsimp only); repeat' split
  all_goals exact ⟨_, rfl, by simp⟩

theorem execWakeRelease_grows (ticks : Nat) (s : State) : ∃ u, execWakeRelease ticks s = .next u ∧ Grows (kept s) (kept u) := by
  unfold execWakeRelease; repeat' split
  all_goals exact ⟨_, rfl, by simp⟩

theorem execLmnAlignment_grows (ticks : Nat) (s : State) : ∃ u, execLmnAlignment ticks s = .next u ∧ Grows (kept s) (kept u) := by
  unfold execLmnAlignment; (try dsimp only); repeat' split
  all_goals exact ⟨_, rfl, by simp⟩

theorem execLogicDead_grows (s : State) : ∃ u, execLogicDead s = .next u ∧ Grows (kept s) (kept u) := by
  unfold execLogicDead
  all_goals exact ⟨_, rfl, by simp⟩

theorem execVstbyLow_grows (low : Bool) (s : State) : ∃ u, execVstbyLow low s = .next u ∧ Grows (kept s) (kept u) := by
  unfold execVstbyLow; (try dsimp only); repeat' split
  all_goals exact ⟨_, rfl, by simp⟩

theorem execLmnClear_grows (s : State) : ∃ u, execLmnClear s = .next u ∧ Grows (kept s) (kept u) := by
  unfold execLmnClear; (try dsimp only); repeat' split
  all_goals exact ⟨_, rfl, by simp⟩

theorem execCrcDone_grows (n : Nat) (fs : List (Nat × WordCheck)) (s : State) : ∃ u, execCrcDone n fs s = .next u ∧ Grows (kept s) (kept u) := by
  unfold execCrcDone; (try dsimp only); repeat' split
  all_goals exact ⟨_, rfl, by simp⟩

theorem execCrcPeriodicCheck_grows (s : State) : ∃ u, execCrcPeriodicCheck s = .next u ∧ Grows (kept s) (kept u) := by
  unfold execCrcPeriodicCheck; (try dsimp only); repeat' split
  all_goals exact ⟨_, rfl, by simp⟩

theorem execModeTakeEffect_grows (s : State) : ∃ u, execModeTakeEffect s = .next u ∧ Grows (kept s) (kept u) := by
  unfold execModeTakeEffect; repeat' split
  all_goals exact ⟨_, rfl, by simp⟩

theorem execLoaderCmdComplete_grows (readBack previous : Bool) (s : State) : ∃ u, execLoaderCmdComplete readBack previous s = .next u ∧ Grows (kept s) (kept u) := by
  unfold execLoaderCmdComplete; (try dsimp only); repeat' split
  all_goals exact ⟨_, rfl, by simp⟩

theorem execStoreMapRecovery_grows (bad : Option Nat) (s : State) : ∃ u, execStoreMapRecovery bad s = .next u ∧ Grows (kept s) (kept u) := by
  unfold execStoreMapRecovery; dsimp only; split
  · exact ⟨_, rfl, by simp⟩
  · refine ⟨_, rfl, ?_⟩
    have g := updSto_grows (mapRecover_sound bad) s (Grows.refl _)
    split <;> simpa using g

theorem execPtRepair_grows (s : State) : ∃ u, execPtRepair s = .next u ∧ Grows (kept s) (kept u) := by
  unfold execPtRepair; (try dsimp only); repeat' split
  all_goals exact ⟨_, rfl, by simp⟩

theorem execBootSlotSelect_grows (s0 : State) : ∃ u, execBootSlotSelect s0 = .next u ∧ Grows (kept s0) (kept u) := by
  unfold execBootSlotSelect; (try dsimp only); repeat' split
  all_goals exact ⟨_, rfl, by simp⟩

theorem execChunkLoaded_grows (n : Nat) (fs : List (Nat × WordCheck)) (s : State) : ∃ u, execChunkLoaded n fs s = .next u ∧ Grows (kept s) (kept u) := by
  unfold execChunkLoaded; (try dsimp only); repeat' split
  all_goals exact ⟨_, rfl, by simp⟩

theorem execXspiRead_grows (addr : Word32) (k : Nat) (w : WordCheck) (s : State) : ∃ u, execXspiRead addr k w s = .next u ∧ Grows (kept s) (kept u) := by
  unfold execXspiRead; repeat' split
  all_goals exact ⟨_, rfl, by simp⟩

theorem execXspiFastRead_grows (addr : Word32) (k : Nat) (w : WordCheck) (s : State) : ∃ u, execXspiFastRead addr k w s = .next u ∧ Grows (kept s) (kept u) := by
  unfold execXspiFastRead
  all_goals exact ⟨_, rfl, by simp⟩

theorem execXspiReadSfdp_grows (addr : Word32) (k : Nat) (s : State) : ∃ u, execXspiReadSfdp addr k s = .next u ∧ Grows (kept s) (kept u) := by
  unfold execXspiReadSfdp; repeat' split
  all_goals exact ⟨_, rfl, by simp⟩

theorem execXspiReadStatus_grows (k : Nat) (s : State) : ∃ u, execXspiReadStatus k s = .next u ∧ Grows (kept s) (kept u) := by
  unfold execXspiReadStatus
  all_goals exact ⟨_, rfl, by simp⟩

theorem execXspiWriteEnable_grows (s : State) : ∃ u, execXspiWriteEnable s = .next u ∧ Grows (kept s) (kept u) := by
  unfold execXspiWriteEnable
  all_goals exact ⟨_, rfl, by simp⟩

theorem execXspiWriteVolatileConfig_grows (addr : Word32) (v : Byte) (s : State) : ∃ u, execXspiWriteVolatileConfig addr v s = .next u ∧ Grows (kept s) (kept u) := by
  unfold execXspiWriteVolatileConfig
  all_goals exact ⟨_, rfl, by simp⟩

theorem execXspiReadVolatileConfig_grows (addr : Word32) (s : State) : ∃ u, execXspiReadVolatileConfig addr s = .next u ∧ Grows (kept s) (kept u) := by
  unfold execXspiReadVolatileConfig; (try dsimp only); repeat' split
  all_goals exact ⟨_, rfl, by simp⟩

theorem execXspiResetEnable_grows (s : State) : ∃ u, execXspiResetEnable s = .next u ∧ Grows (kept s) (kept u) := by
  unfold execXspiResetEnable
  all_goals exact ⟨_, rfl, by simp⟩

theorem execXspiReset_grows (s : State) : ∃ u, execXspiReset s = .next u ∧ Grows (kept s) (kept u) := by
  unfold execXspiReset; repeat' split
  all_goals exact ⟨_, rfl, by simp⟩

theorem execXspiIgnored_grows (s : State) : ∃ u, execXspiIgnored s = .next u ∧ Grows (kept s) (kept u) := by
  unfold execXspiIgnored
  all_goals exact ⟨_, rfl, by simp⟩

theorem execXspiHwReset_grows (s : State) : ∃ u, execXspiHwReset s = .next u ∧ Grows (kept s) (kept u) := by
  unfold execXspiHwReset
  all_goals exact ⟨_, rfl, by simp⟩

theorem execBootCmdDone_grows (storeOk : Bool) (s : State) : ∃ u, execBootCmdDone storeOk s = .next u ∧ Grows (kept s) (kept u) := by
  unfold execBootCmdDone; (try dsimp only); repeat' split
  all_goals exact ⟨_, rfl, by simp⟩

theorem execQueueDrained_grows (q : Fin 4) (s : State) : ∃ u, execQueueDrained q s = .next u ∧ Grows (kept s) (kept u) := by
  unfold execQueueDrained; (try dsimp only); repeat' split
  all_goals exact ⟨_, rfl, by simp⟩

theorem execDescriptorFetch_grows (d : Desc) (dma : Bool) (w : WordCheck) (s : State) : ∃ u, execDescriptorFetch d dma w s = .next u ∧ Grows (kept s) (kept u) := by
  unfold execDescriptorFetch; (try dsimp only); repeat' split
  all_goals exact ⟨_, rfl, by simp⟩

theorem execCommandCompletion_grows (id : CmdId) (s : State) : ∃ u, execCommandCompletion id s = .next u ∧ Grows (kept s) (kept u) := by
  unfold execCommandCompletion; (try dsimp only); repeat' split
  all_goals exact ⟨_, rfl, by simp⟩

theorem execCqCoalTimeout_grows (q : Fin 4) (s : State) : ∃ u, execCqCoalTimeout q s = .next u ∧ Grows (kept s) (kept u) := by
  unfold execCqCoalTimeout; (try dsimp only); repeat' split
  all_goals exact ⟨_, rfl, by simp⟩

theorem execBar2Read_grows (a n : Nat) (fs : List (Nat × WordCheck)) (s : State) : ∃ u, execBar2Read a n fs s = .next u ∧ Grows (kept s) (kept u) := by
  unfold execBar2Read; (try dsimp only); repeat' split
  all_goals exact ⟨_, rfl, by simp⟩

theorem execBar2Write_grows (_a : Nat) (_data : List Byte) (s : State) : ∃ u, execBar2Write _a _data s = .next u ∧ Grows (kept s) (kept u) := by
  unfold execBar2Write; split
  all_goals exact ⟨_, rfl, by simp⟩

theorem execPcieReset_grows (k : PcieReset) (s : State) : ∃ u, execPcieReset k s = .next u ∧ Grows (kept s) (kept u) := by
  unfold execPcieReset; dsimp only; split
  all_goals exact ⟨_, rfl, by simp⟩

theorem execPcieLinkUp_grows (width : BitVec 2) (speed : BitVec 3) (s : State) : ∃ u, execPcieLinkUp width speed s = .next u ∧ Grows (kept s) (kept u) := by
  unfold execPcieLinkUp; (try dsimp only)
  all_goals exact ⟨_, rfl, by simp⟩

theorem execPcieConfigWrite_grows (bme msixEn msixMask d3 : Bool) (s : State) : ∃ u, execPcieConfigWrite bme msixEn msixMask d3 s = .next u ∧ Grows (kept s) (kept u) := by
  unfold execPcieConfigWrite; dsimp only; split
  all_goals exact ⟨_, rfl, by simp⟩

theorem execFeedWindowEnter_grows (b : Bool) (v : BitVec 12) (s : State) : ∃ u, execFeedWindowEnter b v s = .next u ∧ Grows (kept s) (kept u) := by
  unfold execFeedWindowEnter; (try dsimp only); repeat' split
  all_goals exact ⟨_, rfl, by simp⟩

theorem execFeedWindowLeave_grows (b : Bool) (v : BitVec 12) (s : State) : ∃ u, execFeedWindowLeave b v s = .next u ∧ Grows (kept s) (kept u) := by
  unfold execFeedWindowLeave; (try dsimp only); repeat' split
  all_goals exact ⟨_, rfl, by simp⟩

theorem execFeedQualified_grows (b : Bool) (s : State) : ∃ u, execFeedQualified b s = .next u ∧ Grows (kept s) (kept u) := by
  unfold execFeedQualified; repeat' split
  all_goals exact ⟨_, rfl, by simp⟩

theorem execFeedFail_grows (a b : Bool) (gap : Nat) (va vb : BitVec 12) (s : State) : ∃ u, execFeedFail a b gap va vb s = .next u ∧ Grows (kept s) (kept u) := by
  unfold execFeedFail; (try dsimp only); repeat' split
  all_goals exact ⟨_, rfl, by simp⟩

theorem execBrownout_grows (r : Fin 3) (s : State) : ∃ u, execBrownout r s = .next u ∧ Grows (kept s) (kept u) := by
  unfold execBrownout
  all_goals exact ⟨_, rfl, by simp⟩

theorem execRailRange_grows (r : Fin 3) (mv : BitVec 12) (out : Bool) (s : State) : ∃ u, execRailRange r mv out s = .next u ∧ Grows (kept s) (kept u) := by
  unfold execRailRange; (try dsimp only); repeat' split
  all_goals exact ⟨_, rfl, by simp⟩

theorem execBridgeTakeover_grows (r : Fin 3) (mv : BitVec 12) (s : State) : ∃ u, execBridgeTakeover r mv s = .next u ∧ Grows (kept s) (kept u) := by
  unfold execBridgeTakeover
  all_goals exact ⟨_, rfl, by simp⟩

theorem execChargeDone_grows (s : State) : ∃ u, execChargeDone s = .next u ∧ Grows (kept s) (kept u) := by
  unfold execChargeDone; repeat' split
  all_goals exact ⟨_, rfl, by simp⟩

theorem execChargeResume_grows (s : State) : ∃ u, execChargeResume s = .next u ∧ Grows (kept s) (kept u) := by
  unfold execChargeResume; repeat' split
  all_goals exact ⟨_, rfl, by simp⟩

theorem execPowerFailStart_grows (causes : BitVec 4) (s : State) : ∃ u, execPowerFailStart causes s = .next u ∧ Grows (kept s) (kept u) := by
  unfold execPowerFailStart
  all_goals exact ⟨_, rfl, by simp⟩

theorem execEnterParked_grows (s : State) : ∃ u, execEnterParked s = .next u ∧ Grows (kept s) (kept u) := by
  have h : ∀ (y : Sys) (z : Hmk), Grows (kept s) (kept (scanHalt (tearCopy { s with sys := y, hmk := z }))) := fun y z => by
    rw [scanHalt_kept]; exact tearCopy_grows _ (Grows.refl _)
  unfold execEnterParked; dsimp only; split
  · refine ⟨_, rfl, ?_⟩
    split
    · exact chipReset_grows _ _ (h _ _)
    · exact h _ _
  · exact ⟨_, rfl, by simp⟩

theorem execRailShutdown_grows (s : State) : ∃ u, execRailShutdown s = .next u ∧ Grows (kept s) (kept u) := by
  unfold execRailShutdown; repeat' split
  all_goals exact ⟨_, rfl, by simp⟩

theorem execBridgeLockout_grows (s : State) : ∃ u, execBridgeLockout s = .next u ∧ Grows (kept s) (kept u) := by
  unfold execBridgeLockout; repeat' split
  all_goals exact ⟨_, rfl, by simp⟩

theorem execPowerOnResetRelease_grows (vcoreEarly vioLate : Bool) (s : State) : ∃ u, execPowerOnResetRelease vcoreEarly vioLate s = .next u ∧ Grows (kept s) (kept u) := by
  unfold execPowerOnResetRelease; repeat' split
  all_goals exact ⟨_, rfl, by simp⟩

theorem execLockstepMismatch_grows (g : List (Fin 64 × BitVec 16 × BitVec 16)) (a : PairGates) (b : List PairOut × Option PairRead) (pinj : Option (BitVec 16 × BitVec 16)) (s : State) : ∃ u, execLockstepMismatch g a b pinj s = .next u ∧ Grows (kept s) (kept u) := by
  unfold execLockstepMismatch; (try dsimp only); repeat' split
  all_goals exact ⟨_, rfl, by simp⟩

theorem execInterruptTaken_grows (lines : BitVec 32) (s : State) : ∃ u, execInterruptTaken lines s = .next u ∧ Grows (kept s) (kept u) := by
  unfold execInterruptTaken; (try dsimp only); repeat' split
  all_goals exact ⟨_, rfl, by simp⟩

theorem execDebugHalt_grows (s : State) : ∃ u, execDebugHalt s = .next u ∧ Grows (kept s) (kept u) := by
  unfold execDebugHalt; repeat' split
  all_goals exact ⟨_, rfl, by simp⟩

theorem execDebugResume_grows (s : State) : ∃ u, execDebugResume s = .next u ∧ Grows (kept s) (kept u) := by
  unfold execDebugResume
  all_goals exact ⟨_, rfl, by simp⟩

theorem execSupWdog_grows (s : State) : ∃ u, execSupWdog s = .next u ∧ Grows (kept s) (kept u) := by
  unfold execSupWdog; repeat' split
  all_goals exact ⟨_, rfl, by simp⟩

theorem execIdlePeriodicInjection_grows (s : State) : ∃ u, execIdlePeriodicInjection s = .next u ∧ Grows (kept s) (kept u) := by
  unfold execIdlePeriodicInjection; repeat' split
  all_goals exact ⟨_, rfl, by simp⟩

theorem execTickTimeout_grows (s : State) : ∃ u, execTickTimeout s = .next u ∧ Grows (kept s) (kept u) := by
  unfold execTickTimeout; repeat' split
  all_goals exact ⟨_, rfl, by simp⟩

theorem execTabletFrame_grows (src : Chan) (f : TabFrame) (s : State) : ∃ u, execTabletFrame src f s = .next u ∧ Grows (kept s) (kept u) := by
  unfold execTabletFrame; (try dsimp only); repeat' split
  all_goals exact ⟨_, rfl, by simp⟩

theorem execScanTick_grows (i : Nat) (s : State) : ∃ u, execScanTick i s = .next u ∧ Grows (kept s) (kept u) := by
  unfold execScanTick; (try dsimp only); repeat' split
  all_goals exact ⟨_, rfl, by simp⟩

theorem execExchangePhase_grows (c : Nat) (s : State) : ∃ u, execExchangePhase c s = .next u ∧ Grows (kept s) (kept u) := by
  unfold execExchangePhase; (try dsimp only); repeat' split
  all_goals exact ⟨_, rfl, by simp⟩

theorem execEvaluatePhase_grows (c : Nat) (fa fb : EvalFault) (s : State) : ∃ u, execEvaluatePhase c fa fb s = .next u ∧ Grows (kept s) (kept u) := by
  unfold execEvaluatePhase; (try dsimp only); repeat' split
  all_goals exact ⟨_, rfl, by simp⟩

theorem execComparePhase_grows (c : Nat) (stop : CompareEnd) (s : State) : ∃ u, execComparePhase c stop s = .next u ∧ Grows (kept s) (kept u) := by
  unfold execComparePhase; (try dsimp only); repeat' split
  all_goals exact ⟨_, rfl, by simp⟩

theorem execOutputPhase_grows (s : State) : ∃ u, execOutputPhase s = .next u ∧ Grows (kept s) (kept u) := by
  unfold execOutputPhase; (try dsimp only); repeat' split
  all_goals exact ⟨_, rfl, by simp⟩

theorem tailBegin_kept (c : Nat) (t : Table) (s u : State) (e : tailBegin c t s = some u) : kept u = kept s := by
  unfold tailBegin at e; extract_lets w at e
  have hw : kept w = kept s := by simp only [w]; split <;> simp
  clear_value w
  split at e
  · injection e with e; rw [← e]
  · split at e
    · injection e with e; rw [← e]; simp
    · split at e
      · injection e with e; rw [← e, setPhase_kept, noteOutput_kept, notePhase_kept, endPhase_kept, hw]
      · cases e

theorem execTail_grows (c stop : Nat) (missed : TailMeets) (s : State) : ∃ u, execTail c stop missed s = .next u ∧ Grows (kept s) (kept u) := by
  unfold execTail; repeat' split
  · exact ⟨_, rfl, by simp⟩
  · exact ⟨_, rfl, by simp⟩
  · exact ⟨_, rfl, by simp⟩
  · exact ⟨_, rfl, by simp [tailBegin_kept _ _ _ _ ‹_›]⟩

theorem execLatePhase_grows (p : LatePhase) (s : State) : ∃ u, execLatePhase p s = .next u ∧ Grows (kept s) (kept u) := by
  unfold execLatePhase; (try dsimp only); repeat' split
  all_goals exact ⟨_, rfl, by simp⟩

theorem execStaleImage_grows (s : State) : ∃ u, execStaleImage s = .next u ∧ Grows (kept s) (kept u) := by
  unfold execStaleImage; (try dsimp only); repeat' split
  all_goals exact ⟨_, rfl, by simp⟩

theorem execPinFilterChange_grows (p pin : Nat) (path : Chan) (level : LevelRun) (s : State) : ∃ u, execPinFilterChange p pin path level s = .next u ∧ Grows (kept s) (kept u) := by
  unfold execPinFilterChange; (try dsimp only); repeat' split
  all_goals exact ⟨_, rfl, by simp⟩

theorem execTilePeriod_grows (p : Nat) (c : Chan) (m : TileMeas) (s : State) : ∃ u, execTilePeriod p c m s = .next u ∧ Grows (kept s) (kept u) := by
  unfold execTilePeriod; (try dsimp only); repeat' split
  all_goals exact ⟨_, rfl, by simp⟩

theorem execTilePowerReset_grows (p : Nat) (c : Chan) (s : State) : ∃ u, execTilePowerReset p c s = .next u ∧ Grows (kept s) (kept u) := by
  unfold execTilePowerReset; repeat' split
  all_goals exact ⟨_, rfl, by simp⟩

theorem execTileFrameTimeout_grows (p : Nat) (s : State) : ∃ u, execTileFrameTimeout p s = .next u ∧ Grows (kept s) (kept u) := by
  unfold execTileFrameTimeout; repeat' split
  all_goals exact ⟨_, rfl, by simp⟩

theorem execTileResetSequence_grows (p : Nat) (s : State) : ∃ u, execTileResetSequence p s = .next u ∧ Grows (kept s) (kept u) := by
  unfold execTileResetSequence; repeat' split
  all_goals exact ⟨_, rfl, by simp⟩

theorem execPinOverload_grows (p pin : Nat) (s : State) : ∃ u, execPinOverload p pin s = .next u ∧ Grows (kept s) (kept u) := by
  unfold execPinOverload; repeat' split
  all_goals exact ⟨_, rfl, by simp⟩

theorem execTileOvercurrent_grows (p : Nat) (s : State) : ∃ u, execTileOvercurrent p s = .next u ∧ Grows (kept s) (kept u) := by
  unfold execTileOvercurrent; repeat' split
  all_goals exact ⟨_, rfl, by simp⟩

theorem execPulseTimerExpiry_grows (p : Nat) (c : Chan) (pin : Nat) (s : State) : ∃ u, execPulseTimerExpiry p c pin s = .next u ∧ Grows (kept s) (kept u) := by
  unfold execPulseTimerExpiry; (try dsimp only); repeat' split
  all_goals exact ⟨_, rfl, by simp⟩

theorem execSupplyBandChange_grows (p : Nat) (c : Chan) (b : Band) (s : State) : ∃ u, execSupplyBandChange p c b s = .next u ∧ Grows (kept s) (kept u) := by
  unfold execSupplyBandChange; (try dsimp only); repeat' split
  all_goals exact ⟨_, rfl, by simp⟩

theorem execSupplyTrip_grows (p : Nat) (c : Chan) (s : State) : ∃ u, execSupplyTrip p c s = .next u ∧ Grows (kept s) (kept u) := by
  unfold execSupplyTrip; repeat' split
  all_goals exact ⟨_, rfl, by simp⟩

theorem execSupplyQualified_grows (p : Nat) (c : Chan) (s : State) : ∃ u, execSupplyQualified p c s = .next u ∧ Grows (kept s) (kept u) := by
  unfold execSupplyQualified; repeat' split
  all_goals exact ⟨_, rfl, by simp⟩

theorem execSotWatchdog_grows (p : Nat) (c : Chan) (s : State) : ∃ u, execSotWatchdog p c s = .next u ∧ Grows (kept s) (kept u) := by
  unfold execSotWatchdog; repeat' split
  all_goals exact ⟨_, rfl, by simp⟩

theorem execFieldTileWatchdog_grows (p : Nat) (s : State) : ∃ u, execFieldTileWatchdog p s = .next u ∧ Grows (kept s) (kept u) := by
  unfold execFieldTileWatchdog; repeat' split
  all_goals exact ⟨_, rfl, by simp⟩

theorem execOverTemperature_grows (p : Nat) (c : Chan) (s : State) : ∃ u, execOverTemperature p c s = .next u ∧ Grows (kept s) (kept u) := by
  unfold execOverTemperature; repeat' split
  all_goals exact ⟨_, rfl, by simp⟩

theorem execTestOverdue_grows (e : Nat) (s : State) : ∃ u, execTestOverdue e s = .next u ∧ Grows (kept s) (kept u) := by
  unfold execTestOverdue; (try dsimp only); repeat' split
  all_goals exact ⟨_, rfl, by simp⟩

theorem execCaptureTimeout_grows (p : Nat) (s : State) : ∃ u, execCaptureTimeout p s = .next u ∧ Grows (kept s) (kept u) := by
  unfold execCaptureTimeout; repeat' split
  all_goals exact ⟨_, rfl, by simp⟩

theorem execOutboundLatch_grows (w : WordCheck) (s : State) : ∃ u, execOutboundLatch w s = .next u ∧ Grows (kept s) (kept u) := by
  unfold execOutboundLatch; (try dsimp only)
  all_goals exact ⟨_, rfl, by simp⟩

theorem execOutboundFrame_grows (p : Nat) (c : Chan) (rx : Rx) (s : State) : ∃ u, execOutboundFrame p c rx s = .next u ∧ Grows (kept s) (kept u) := by
  unfold execOutboundFrame; (try dsimp only); repeat' split
  all_goals exact ⟨_, rfl, by simp⟩

theorem execInboundFrame_grows (p : Nat) (c : Chan) (rx : Rx) (w : WordCheck) (dly : BitVec 10) (s : State) : ∃ u, execInboundFrame p c rx w dly s = .next u ∧ Grows (kept s) (kept u) := by
  unfold execInboundFrame; (try dsimp only); repeat' split
  all_goals exact ⟨_, rfl, by simp⟩

theorem execLinkDown_grows (p : Nat) (lockLost : Bool) (s : State) : ∃ u, execLinkDown p lockLost s = .next u ∧ Grows (kept s) (kept u) := by
  unfold execLinkDown; (try dsimp only); repeat' split
  all_goals exact ⟨_, rfl, by simp⟩

theorem execAssayRetry_grows (test : Nat) (s : State) : ∃ u, execAssayRetry test s = .next u ∧ Grows (kept s) (kept u) := by
  unfold execAssayRetry; (try dsimp only); repeat' split
  all_goals exact ⟨_, rfl, by simp⟩

theorem execPinTestSlot_grows (p : Fin 6) (s : State) : ∃ u, execPinTestSlot p s = .next u ∧ Grows (kept s) (kept u) := by
  unfold execPinTestSlot; (try dsimp only); repeat' split
  all_goals exact ⟨_, rfl, by simp⟩

theorem execRefTestSlot_grows (t : Option (Fin 8 × Chan)) (pass : Bool) (s : State) : ∃ u, execRefTestSlot t pass s = .next u ∧ Grows (kept s) (kept u) := by
  unfold execRefTestSlot; repeat' split
  all_goals exact ⟨_, rfl, by simp⟩

theorem execMonitorTestSlot_grows (x : AssayItem) (pass : Bool) (s : State) : ∃ u, execMonitorTestSlot x pass s = .next u ∧ Grows (kept s) (kept u) := by
  unfold execMonitorTestSlot; repeat' split
  all_goals exact ⟨_, rfl, by simp⟩

theorem execSotTestSlot_grows (p : Fin 2) (c : Chan) (s : State) : ∃ u, execSotTestSlot p c s = .next u ∧ Grows (kept s) (kept u) := by
  unfold execSotTestSlot; (try dsimp only); repeat' split
  all_goals exact ⟨_, rfl, by simp⟩

theorem execAssayOrderedSet_grows (p : Fin 8) (rx : Rx) (s : State) : ∃ u, execAssayOrderedSet p rx s = .next u ∧ Grows (kept s) (kept u) := by
  unfold execAssayOrderedSet; (try dsimp only); repeat' split
  all_goals exact ⟨_, rfl, by simp⟩

theorem execAssayResult_grows (p : Fin 8) (ended : Option (Bool × Nat)) (rx : Rx) (s : State) : ∃ u, execAssayResult p ended rx s = .next u ∧ Grows (kept s) (kept u) := by
  unfold execAssayResult; (try dsimp only); repeat' split
  all_goals exact ⟨_, rfl, by simp⟩

theorem execPinTestAbort_grows (p : Fin 6) (pin : Fin 16) (s : State) : ∃ u, execPinTestAbort p pin s = .next u ∧ Grows (kept s) (kept u) := by
  unfold execPinTestAbort
  all_goals exact ⟨_, rfl, by simp⟩

theorem execAssayLimitLost_grows (test : Nat) (x : AssayItem) (s : State) : ∃ u, execAssayLimitLost test x s = .next u ∧ Grows (kept s) (kept u) := by
  unfold execAssayLimitLost; (try dsimp only); repeat' split
  all_goals exact ⟨_, rfl, by simp⟩

theorem execStoreSegment_grows (bank : Fin 32) (aborted : Bool) (pass : Bool) (ws : List (Nat × WordCheck)) (s : State) : ∃ u, execStoreSegment bank aborted pass ws s = .next u ∧ Grows (kept s) (kept u) := by
  unfold execStoreSegment; (try dsimp only); repeat' split
  all_goals exact ⟨_, rfl, by simp⟩

theorem execStartupP0_grows (strap : BitVec 2) (pll : BitVec 4) (xinOk xinExt : Bool) (mon : PhaseZeroTests) (us : Nat) (s : State) : ∃ u, execStartupP0 strap pll xinOk xinExt mon us s = .next u ∧ Grows (kept s) (kept u) := by
  unfold execStartupP0; (try dsimp only); repeat' split
  all_goals exact ⟨_, rfl, by simp⟩

theorem execStartupP1_grows (romOk fcrOk kat : Bool) (line us : Nat) (s : State) : ∃ u, execStartupP1 romOk fcrOk kat line us s = .next u ∧ Grows (kept s) (kept u) := by
  unfold execStartupP1; (try dsimp only); repeat' split
  all_goals exact ⟨_, rfl, by simp⟩

theorem execStartupP2_grows (r : StartSet) (us : Nat) (s : State) : ∃ u, execStartupP2 r us s = .next u ∧ Grows (kept s) (kept u) := by
  unfold execStartupP2; repeat' split
  all_goals exact ⟨_, rfl, by simp⟩

theorem execStartupP3_grows (groups : BitVec 64) (items : BitVec 9) (us : Nat) (s : State) : ∃ u, execStartupP3 groups items us s = .next u ∧ Grows (kept s) (kept u) := by
  unfold execStartupP3; (try dsimp only); repeat' split
  all_goals exact ⟨_, rfl, by simp⟩

theorem execStartupP4_grows (kat readBack : Bool) (us : Nat) (s : State) : ∃ u, execStartupP4 kat readBack us s = .next u ∧ Grows (kept s) (kept u) := by
  unfold execStartupP4; (try dsimp only); repeat' split
  all_goals exact ⟨_, rfl, by simp⟩

theorem execStartupP5_grows (us : Nat) (s : State) : ∃ u, execStartupP5 us s = .next u ∧ Grows (kept s) (kept u) := by
  unfold execStartupP5; (try dsimp only); repeat' split
  all_goals exact ⟨_, rfl, by simp⟩

theorem execStartupP6_grows (fs : List (Nat × WordCheck)) (us : Nat) (s : State) : ∃ u, execStartupP6 fs us s = .next u ∧ Grows (kept s) (kept u) := by
  unfold execStartupP6; (try dsimp only); repeat' split
  all_goals exact ⟨_, rfl, by simp⟩

theorem execStartupP7_grows (us : Nat) (s : State) : ∃ u, execStartupP7 us s = .next u ∧ Grows (kept s) (kept u) := by
  unfold execStartupP7; (try dsimp only); repeat' split
  all_goals exact ⟨_, rfl, by simp⟩

theorem execStorageResetDrained_grows (s : State) : ∃ u, execStorageResetDrained s = .next u ∧ Grows (kept s) (kept u) := by
  unfold execStorageResetDrained; split
  · exact ⟨_, rfl, grows_foldl _ (fun t r g => takeReset_grows _ _ g) _ _ (by simp)⟩
  · exact ⟨_, rfl, by simp⟩

theorem execResetEnd_grows (bad : BitVec 64) (readBack : Bool) (fs : List (Nat × WordCheck)) (s : State) : ∃ u, execResetEnd bad readBack fs s = .next u ∧ Grows (kept s) (kept u) := by
  unfold execResetEnd; (try dsimp only); repeat' split
  all_goals exact ⟨_, rfl, by simp⟩

theorem execResetN_grows (ns : Nat) (s : State) : ∃ u, execResetN ns s = .next u ∧ Grows (kept s) (kept u) := by
  unfold execResetN; (try dsimp only); repeat' split
  all_goals exact ⟨_, rfl, by simp⟩

theorem execResetNRelease_grows (s : State) : ∃ u, execResetNRelease s = .next u ∧ Grows (kept s) (kept u) := by
  unfold execResetNRelease; (try dsimp only)
  all_goals exact ⟨_, rfl, by simp⟩

theorem execChipReset_grows (atLimit : Bool) (s : State) : ∃ u, execChipReset atLimit s = .next u ∧ Grows (kept s) (kept u) := by
  unfold execChipReset; repeat' split
  all_goals exact ⟨_, rfl, by simp⟩

theorem execMgtRead_grows (f : MgtFrame) (s : State) : ∃ u, execMgtRead f s = .next u ∧ Grows (kept s) (kept u) := by
  unfold execMgtRead; repeat' split
  all_goals exact ⟨_, rfl, by simp⟩

theorem execMgtWrite_grows (f : MgtFrame) (s : State) : ∃ u, execMgtWrite f s = .next u ∧ Grows (kept s) (kept u) := by
  unfold execMgtWrite; repeat' split
  all_goals exact ⟨_, rfl, by simp⟩

theorem execMgtKeyedWrite_grows (f : MgtFrame) (s : State) : ∃ u, execMgtKeyedWrite f s = .next u ∧ Grows (kept s) (kept u) := by
  unfold execMgtKeyedWrite; repeat' split
  all_goals exact ⟨_, rfl, by simp⟩

theorem execMgtCsAbort_grows (a : MgtAbort) (s : State) : ∃ u, execMgtCsAbort a s = .next u ∧ Grows (kept s) (kept u) := by
  unfold execMgtCsAbort; (try dsimp only)
  all_goals exact ⟨_, rfl, by simp⟩

theorem execTapExtest_grows (shift : Option (List Bool)) (s : State) : ∃ u, execTapExtest shift s = .next u ∧ Grows (kept s) (kept u) := by
  unfold execTapExtest; (try dsimp only); repeat' split
  all_goals exact ⟨_, rfl, by simp⟩

theorem execTapSamplePreload_grows (l : List Bool) (s : State) : ∃ u, execTapSamplePreload l s = .next u ∧ Grows (kept s) (kept u) := by
  unfold execTapSamplePreload; (try dsimp only)
  all_goals exact ⟨_, rfl, by simp⟩

theorem execTapIdcode_grows (s : State) : ∃ u, execTapIdcode s = .next u ∧ Grows (kept s) (kept u) := by
  unfold execTapIdcode
  all_goals exact ⟨_, rfl, by simp⟩

theorem execTapClamp_grows (s : State) : ∃ u, execTapClamp s = .next u ∧ Grows (kept s) (kept u) := by
  unfold execTapClamp
  all_goals exact ⟨_, rfl, by simp⟩

theorem execTapHighz_grows (s : State) : ∃ u, execTapHighz s = .next u ∧ Grows (kept s) (kept u) := by
  unfold execTapHighz
  all_goals exact ⟨_, rfl, by simp⟩

theorem execTapBypass_grows (s : State) : ∃ u, execTapBypass s = .next u ∧ Grows (kept s) (kept u) := by
  unfold execTapBypass
  all_goals exact ⟨_, rfl, by simp⟩

theorem execTapReset_grows (s : State) : ∃ u, execTapReset s = .next u ∧ Grows (kept s) (kept u) := by
  unfold execTapReset
  all_goals exact ⟨_, rfl, by simp⟩

theorem execRegAccessRead_grows (a : BitVec 20) (early : Bool) (s : State) : ∃ u, execRegAccessRead a early s = .next u ∧ Grows (kept s) (kept u) := by
  unfold execRegAccessRead
  all_goals exact ⟨_, rfl, by simp⟩

theorem execRegAccessWrite_grows (a : BitVec 20) (v : Word32) (early : Bool) (s : State) : ∃ u, execRegAccessWrite a v early s = .next u ∧ Grows (kept s) (kept u) := ⟨_, rfl, regAccess_grows _ _ _ (fun _ g => dbgWrite_grows _ _ _ g) (Grows.refl _)⟩

theorem execRegAccessKeyedWrite_grows (a : BitVec 20) (v : Word32) (early : Bool) (s : State) : ∃ u, execRegAccessKeyedWrite a v early s = .next u ∧ Grows (kept s) (kept u) := ⟨_, rfl, regAccess_grows _ _ _ (fun _ g => dbgKeyed_grows _ _ _ g) (Grows.refl _)⟩

theorem execUartLine_grows (n sent : Nat) (s : State) : ∃ u, execUartLine n sent s = .next u ∧ Grows (kept s) (kept u) := by
  unfold execUartLine; (try dsimp only); repeat' split
  all_goals exact ⟨_, rfl, by simp⟩

theorem execWkey_grows (i : Iface) (page : BitVec 8) (v : Word32) (s : State) : ∃ u, execWkey i page v s = .next u ∧ Grows (kept s) (kept u) := by
  unfold execWkey
  all_goals exact ⟨_, rfl, by simp⟩

theorem execKeyTimeout_grows (page : BitVec 8) (s : State) : ∃ u, execKeyTimeout page s = .next u ∧ Grows (kept s) (kept u) := by
  unfold execKeyTimeout
  all_goals exact ⟨_, rfl, by simp⟩

theorem execRegisterWrite_grows (i : Iface) (page : BitVec 8) (reg : BitVec 10) (v : Word32) (full : Bool) (s : State) : ∃ u, execRegisterWrite i page reg v full s = .next u ∧ Grows (kept s) (kept u) := by
  unfold execRegisterWrite; repeat' split
  all_goals exact ⟨_, rfl, by simp⟩

theorem execLoHalfRead_grows (i : Iface) (page : BitVec 8) (reg : BitVec 10) (s : State) : ∃ u, execLoHalfRead i page reg s = .next u ∧ Grows (kept s) (kept u) := by
  unfold execLoHalfRead
  all_goals exact ⟨_, rfl, by simp⟩

theorem execClkMeasStart_grows (i : Iface) (domain : BitVec 3) (s : State) : ∃ u, execClkMeasStart i domain s = .next u ∧ Grows (kept s) (kept u) := by
  unfold execClkMeasStart
  all_goals exact ⟨_, rfl, by simp⟩

theorem execTimeCaptureRead_grows (i : Iface) (r : TimeReg) (s : State) : ∃ u, execTimeCaptureRead i r s = .next u ∧ Grows (kept s) (kept u) := by
  unfold execTimeCaptureRead
  all_goals exact ⟨_, rfl, by simp⟩

theorem execCompareWrite_grows (i : Iface) (n : Fin 32) (r : CmpReg) (v : Word32) (s : State) : ∃ u, execCompareWrite i n r v s = .next u ∧ Grows (kept s) (kept u) := by
  unfold execCompareWrite
  all_goals exact ⟨_, rfl, by simp⟩

theorem execTimerStart_grows (i : Iface) (n : Fin 8) (s : State) : ∃ u, execTimerStart i n s = .next u ∧ Grows (kept s) (kept u) := by
  unfold execTimerStart
  all_goals exact ⟨_, rfl, by simp⟩

theorem execTimerStop_grows (i : Iface) (n : Fin 8) (s : State) : ∃ u, execTimerStop i n s = .next u ∧ Grows (kept s) (kept u) := by
  unfold execTimerStop
  all_goals exact ⟨_, rfl, by simp⟩

theorem execTimerClear_grows (i : Iface) (n : Fin 8) (s : State) : ∃ u, execTimerClear i n s = .next u ∧ Grows (kept s) (kept u) := by
  unfold execTimerClear
  all_goals exact ⟨_, rfl, by simp⟩

theorem execTimerCfgWrite_grows (i : Iface) (n : Fin 8) (v : Word32) (s : State) : ∃ u, execTimerCfgWrite i n v s = .next u ∧ Grows (kept s) (kept u) := by
  unfold execTimerCfgWrite
  all_goals exact ⟨_, rfl, by simp⟩

theorem execTimerCountRead_grows (i : Iface) (n : Fin 8) (s : State) : ∃ u, execTimerCountRead i n s = .next u ∧ Grows (kept s) (kept u) := by
  unfold execTimerCountRead
  all_goals exact ⟨_, rfl, by simp⟩

theorem execVerify_grows (i : Iface) (copy : Bool) (s : State) : ∃ u, execVerify i copy s = .next u ∧ Grows (kept s) (kept u) := by
  unfold execVerify
  all_goals exact ⟨_, rfl, by simp⟩

theorem execInstall_grows (i : Iface) (copy : Bool) (s : State) : ∃ u, execInstall i copy s = .next u ∧ Grows (kept s) (kept u) := by
  unfold execInstall
  all_goals exact ⟨_, rfl, by simp⟩

theorem execSync_grows (i : Iface) (s : State) : ∃ u, execSync i s = .next u ∧ Grows (kept s) (kept u) := by
  unfold execSync
  all_goals exact ⟨_, rfl, by simp⟩

theorem execClearTrip_grows (i : Iface) (s : State) : ∃ u, execClearTrip i s = .next u ∧ Grows (kept s) (kept u) := by
  unfold execClearTrip
  all_goals exact ⟨_, rfl, by simp⟩

theorem execTestTrip_grows (i : Iface) (s : State) : ∃ u, execTestTrip i s = .next u ∧ Grows (kept s) (kept u) := by
  unfold execTestTrip
  all_goals exact ⟨_, rfl, by simp⟩

theorem execUnload_grows (i : Iface) (s : State) : ∃ u, execUnload i s = .next u ∧ Grows (kept s) (kept u) := by
  unfold execUnload
  all_goals exact ⟨_, rfl, by simp⟩

theorem execReload_grows (i : Iface) (s : State) : ∃ u, execReload i s = .next u ∧ Grows (kept s) (kept u) := by
  unfold execReload
  all_goals exact ⟨_, rfl, by simp⟩

theorem execDivClr_grows (i : Iface) (c : Chan) (s : State) : ∃ u, execDivClr i c s = .next u ∧ Grows (kept s) (kept u) := by
  unfold execDivClr
  all_goals exact ⟨_, rfl, by simp⟩

theorem execMaxClr_grows (i : Iface) (c : Chan) (s : State) : ∃ u, execMaxClr i c s = .next u ∧ Grows (kept s) (kept u) := by
  unfold execMaxClr
  all_goals exact ⟨_, rfl, by simp⟩

theorem execMismClr_grows (i : Iface) (s : State) : ∃ u, execMismClr i s = .next u ∧ Grows (kept s) (kept u) := by
  unfold execMismClr
  all_goals exact ⟨_, rfl, by simp⟩

theorem execTickClr_grows (i : Iface) (s : State) : ∃ u, execTickClr i s = .next u ∧ Grows (kept s) (kept u) := by
  unfold execTickClr
  all_goals exact ⟨_, rfl, by simp⟩

theorem execTabCntClr_grows (i : Iface) (s : State) : ∃ u, execTabCntClr i s = .next u ∧ Grows (kept s) (kept u) := by
  unfold execTabCntClr
  all_goals exact ⟨_, rfl, by simp⟩

theorem execLinkReset_grows (i : Iface) (p : Fin 8) (s : State) : ∃ u, execLinkReset i p s = .next u ∧ Grows (kept s) (kept u) := by
  unfold execLinkReset
  all_goals exact ⟨_, rfl, by simp⟩

theorem execFtCntClr_grows (i : Iface) (p : Fin 8) (s : State) : ∃ u, execFtCntClr i p s = .next u ∧ Grows (kept s) (kept u) := by
  unfold execFtCntClr
  all_goals exact ⟨_, rfl, by simp⟩

theorem execSupplyRearm_grows (i : Iface) (p : Fin 8) (s : State) : ∃ u, execSupplyRearm i p s = .next u ∧ Grows (kept s) (kept u) := by
  unfold execSupplyRearm; repeat' split
  all_goals exact ⟨_, rfl, by simp⟩

theorem execConfigWrite_grows (i : Iface) (p : Fin 8) (n : Fin 16) (v : Word32) (s : State) : ∃ u, execConfigWrite i p n v s = .next u ∧ Grows (kept s) (kept u) := by
  unfold execConfigWrite; repeat' split
  all_goals exact ⟨_, rfl, by simp⟩

theorem execXsClr_grows (i : Iface) (s : State) : ∃ u, execXsClr i s = .next u ∧ Grows (kept s) (kept u) := by
  unfold execXsClr
  all_goals exact ⟨_, rfl, by simp⟩

theorem execTblCntClr_grows (i : Iface) (s : State) : ∃ u, execTblCntClr i s = .next u ∧ Grows (kept s) (kept u) := by
  unfold execTblCntClr
  all_goals exact ⟨_, rfl, by simp⟩

theorem execHclaimClaim_grows (i : Iface) (kind : BitVec 3) (index : BitVec 7) (busy : Bool) (s : State) : ∃ u, execHclaimClaim i kind index busy s = .next u ∧ Grows (kept s) (kept u) := by
  unfold execHclaimClaim
  all_goals exact ⟨_, rfl, by simp⟩

theorem execHclaimRelease_grows (i : Iface) (kind : BitVec 3) (index : BitVec 7) (busy : Bool) (s : State) : ∃ u, execHclaimRelease i kind index busy s = .next u ∧ Grows (kept s) (kept u) := by
  unfold execHclaimRelease
  all_goals exact ⟨_, rfl, by simp⟩

theorem execPtVerify_grows (i : Iface) (copy : Bool) (s : State) : ∃ u, execPtVerify i copy s = .next u ∧ Grows (kept s) (kept u) := by
  unfold execPtVerify
  all_goals exact ⟨_, rfl, by simp⟩

theorem execStoCntClr_grows (i : Iface) (scrub : Bool) (s : State) : ∃ u, execStoCntClr i scrub s = .next u ∧ Grows (kept s) (kept u) := by
  unfold execStoCntClr
  all_goals exact ⟨_, rfl, by simp⟩

theorem execBootRearm_grows (i : Iface) (s : State) : ∃ u, execBootRearm i s = .next u ∧ Grows (kept s) (kept u) := by
  unfold execBootRearm
  all_goals exact ⟨_, rfl, by simp⟩

theorem execBootRelease_grows (i : Iface) (s : State) : ∃ u, execBootRelease i s = .next u ∧ Grows (kept s) (kept u) := by
  unfold execBootRelease
  all_goals exact ⟨_, rfl, by simp⟩

theorem execConfirm_grows (i : Iface) (raise : Bool) (s : State) : ∃ u, execConfirm i raise s = .next u ∧ Grows (kept s) (kept u) := by
  unfold execConfirm
  all_goals exact ⟨_, rfl, by simp⟩

theorem execSetTrial_grows (i : Iface) (slot : Bool) (tries : BitVec 4) (s : State) : ∃ u, execSetTrial i slot tries s = .next u ∧ Grows (kept s) (kept u) := by
  unfold execSetTrial
  all_goals exact ⟨_, rfl, by simp⟩

theorem execSetIf_grows (i : Iface) (ifmode : Bool) (dummy : BitVec 5) (s : State) : ∃ u, execSetIf i ifmode dummy s = .next u ∧ Grows (kept s) (kept u) := by
  unfold execSetIf
  all_goals exact ⟨_, rfl, by simp⟩

theorem execClearTrial_grows (i : Iface) (s : State) : ∃ u, execClearTrial i s = .next u ∧ Grows (kept s) (kept u) := by
  unfold execClearTrial
  all_goals exact ⟨_, rfl, by simp⟩

theorem execMeasNow_grows (i : Iface) (s : State) : ∃ u, execMeasNow i s = .next u ∧ Grows (kept s) (kept u) := by
  unfold execMeasNow
  all_goals exact ⟨_, rfl, by simp⟩

theorem execSealWatchWrite_grows (i : Iface) (v : Word32) (s : State) : ∃ u, execSealWatchWrite i v s = .next u ∧ Grows (kept s) (kept u) := by
  unfold execSealWatchWrite
  all_goals exact ⟨_, rfl, by simp⟩

theorem execJrnCntClr_grows (i : Iface) (s : State) : ∃ u, execJrnCntClr i s = .next u ∧ Grows (kept s) (kept u) := by
  unfold execJrnCntClr
  all_goals exact ⟨_, rfl, by simp⟩

theorem execSqTailDoorbell_grows (i : Iface) (q : Fin 4) (v : BitVec 12) (s : State) : ∃ u, execSqTailDoorbell i q v s = .next u ∧ Grows (kept s) (kept u) := by
  unfold execSqTailDoorbell
  all_goals exact ⟨_, rfl, by simp⟩

theorem execCqHeadDoorbell_grows (i : Iface) (q : Fin 4) (v : BitVec 12) (s : State) : ∃ u, execCqHeadDoorbell i q v s = .next u ∧ Grows (kept s) (kept u) := by
  unfold execCqHeadDoorbell
  all_goals exact ⟨_, rfl, by simp⟩

theorem execQueueEnable_grows (i : Iface) (q : Fin 4) (cfg : Word32) (s : State) : ∃ u, execQueueEnable i q cfg s = .next u ∧ Grows (kept s) (kept u) := by
  unfold execQueueEnable
  all_goals exact ⟨_, rfl, by simp⟩

theorem execQueueDisable_grows (i : Iface) (q : Fin 4) (cfg : Word32) (s : State) : ∃ u, execQueueDisable i q cfg s = .next u ∧ Grows (kept s) (kept u) := by
  unfold execQueueDisable
  all_goals exact ⟨_, rfl, by simp⟩

theorem execEvtAck_grows (i : Iface) (s : State) : ∃ u, execEvtAck i s = .next u ∧ Grows (kept s) (kept u) := by
  unfold execEvtAck
  all_goals exact ⟨_, rfl, by simp⟩

theorem execPcieCntClr_grows (i : Iface) (s : State) : ∃ u, execPcieCntClr i s = .next u ∧ Grows (kept s) (kept u) := by
  unfold execPcieCntClr
  all_goals exact ⟨_, rfl, by simp⟩

theorem execMbxGo_grows (i : Iface) (s : State) : ∃ u, execMbxGo i s = .next u ∧ Grows (kept s) (kept u) := by
  unfold execMbxGo
  all_goals exact ⟨_, rfl, by simp⟩

theorem execMgtCntClr_grows (i : Iface) (s : State) : ∃ u, execMgtCntClr i s = .next u ∧ Grows (kept s) (kept u) := by
  unfold execMgtCntClr
  all_goals exact ⟨_, rfl, by simp⟩

theorem execEpochOpen_grows (i : Iface) (s : State) : ∃ u, execEpochOpen i s = .next u ∧ Grows (kept s) (kept u) := by
  unfold execEpochOpen
  all_goals exact ⟨_, rfl, by simp⟩

theorem execEpochClose_grows (i : Iface) (v : Word32) (s : State) : ∃ u, execEpochClose i v s = .next u ∧ Grows (kept s) (kept u) := by
  unfold execEpochClose
  all_goals exact ⟨_, rfl, by simp⟩

theorem execEpochWindowRead_grows (i : Iface) (k : Fin 16) (reg : BitVec 10) (s : State) : ∃ u, execEpochWindowRead i k reg s = .next u ∧ Grows (kept s) (kept u) := by
  unfold execEpochWindowRead
  all_goals exact ⟨_, rfl, by simp⟩

theorem execErrnTest_grows (i : Iface) (s : State) : ∃ u, execErrnTest i s = .next u ∧ Grows (kept s) (kept u) := by
  unfold execErrnTest
  all_goals exact ⟨_, rfl, by simp⟩

theorem execAck_grows (i : Iface) (src : BitVec 9) (s : State) : ∃ u, execAck i src s = .next u ∧ Grows (kept s) (kept u) := by
  unfold execAck
  all_goals exact ⟨_, rfl, by simp⟩

theorem execAckAll_grows (i : Iface) (src : BitVec 9) (s : State) : ∃ u, execAckAll i src s = .next u ∧ Grows (kept s) (kept u) := by
  unfold execAckAll
  all_goals exact ⟨_, rfl, by simp⟩

theorem execPromoClr_grows (i : Iface) (src : BitVec 9) (s : State) : ∃ u, execPromoClr i src s = .next u ∧ Grows (kept s) (kept u) := by
  unfold execPromoClr
  all_goals exact ⟨_, rfl, by simp⟩

theorem execPromoClrAll_grows (i : Iface) (src : BitVec 9) (s : State) : ∃ u, execPromoClrAll i src s = .next u ∧ Grows (kept s) (kept u) := by
  unfold execPromoClrAll
  all_goals exact ⟨_, rfl, by simp⟩

theorem execSrcCfgWrite_grows (i : Iface) (v : Word32) (s : State) : ∃ u, execSrcCfgWrite i v s = .next u ∧ Grows (kept s) (kept u) := by
  unfold execSrcCfgWrite
  all_goals exact ⟨_, rfl, by simp⟩

theorem execErrInjWrite_grows (i : Iface) (page : BitVec 8) (mask : BitVec 12) (count : BitVec 4) (s : State) : ∃ u, execErrInjWrite i page mask count s = .next u ∧ Grows (kept s) (kept u) := by
  unfold execErrInjWrite
  all_goals exact ⟨_, rfl, by simp⟩

theorem execHqSel_grows (i : Iface) (age : BitVec 5) (s : State) : ∃ u, execHqSel i age s = .next u ∧ Grows (kept s) (kept u) := by
  unfold execHqSel
  all_goals exact ⟨_, rfl, by simp⟩

theorem execFcrCntClr_grows (i : Iface) (s : State) : ∃ u, execFcrCntClr i s = .next u ∧ Grows (kept s) (kept u) := by
  unfold execFcrCntClr
  all_goals exact ⟨_, rfl, by simp⟩

theorem execCrcStart_grows (i : Iface) (n : Fin 4) (cmpEn : Bool) (s : State) : ∃ u, execCrcStart i n cmpEn s = .next u ∧ Grows (kept s) (kept u) := by
  unfold execCrcStart
  all_goals exact ⟨_, rfl, by simp⟩

theorem execAstCntClr_grows (i : Iface) (s : State) : ∃ u, execAstCntClr i s = .next u ∧ Grows (kept s) (kept u) := by
  unfold execAstCntClr
  all_goals exact ⟨_, rfl, by simp⟩

theorem execTchRead_grows (i : Iface) (margin : BitVec 2) (row : BitVec 10) (s : State) : ∃ u, execTchRead i margin row s = .next u ∧ Grows (kept s) (kept u) := by
  unfold execTchRead
  all_goals exact ⟨_, rfl, by simp⟩

theorem execProg_grows (i : Iface) (row : BitVec 10) (force : Bool) (s : State) : ∃ u, execProg i row force s = .next u ∧ Grows (kept s) (kept u) := by
  unfold execProg
  all_goals exact ⟨_, rfl, by simp⟩

theorem execOverride_grows (i : Iface) (row : BitVec 10) (s : State) : ∃ u, execOverride i row s = .next u ∧ Grows (kept s) (kept u) := by
  unfold execOverride
  all_goals exact ⟨_, rfl, by simp⟩

theorem execClearOvr_grows (i : Iface) (row : BitVec 10) (s : State) : ∃ u, execClearOvr i row s = .next u ∧ Grows (kept s) (kept u) := by
  unfold execClearOvr
  all_goals exact ⟨_, rfl, by simp⟩

theorem execTchCntClr_grows (i : Iface) (s : State) : ∃ u, execTchCntClr i s = .next u ∧ Grows (kept s) (kept u) := by
  unfold execTchCntClr
  all_goals exact ⟨_, rfl, by simp⟩

theorem execMeasSel_grows (i : Iface) (index : BitVec 3) (s : State) : ∃ u, execMeasSel i index s = .next u ∧ Grows (kept s) (kept u) := by
  unfold execMeasSel
  all_goals exact ⟨_, rfl, by simp⟩

theorem execHmkCntClr_grows (i : Iface) (s : State) : ∃ u, execHmkCntClr i s = .next u ∧ Grows (kept s) (kept u) := by
  unfold execHmkCntClr
  all_goals exact ⟨_, rfl, by simp⟩

theorem execWakeTest_grows (i : Iface) (s : State) : ∃ u, execWakeTest i s = .next u ∧ Grows (kept s) (kept u) := by
  unfold execWakeTest
  all_goals exact ⟨_, rfl, by simp⟩

theorem execLmnConfigWrite_grows (i : Iface) (r : Fin 9) (v : Word32) (s : State) : ∃ u, execLmnConfigWrite i r v s = .next u ∧ Grows (kept s) (kept u) := by
  unfold execLmnConfigWrite
  all_goals exact ⟨_, rfl, by simp⟩

theorem execEntrySel_grows (i : Iface) (age : BitVec 8) (s : State) : ∃ u, execEntrySel i age s = .next u ∧ Grows (kept s) (kept u) := by
  unfold execEntrySel
  all_goals exact ⟨_, rfl, by simp⟩

theorem execSwap_grows (i : Iface) (s : State) : ∃ u, execSwap i s = .next u ∧ Grows (kept s) (kept u) := by
  unfold execSwap
  all_goals exact ⟨_, rfl, by simp⟩

theorem execShutdown_grows (i : Iface) (s : State) : ∃ u, execShutdown i s = .next u ∧ Grows (kept s) (kept u) := by
  unfold execShutdown
  all_goals exact ⟨_, rfl, by simp⟩

theorem execPwrCntClr_grows (i : Iface) (s : State) : ∃ u, execPwrCntClr i s = .next u ∧ Grows (kept s) (kept u) := by
  unfold execPwrCntClr
  all_goals exact ⟨_, rfl, by simp⟩

theorem execModeReqSafe_grows (i : Iface) (s : State) : ∃ u, execModeReqSafe i s = .next u ∧ Grows (kept s) (kept u) := by
  unfold execModeReqSafe
  all_goals exact ⟨_, rfl, by simp⟩

theorem execModeReqRun_grows (i : Iface) (s : State) : ∃ u, execModeReqRun i s = .next u ∧ Grows (kept s) (kept u) := by
  unfold execModeReqRun
  all_goals exact ⟨_, rfl, by simp⟩

theorem execModeReqService_grows (i : Iface) (s : State) : ∃ u, execModeReqService i s = .next u ∧ Grows (kept s) (kept u) := by
  unfold execModeReqService
  all_goals exact ⟨_, rfl, by simp⟩

theorem execRstCmdChip_grows (i : Iface) (s : State) : ∃ u, execRstCmdChip i s = .next u ∧ Grows (kept s) (kept u) := by
  unfold execRstCmdChip
  all_goals exact ⟨_, rfl, by simp⟩

theorem execRstCmdRegion_grows (i : Iface) (region : BitVec 3) (s : State) : ∃ u, execRstCmdRegion i region s = .next u ∧ Grows (kept s) (kept u) := by
  unfold execRstCmdRegion
  all_goals exact ⟨_, rfl, by simp⟩

theorem execRstCmdBlock_grows (i : Iface) (page : BitVec 8) (s : State) : ∃ u, execRstCmdBlock i page s = .next u ∧ Grows (kept s) (kept u) := by
  unfold execRstCmdBlock
  all_goals exact ⟨_, rfl, by simp⟩

end Sys2Proof.Machine
end

