-- ==== Sys2Proof/Laws/WordCode.lean ====
section
/-! SUPPORT. The word code in force has the four properties of R50. -/

namespace Sys2Proof.Machine

/-- There is a matrix with the four properties. -/
theorem sample_meets : codeMeets sampleMatrix = true := by decide +kernel

/-- The matrix in force has the four properties, whatever the implementation's is. -/
theorem word_matrix_meets : codeMeets wordMatrix = true := by
  unfold wordMatrix
  split
  · assumption
  · exact sample_meets

end Sys2Proof.Machine
end

