-- ==== Sys2Proof/Tests/Slice0.lean ====
section
/-! SUPPORT. The model's own tests: an ill-formed command for each check of WellFormed.lean, values the spec gives, and for every statement a state and operands that meet the hypotheses of each of its clauses. -/

open Sys2Proof Sys2Proof.Machine

set_option Elab.async false

/-! ## States the witnesses share -/

/-- Start-up has ended; management SPI reaches the blocks. -/
def Tests.up (m : Mode) : State := { State.reset with sys := { State.reset.sys with mode := m, phase := 15 } }

/-- PCIe reaches the blocks as well. -/
def Tests.linked (m : Mode) : State := { Tests.up m with pcie := { State.reset.pcie with linkUp := true } }

/-- An empty table is installed in both evaluators, and a scan stands in phase `ph`. -/
def Tests.scan (m : Mode) (ph : Nat) : State :=
  { Tests.up m with
    ilkA := { State.reset.ilkA with st := .scanning, table := some {}, phase := ph }, ilkB := { State.reset.ilkB with st := .scanning, table := some {}, phase := ph },
    ilkl := { State.reset.ilkl with scanning := true } }

/-- The same between two scans. -/
def Tests.between (m : Mode) : State := { Tests.scan m 7 with ilkl := State.reset.ilkl }

/-! ## Well-formedness: a command that each check refuses, and one it accepts -/

theorem test_wf_cellTransactionFail : (Instr.cellTransactionFail 64 0 false false).wellFormed = false := by decide
theorem test_wf_cellTransactionFail_2 : (Instr.cellTransactionFail 8 65536 false false).wellFormed = false := by decide
theorem test_wf_fabricTimeout : (Instr.fabricTimeout 64).wellFormed = false := by decide
theorem test_wf_fenceRemove : (Instr.fenceRemove 64 true true).wellFormed = false := by decide
theorem test_wf_queueSever : (Instr.queueSever 26 true false).wellFormed = false := by decide
theorem test_wf_queueRejoining : (Instr.queueRejoining ⟨26, true, true⟩).wellFormed = false := by decide
theorem test_wf_queueJoined : (Instr.queueJoined 26 false false).wellFormed = false := by decide
theorem test_wf_outboundFrame : (Instr.outboundFrame 8 .a .lost).wellFormed = false := by decide
theorem test_wf_tilePeriod : (Instr.tilePeriod 8 .a {}).wellFormed = false := by decide
theorem test_wf_inboundFrame : (Instr.inboundFrame 8 .a .lost .good 0).wellFormed = false := by decide
theorem test_wf_linkDown : (Instr.linkDown 8 false).wellFormed = false := by decide
theorem test_wf_tilePowerReset : (Instr.tilePowerReset 8 .a).wellFormed = false := by decide
theorem test_wf_tileFrameTimeout : (Instr.tileFrameTimeout 8).wellFormed = false := by decide
theorem test_wf_tileResetSequence : (Instr.tileResetSequence 8).wellFormed = false := by decide
theorem test_wf_pinFilterChange : (Instr.pinFilterChange 8 0 .a ⟨true, 8000⟩).wellFormed = false := by decide
theorem test_wf_pinFilterChange_2 : (Instr.pinFilterChange 6 8 .a ⟨true, 8000⟩).wellFormed = false := by decide
theorem test_wf_pinFilterChange_3 : (Instr.pinFilterChange 0 16 .a ⟨true, 8000⟩).wellFormed = false := by decide
theorem test_wf_pinOverload : (Instr.pinOverload 6 0).wellFormed = false := by decide
theorem test_wf_pinOverload_2 : (Instr.pinOverload 0 16).wellFormed = false := by decide
theorem test_wf_tileOvercurrent : (Instr.tileOvercurrent 6).wellFormed = false := by decide
theorem test_wf_pulseTimerExpiry : (Instr.pulseTimerExpiry 8 .a 0).wellFormed = false := by decide
theorem test_wf_pulseTimerExpiry_2 : (Instr.pulseTimerExpiry 6 .a 8).wellFormed = false := by decide
theorem test_wf_supplyBandChange : (Instr.supplyBandChange 8 .a .missing).wellFormed = false := by decide
theorem test_wf_supplyTrip : (Instr.supplyTrip 8 .a).wellFormed = false := by decide
theorem test_wf_supplyQualified : (Instr.supplyQualified 8 .a).wellFormed = false := by decide
theorem test_wf_sotWatchdog : (Instr.sotWatchdog 5 .a).wellFormed = false := by decide
theorem test_wf_sotWatchdog_2 : (Instr.sotWatchdog 8 .a).wellFormed = false := by decide
theorem test_wf_overTemperature : (Instr.overTemperature 8 .a).wellFormed = false := by decide
theorem test_wf_configWrite : (Instr.configWrite .mgt 6 8 0).wellFormed = false := by decide
theorem test_wf_testOverdue : (Instr.testOverdue 65536).wellFormed = false := by decide
theorem test_wf_captureTimeout : (Instr.captureTimeout 6).wellFormed = false := by decide
theorem test_wf_chunkLoaded : (Instr.chunkLoaded 2048 []).wellFormed = false := by decide
theorem test_wf_xspiRead : (Instr.xspiRead 0 0 .good).wellFormed = false := by decide
theorem test_wf_xspiFastRead : (Instr.xspiFastRead 0 0 .good).wellFormed = false := by decide
theorem test_wf_xspiReadSfdp : (Instr.xspiReadSfdp 0 0).wellFormed = false := by decide
theorem test_wf_xspiReadStatus : (Instr.xspiReadStatus 0).wellFormed = false := by decide
theorem test_wf_creditRecompute : (Instr.creditRecompute 4096).wellFormed = false := by decide
theorem test_wf_bar2Read : (Instr.bar2Read 0 0 []).wellFormed = false := by decide
theorem test_wf_bar2Read_2 : (Instr.bar2Read 536870911 2 []).wellFormed = false := by decide
theorem test_wf_descriptorFetch : (Instr.descriptorFetch {} true .good).wellFormed = false := by decide
theorem test_wf_mgtRead : (Instr.mgtRead { opb := 0x01, addr := 0, hcrc := 0, data := [0] }).wellFormed = false := by decide
theorem test_wf_mgtWrite : (Instr.mgtWrite { opb := 0x02, addr := 0, hcrc := 0 }).wellFormed = false := by decide
theorem test_wf_mgtKeyedWrite : (Instr.mgtKeyedWrite { opb := 0x03, addr := 0, hcrc := 0 }).wellFormed = false := by decide
theorem test_wf_uartLine : (Instr.uartLine 0 0).wellFormed = false := by decide
theorem test_wf_compareMatch : (Instr.compareMatch 32).wellFormed = false := by decide
theorem test_wf_compareWriteEffect : (Instr.compareWriteEffect 32).wellFormed = false := by decide
theorem test_wf_timerTick : (Instr.timerTick 8).wellFormed = false := by decide
theorem test_wf_timerWriteEffect : (Instr.timerWriteEffect 8).wellFormed = false := by decide
theorem test_wf_faultReport : (Instr.faultReport 0 [{ src := 512 }]).wellFormed = false := by decide
theorem test_wf_faultReport_2 : (Instr.faultReport 0 [{ src := 0, page := 64 }]).wellFormed = false := by decide
theorem test_wf_crcDone : (Instr.crcDone 4 []).wellFormed = false := by decide
theorem test_wf_assayRetry : (Instr.assayRetry 0).wellFormed = false := by decide
theorem test_wf_assayRetry_2 : (Instr.assayRetry 17).wellFormed = false := by decide
theorem test_wf_assayLimitLost : (Instr.assayLimitLost 0 .whole).wellFormed = false := by decide
theorem test_wf_assayLimitLost_2 : (Instr.assayLimitLost 17 .whole).wellFormed = false := by decide
theorem test_wf_verifyRequest : (Instr.verifyRequest 8 0 0 0 (List.replicate 32 0) [] []).wellFormed = false := by decide
theorem test_wf_verifyRequest_2 : (Instr.verifyRequest 0 16 0 0 (List.replicate 32 0) [] []).wellFormed = false := by decide
theorem test_wf_verifyRequest_3 : (Instr.verifyRequest 0 0 4 0 (List.replicate 32 0) [] []).wellFormed = false := by decide
theorem test_wf_verifyRequest_4 : (Instr.verifyRequest 0 0 0 4 (List.replicate 32 0) [] []).wellFormed = false := by decide
theorem test_wf_verifyRequest_5 : (Instr.verifyRequest 0 0 0 0 [] [] []).wellFormed = false := by decide
theorem test_wf_feedFail : (Instr.feedFail true true 65 0 0).wellFormed = false := by decide
theorem test_wf_startupP0 : (Instr.startupP0 0 0 true true ⟨0, 0⟩ 1048576).wellFormed = false := by decide
theorem test_wf_startupP1 : (Instr.startupP1 true true true 0 1048576).wellFormed = false := by decide
theorem test_wf_startupP2 : (Instr.startupP2 {} 1048576).wellFormed = false := by decide
theorem test_wf_startupP3 : (Instr.startupP3 0 0 1048576).wellFormed = false := by decide
theorem test_wf_startupP4 : (Instr.startupP4 true true 1048576).wellFormed = false := by decide
theorem test_wf_startupP5 : (Instr.startupP5 1048576).wellFormed = false := by decide
theorem test_wf_startupP6 : (Instr.startupP6 [] 1048576).wellFormed = false := by decide
theorem test_wf_startupP7 : (Instr.startupP7 1048576).wellFormed = false := by decide
theorem test_wf_fieldTileWatchdog : (Instr.fieldTileWatchdog 6).wellFormed = false := by decide
theorem test_wf_accepts : (Instr.configWrite .mgt 6 7 0).wellFormed = true ∧ (Instr.sotWatchdog 7 .b).wellFormed = true ∧ (Instr.bar2Read 536870911 1 []).wellFormed = true := by decide

/-! ## Values the spec and the standards it names give -/

/-- FIPS 180-4, the digest of "abc". -/
theorem test_sha256_abc : sha256 [0x61, 0x62, 0x63] = [0xba, 0x78, 0x16, 0xbf, 0x8f, 0x01, 0xcf, 0xea, 0x41, 0x41, 0x40, 0xde, 0x5d, 0xae, 0x22, 0x23, 0xb0, 0x03, 0x61, 0xa3, 0x96, 0x17, 0x7a, 0x9c, 0xb4, 0x10, 0xff, 0x61, 0xf2, 0x00, 0x15, 0xad] := by decide +kernel

/-- The check value of CRC-32C: the code of the nine digits. -/
theorem test_crc32c_digits : crc32c [0x31, 0x32, 0x33, 0x34, 0x35, 0x36, 0x37, 0x38, 0x39] = 0xE3069283 := by decide +kernel

/-- The widths of the comparator's 64 groups add up to 728 bits (R160). -/
theorem test_group_widths : ((List.range 64).map groupWidth).sum = 728 := by decide +kernel

/-! ## Witnesses: cells, fences, queues, clock generation -/

theorem witness_CellFailuresRetryThenIsolate :
    (let s := { State.reset with fab := { State.reset.fab with cells := [(cellKey 8 5, { fails := 0, isolated := true })] } }; cellAnswersIsolated 8 5 s = true) ∧
    (let s := { State.reset with sto := { State.reset.sto with dead := 0x20 } }; cellAnswersIsolated pgSto 5 s = true) ∧
    (let s := { State.reset with fab := { State.reset.fab with cells := [(cellKey 8 5, { fails := 2 })] } }; cellAnswersIsolated 8 5 s = false ∧ 2 ≤ (smGetD s.fab.cells (cellKey 8 5) {}).fails ∧ 8 ≠ pgSto) ∧
    (let s := { State.reset with fab := { State.reset.fab with cells := [(cellKey pgSto 31, { fails := 2 })] } }; cellAnswersIsolated pgSto 31 s = false ∧ 2 ≤ (smGetD s.fab.cells (cellKey pgSto 31) {}).fails ∧ 31 < 32 ∧
      vGet s.sto.spare (dieOf 31) none = none) ∧
    (let s := { State.reset with fab := { State.reset.fab with cells := [(cellKey pgSto 0, { fails := 2 })] }, sto := { State.reset.sto with spare := #v[some 2, some 3] } }; cellAnswersIsolated pgSto 0 s = false ∧
      vGet s.sto.spare (dieOf 0) none = some 2) ∧
    (cellAnswersIsolated 8 5 State.reset = false ∧ (smGetD State.reset.fab.cells (cellKey 8 5) {}).fails < 2) := by decide +kernel

theorem witness_FencesAreSetAndRemoved :
    (0x20 < 64 ∧ pagePresent State.reset.variant 0x20 = true ∧ regionIndex 0x20 < 4 ∧ State.reset.fab.fenced.getLsbD 0x20 = false ∧ safetyPage 0x20 = false) ∧
    (0x0C < 64 ∧ pagePresent State.reset.variant 0x0C = true ∧ regionIndex 0x0C < 4 ∧ State.reset.fab.fenced.getLsbD 0x0C = false ∧ safetyPage 0x0C = true) ∧
    (let s := { State.reset with fab := { State.reset.fab with fenced := 0x100000000, resetDone := 0x100000000 } }; pageInReset 0x20 s = false ∧ s.fab.fenced.getLsbD 0x20 = true ∧ s.fab.stuck.getLsbD 0x20 = false ∧ s.fab.resetDone.getLsbD 0x20 = true) ∧
    (let s := { State.reset with rst := { State.reset.rst with running := [{ target := .block 0x20, fromFcr := false, waiting := false }] } }; pageInReset 0x20 s = true) ∧
    State.reset.fab.resetDone.getLsbD 0x20 = false := by decide +kernel

theorem witness_QueuesSeverAndMonitorsReport :
    (24 < 25 ∧ (true || false) = true ∧ (xq State.reset 24).st = .joined) ∧
    (let s := updQ 2 (fun q => { q with st := .severed }) State.reset; 2 < 26 ∧ (xq s 2).st = .severed ∧ queueMayRejoin 2 s = true) ∧
    (let s := updQ 0 (fun q => { q with st := .severed }) State.reset; (xq s 0).st = .severed ∧ queueMayRejoin 0 s = false) ∧
    (let s := updQ 25 (fun q => { q with st := .rejoining }) State.reset; 25 < 26 ∧ (xq s 25).st = .rejoining) ∧
    (xq State.reset 25).st ≠ .rejoining ∧
    (portOpen .mgt (Tests.up .safe) = true ∧ pagePresent (Tests.up .safe).variant pgClkg = true ∧ pageFenced (Tests.up .safe) pgClkg = false) ∧
    ({ State.reset.clkg with measRun := some 7 }.measRun = some 7) ∧
    (let g := { State.reset.clkg with pll := 0xF, monOk := 0x7F }; g.pll.getLsbD 3 = true ∧ g.monOk.getLsbD 6 = true ∧ g.monOk.getLsbD 0 = true) ∧
    (let g := { State.reset.clkg with pll := 0, monOk := 0 }; g.pll.getLsbD 0 = false ∧ g.monOk.getLsbD 0 = false) := by decide +kernel

/-! ## Witnesses: registers -/

theorem witness_KeySequencesGuardWrites :
    (reaches .mgt 0x0A (Tests.up .safe) ∧ pageKind (Tests.up .safe).variant 0x0A ≠ .ep ∧ (0 : Word32) ≠ 0x0000A5C3) ∧
    (reaches .debug 0x0A (Tests.up .safe) ∧ 0x028 ≤ 4 * (0x10 : BitVec 10).toNat ∧ (hdr (Tests.up .safe) 0x0A).key ≠ some .debug ∧
      (fieldsOf (pageKind (Tests.up .safe).variant 0x0A) (4 * (0x10 : BitVec 10).toNat)).rwk ≠ 0 ∧
      (fieldsOf (pageKind (Tests.up .safe).variant 0x0A) (4 * (0x10 : BitVec 10).toNat)).rw ||| (fieldsOf (pageKind (Tests.up .safe).variant 0x0A) (4 * (0x10 : BitVec 10).toNat)).wo = 0) := by
  unfold reaches; decide +kernel

theorem witness_HeaderWritesAndDiscards :
    (reaches .pcie 0x2C (Tests.linked .run) ∧ pageKind (Tests.linked .run).variant 0x2C ≠ .ep) ∧
    (portOpen .debug (Tests.up .run) = true ∧ pagePresent (Tests.up .run).variant 0x06 = false) := by
  unfold reaches; decide +kernel

theorem witness_LowHalvesLatchHighHalves :
    (reaches .mgt pgSys (Tests.up .safe) ∧ 0x040 ≤ 4 * (0x14 : BitVec 10).toNat ∧ loQuantity .mgt pgSys (4 * (0x14 : BitVec 10).toNat) (Tests.up .safe) = some 0 ∧ readPortOf .mgt pgSys (4 * (0x14 : BitVec 10).toNat) (Tests.up .safe) = none) ∧
    (reaches .mgt pgTbase (Tests.up .safe) ∧ (hdr (Tests.up .safe) pgTbase).injCount = 0 ∧ (Tests.up .safe).tb.running = false) ∧
    (let s := { Tests.up .safe with tb := { State.reset.tb with running := true } }; reaches .mgt pgTbase s ∧ (hdr s pgTbase).injCount = 0) := by
  unfold reaches; decide +kernel
/-! ## Witnesses: the Station clock, compare channels, timers -/

/-- The counter runs and stands at `n`. -/
def Tests.clock (n : Nat) (s : State) : State := { s with tb := { s.tb with running := true, counter := n, view := n } }

theorem witness_CounterAndSnapshots :
    (let s := { State.reset with clkg := { State.reset.clkg with pll := 2 } }; s.clkg.pll.getLsbD 1 = true ∧ s.tb.running = false) ∧
    (State.reset.clkg.pll.getLsbD 1 = false ∨ State.reset.tb.running = true) ∧
    ((Tests.clock 1 State.reset).tb.running = true ∧ (Tests.clock 1 State.reset).tb.viewSeq = none) ∧
    (let s := { Tests.clock 1 State.reset with tb := { (Tests.clock 1 State.reset).tb with viewSeq := some 255 } }; s.tb.running = true ∧ s.tb.viewSeq = some (0 - 1) ∧ s.tb.viewSeq = some 255 ∧ (255 : BitVec 8) ≠ 7 - 1) ∧
    (let s := Tests.clock 100000 State.reset; s.tb.running = true ∧ s.tb.counter % 100000 = 0 ∧ s.tb.snapTime < s.tb.counter) := by decide

/-- Every compare channel stands as given. -/
def Tests.chans (c : CmpChan) (s : State) : State := { s with tb := { s.tb with chans := Vector.replicate 32 c } }

/-- The host owns the resources of a kind. -/
def Tests.owned (kind n : Nat) (s : State) : State := { s with tbl := { s.tbl with hostOwned := (List.range n).map (claimKey kind) } }

theorem witness_CompareChannelsMatchAndTakeWrites :
    (let s := Tests.chans { en := true, cmp := 7 } (Tests.clock 7 State.reset); 31 < 32 ∧ s.tb.running = true ∧ (chanOf s 31).en = true ∧ (chanOf s 31).cmp = counter64 s ∧ cellIsolated s pgTbase 31 = false) ∧
    (let c : Crossing := { freeAt := 9 }; c.held = false ∧ c.freeAt ≤ 9 ∧ 8 < c.freeAt) ∧
    (chanOf State.reset 3).en = false ∧ cellIsolated { State.reset with fab := { State.reset.fab with cells := [(cellKey pgTbase 0, { isolated := true })] } } pgTbase 0 = true ∧
    (let s := Tests.owned 2 32 (Tests.up .safe); reaches .mgt pgTbase s ∧ hostMayWrite s 2 31 = true ∧ (chanOf s 31).wrPend = none) ∧
    (reaches .mgt pgTbase (Tests.up .safe) ∧ hostMayWrite (Tests.up .safe) 2 0 = false) ∧
    (let s := Tests.chans { wrPend := some (.compare 5) } State.reset; 31 < 32 ∧ (chanOf s 31).wrPend = some (.compare 5)) := by
  unfold reaches; decide +kernel

/-- Every timer stands as given. -/
def Tests.timers (t : Tmr) (s : State) : State := { s with tmr := Vector.replicate 8 t }

theorem witness_TimersTickAndTakeWrites :
    (let s := Tests.timers { run := true, presc := 1, reload := 9 } (Tests.clock 7 State.reset); 7 < 8 ∧ prescCounts s (tmrOf s 7) = true ∧ (tmrOf s 7).prescale.toNat < (tmrOf s 7).presc ∧ (tmrOf s 7).count ≠ (tmrOf s 7).reload ∧ (tmrOf s 7).count ≠ 0xFFFFFFFF) ∧
    (let s := Tests.timers { run := true, presc := 1, reload := 0 } (Tests.clock 7 State.reset); prescCounts s (tmrOf s 0) = true ∧ (tmrOf s 0).prescale.toNat < (tmrOf s 0).presc ∧ (tmrOf s 0).count = (tmrOf s 0).reload ∧
      (∀ m, m < 8 → m ≠ 0 → (tmrOf s m).master.toNat = 0 → (tmrOf s m).slave ≠ 2 ∧ (tmrOf s m).slave ≠ 3)) ∧
    prescCounts State.reset (tmrOf State.reset 0) = false ∧
    (let s := Tests.timers { wrPend := some (.cmd true true false) } State.reset; 7 < 8 ∧ (tmrOf s 7).wrPend = some (.cmd true true false)) ∧
    (reaches .mgt pgTmr (Tests.up .safe) ∧ (hdr (Tests.up .safe) pgTmr).injCount = 0 ∧ hostMayWrite (Tests.up .safe) 3 7 = false) ∧
    (let s := Tests.owned 3 8 (Tests.up .safe); reaches .mgt pgTmr s ∧ hostMayWrite s 3 7 = true ∧ (tmrOf s 7).wrPend = none ∧
      (bits (0 : Word32) 8 3 ≠ 7 ∧ (bits (0 : Word32) 2 2 = 3 → bits (0 : Word32) 8 3 + 1 = 7)) ∧ (bits (0x60C : Word32) 8 3 ≠ 7 ∧ (bits (0x60C : Word32) 2 2 = 3 → bits (0x60C : Word32) 8 3 + 1 = 7)) ∧
      bits (0x700 : Word32) 8 3 = 7 ∧ (bits (0x00C : Word32) 2 2 = 3 ∧ bits (0x00C : Word32) 8 3 + 1 ≠ 7)) := by
  unfold reaches; decide +kernel

/-! ## Witnesses: the scan, the loader, the pair -/

theorem witness_TickBeginsAScan :
    (let s := Tests.between .run; s.ilkl.scanning = false ∧ s.sys.modePend = none ∧ s.sys.exitPend = false ∧ curTable s = some {} ∧ scansRun s = true ∧ s.ilkA.st = .scanning ∧ s.ilkB.table.isSome = true) ∧
    (let s := Tests.between .split; s.ilkl.scanning = false ∧ curTable s = some {} ∧ scansRun s = true ∧ s.ilkA.st = .scanning ∧ s.sys.mode = .split) ∧
    (let s := Tests.between .safe; let s := { s with ilkl := { s.ilkl with trip := true, clearPend := true } }; s.ilkl.scanning = false ∧ curTable s = some {} ∧ scansRun s = true ∧ s.ilkA.st = .scanning ∧ s.ilkl.clearPend = true ∧ s.ilkl.clearBroken = false ∧
      s.tab.cmpFail = false ∧ s.dhd.cmpFail = false ∧ fatalPend s = false ∧ 400 * (scanUs s - 1) ≤ 400 * scanUs s ∧ 400 * scanUs s ≤ 400 * (scanUs s + 1)) ∧
    (Tests.scan .run 6).ilkl.scanning = true ∧
    (State.reset.ilkl.scanning = false ∧ State.reset.sys.modePend = none ∧ State.reset.sys.exitPend = false ∧ curTable State.reset = none) := by decide +kernel

theorem witness_ExchangeAndEvaluateAdvance :
    (let s := Tests.scan .run 0; curTable s = some {} ∧ inPhase 0 s = true ∧ tabOk s = true ∧ framesPass s ∧ 399 < 400 ∧ s.sys.mode ≠ .split ∧ s.tab.posA ≤ 1 ∧ s.tab.posB ≤ 1) ∧
    (let s := Tests.scan .split 0; curTable s = some {} ∧ inPhase 0 s = true ∧ tabOk s = true ∧ s.sys.mode = .split) ∧
    (let s := Tests.scan .run 1; curTable s = some {} ∧ inPhase 1 s = true ∧ tabOk s = true ∧ framesPass s ∧ 999 < 1000 ∧ s.ilkl.phaseStart < 1000) := by unfold framesPass; decide +kernel

/-- In the Compare phase with every signal significant and one result that differs. -/
def Tests.diverging : State :=
  { Tests.scan .run 2 with
    ilkA := { (Tests.scan .run 2).ilkA with table := some { mask := BitVec.allOnes _ }, bools := 1 }
    ilkB := { (Tests.scan .run 2).ilkB with table := some { mask := BitVec.allOnes _ }, bools := 2 } }

theorem witness_CompareCommitsTheEpoch :
    (let s := Tests.scan .split 2; let s := { s with ilkl := { s.ilkl with testPend := true } }; curTable s = some {} ∧ inPhase 2 s = true ∧ tabOk s = true ∧ 1199 < 1200 + ({} : Table).cost ∧ 1999 < 2000 + ({} : Table).cost ∧ s.sys.mode = .split ∧
      s.ilkl.testPend = true) ∧
    (let s := Tests.diverging; (curTable s).isSome = true ∧ inPhase 2 s = true ∧ tabOk s = true ∧ framesPass s ∧ s.sys.mode ≠ .split ∧ s.tab.posA ≤ 4 ∧ s.tab.posB ≤ 4 ∧ (hdr s pgIlkA).injCount = 0 ∧ (hdr s pgIlkB).injCount = 0 ∧
      cellIsolated s pgIlkA 0 = false ∧ cellIsolated s pgIlkB 0 = false ∧ s.ilkA.table = s.ilkB.table ∧ (curTable s).any (fun tb =>
      (((trueResult .a (resultVec s.ilkA) ^^^ trueResult .b (resultVec s.ilkB)) &&& tb.mask).setWidth 8192 : BitVec 8192) != 0) = true) := by unfold framesPass; decide +kernel

/-- Both directions of the Tablet have passed the frames of the Compare phase. -/
def Tests.compared (s : State) : State := { s with tab := { s.tab with posA := 6, posB := 6 } }

theorem witness_ScansEndAndLatePhasesTrip :
    (let s := Tests.compared { Tests.scan .run 3 with ilkl := { (Tests.scan .run 3).ilkl with committed := true, trip := true } }; curTable s = some {} ∧ inPhase 3 s = true ∧ s.ilkl.committed = true ∧ tabOk s = true ∧ framesPass s ∧ 6 ≤ s.tab.posA ∧ 6 ≤ s.tab.posB ∧ s.ilkl.trip = true ∧ s.sys.mode ≠ .split) ∧
    (let s := Tests.compared { Tests.scan .safe 3 with ilkl := { (Tests.scan .safe 3).ilkl with committed := true } }; curTable s = some {} ∧ inPhase 3 s = true ∧ s.ilkl.committed = true ∧ tabOk s = true ∧ framesPass s ∧ 6 ≤ s.tab.posA ∧ 6 ≤ s.tab.posB ∧ s.sys.mode ≠ .run) := by unfold framesPass; decide +kernel

theorem witness_ScansEndAndLatePhasesTrip_late :
    (let s := Tests.scan .run 4; curTable s = some {} ∧ inPhase 4 s = true ∧ tabOk s = true ∧ framesPass s ∧ 2399 < 2400 + ({} : Table).cost ∧ s.ilkl.tickPend = false) := by unfold framesPass; decide +kernel

theorem witness_ScansEndAndLatePhasesTrip_rest :
    (let s := Tests.scan .run 5; curTable s = some {} ∧ inPhase 5 s = true ∧ s.ilkl.tickPend = false) ∧
    (curTable (Tests.scan .run 0) = some {} ∧ inPhase 0 (Tests.scan .run 0) = true ∧ (Tests.scan .run 0).ilkl.committed = false) ∧
    (inPhase 4 (Tests.scan .run 4) = true ∧ ({ (Tests.scan .run 4).ilkl with committed := true } : Ilkl).committed = true) ∧
    (let s := Tests.clock 100000 (Tests.between .run); scanningRuns s = true ∧ s.ilkl.imgA.at_ + 100 * (scanUs s + 8) < now s ∧ (linkOf s 0).a.stale = false) ∧
    (let s := { Tests.between .run with ilkl := { State.reset.ilkl with ticks := 1, trip := true } }; scanningRuns s = true ∧ s.ilkl.ticks ≠ 0 ∧ s.dhd.tickOut = false ∧ s.ilkl.trip = true) ∧
    (let s := { Tests.between .run with ilkl := { State.reset.ilkl with ticks := 1 } }; scanningRuns s = true ∧ s.ilkl.ticks ≠ 0 ∧ s.dhd.tickOut = false ∧ s.ilkl.trip = false) := by decide +kernel

/-- A loader command runs. -/
def Tests.loading (r : LoaderRun) (m : Mode) : State := { Tests.up m with ilkl := { State.reset.ilkl with run := some r } }

/-- The checks of a copy in a store that is not in service end with STORE. -/
theorem witness_LoaderCommandsStart_checks : checksGive 0 { code := 0x0F } (Tests.up .service) := by intro d a op copy; rfl

theorem witness_LoaderCommandsStart :
    (reaches .mgt pgIlkl (Tests.up .service) ∧ (Tests.up .service).ilkl.run = none ∧ (Tests.up .service).sys.mode = .service) ∧
    ((Tests.up .service).ilkl.active = none ∧ copyFree { op := 3 } (Tests.up .service) = true ∧ copyFree { op := 2, copy := 1, result := 0, table := some {} } (Tests.up .service) = true) ∧
    (let s := { Tests.up .service with ilkl := { State.reset.ilkl with active := some 1 } }; reaches .mgt pgIlkl s ∧ s.ilkl.run = none ∧ s.sys.mode = .service ∧ s.ilkl.active = some 1) ∧
    (reaches .mgt pgIlkl (Tests.up .run) ∧ (Tests.up .run).ilkl.run = none ∧ (Tests.up .run).sys.mode ≠ .service) ∧
    (reaches .mgt pgIlkl (Tests.loading { op := 1 } .run) ∧ (Tests.loading { op := 1 } .run).ilkl.run = some { op := 1 }) := by
  unfold reaches; decide +kernel

/-- The trip is latched and the pair and the Tablet are in order. -/
def Tests.latched (s : State) : State := { s with ilkl := { s.ilkl with trip := true }, dhd := { s.dhd with lockstep := true } }

theorem witness_TripCommandsClearAndTest :
    (let s := Tests.up .safe; reaches .mgt pgIlkl s ∧ s.ilkl.run = none ∧ modeScans s.sys.mode = true ∧ s.ilkl.trip = false ∧ scansRun s = false) ∧
    (let s := Tests.latched (Tests.between .run); reaches .mgt pgIlkl s ∧ s.ilkl.run = none ∧ modeScans s.sys.mode = true ∧ s.ilkl.trip = true ∧ scansRun s = true ∧ latestTripped s = false ∧ logicFenced s = false ∧ lockstepReport s = true ∧
      s.ilkl.scanning = false ∧ s.sys.modePend = none ∧ s.sys.exitPend = false ∧ curTable s = some {} ∧ s.ilkA.st = .scanning ∧ s.tab.cmpFail = false ∧ s.dhd.cmpFail = false ∧ fatalPend s = false ∧ 400 * (scanUs s - 1) ≤ 400 * (scanUs s + 1)) ∧
    (let s := Tests.latched (Tests.between .run); latestTripped { s with ilkl := { s.ilkl with lastTripped := true } } = true) ∧
    (let s := Tests.latched (Tests.up .safe); reaches .mgt pgIlkl s ∧ s.ilkl.run = none ∧ modeScans s.sys.mode = true ∧ s.ilkl.trip = true ∧ scansRun s = false ∧ fatalPend s = false ∧ s.dhd.cmpFail = false ∧ s.tab.cmpFail = false ∧ logicFenced s = false ∧ lockstepReport s = true) ∧
    (let s := { Tests.latched (Tests.up .safe) with fcr := { State.reset.fcr with srcs := [(5, { srcOf State.reset 5 with pending := 3 })] } }; reaches .mgt pgIlkl s ∧ s.ilkl.run = none ∧ s.ilkl.trip = true ∧ scansRun s = false ∧ fatalPend s = true) := by
  unfold reaches; decide +kernel

theorem witness_TripCommandsClearAndTest_test :
    (let s := Tests.scan .run 2; reaches .mgt pgIlkl s ∧ s.ilkl.run = none ∧ modeScans s.sys.mode = true ∧ scansRun s = true ∧ curTable s = some {} ∧ inPhase 2 s = true ∧ tabOk s = true ∧ framesPass s) := by unfold reaches framesPass; decide +kernel

theorem witness_LoaderCommandsComplete :
    ((Tests.loading { op := 1 } .run).ilkl.run = some { op := 1 } ∧ (Tests.loading { op := 6 } .service).ilkl.run = some { op := 6 } ∧ (Tests.loading { op := 3 } .run).ilkl.run = some { op := 3 }) ∧
    (let r : LoaderRun := { op := 2, table := some {} }; (Tests.loading r .service).ilkl.run = some r ∧ (r.op = 2 ∨ r.op = 7) ∧ r.table = some {}) ∧
    (let r : LoaderRun := { op := 7, table := some {} }; (Tests.loading r .service).ilkl.run = some r ∧ (r.op = 2 ∨ r.op = 7) ∧ r.table = some {}) ∧
    (∀ r : LoaderRun, r ∈ [{ op := 1 }, { op := 6 }, { op := 3 }, { op := 2, table := some {} }, { op := 7, table := some {} }] → copyFree r (Tests.loading r .service) = true) ∧
    (let r : LoaderRun := { op := 2, copy := 1, table := some {} }; copyFree r { Tests.loading r .service with sto := { State.reset.sto with atomics := [{ id := { src := .mbx, cid := 9 }, targets := [(2048, 8192)], addr := 2048 * 65536, data := [1] }] } } = false) ∧
    State.reset.ilkl.run = none := by decide +kernel

theorem witness_PairCountersMismatchesAndWatchdog :
    (reaches .mgt pgIlkA (Tests.up .run) ∧ reaches .mgt pgIlkB (Tests.up .run) ∧ reaches .mgt pgDhd (Tests.up .run) ∧ reaches .mgt pgTab (Tests.up .run)) ∧
    (let k : PairCycle := { groups := [(63, 1, 0), (3, 2, 0)], gates := { ibus := true, dbus := true, dbusWrite := true, dbusStrb := 15, retire := true } }; (Tests.up .run).dhd.split = false ∧ (Tests.up .run).dhd.frozen = false ∧ k.read = none ∧ k.inj = none ∧
      (lowestGroup (flaggedGroups false none k)).isSome = true ∧ inP3 (Tests.up .run) = false ∧ inP3 { State.reset with sys := { State.reset.sys with phase := 3 } } = true) ∧
    (coresRun (Tests.up .run) = true ∧ Nat.xor (groupBits (Tests.up .run).dhd.pinjGroup 0) (groupBits (Tests.up .run).dhd.pinjGroup 0) ≠ 2 ^ (Tests.up .run).dhd.pinjBit ∧ flaggedGroups false none {} = [] ∧
      coresRun { Tests.up .run with dhd := { State.reset.dhd with halted := true } } = false ∧ flaggedGroups true none {} = [] ∧ ({ State.reset.dhd with frozen := true, split := true } : Dhd).frozen = true) ∧
    ((Tests.up .split).sys.mode = .split ∧ (Tests.up .service).sys.mode = .service ∧ (Tests.up .run).sys.mode ≠ .service ∧ (Tests.up .run).sys.mode ≠ .split) ∧
    (let s := Tests.clock 400000 State.reset; s.dhd.wdogOut = false ∧ s.dhd.wdogAt + 400000 ≤ now s) := by
  unfold reaches; decide +kernel

theorem witness_InterruptsAndPeriodicInjection :
    (let s := { State.reset with fcr := { State.reset.fcr with traps := [(1, 0), (2, 0)] } }; s.dhd.frozen = false ∧ s.dhd.halted = false ∧ s.dhd.split = false ∧ s.fcr.traps = (1, 0) :: [(2, 0)]) ∧
    (State.reset.fcr.traps = [] ∧ lowestBit (State.reset.dhd.lines ||| (0x80000000 : BitVec 32)) = some 31 ∧ lowestBit (State.reset.dhd.lines ||| (0x5 : BitVec 32)) = some 0) ∧
    (let s := State.reset; s.ilkl.scanning = false ∧ scansRun s = false ∧ s.dhd.split = false ∧ s.dhd.frozen = false ∧ s.dhd.halted = false ∧ s.dhd.stopped = false ∧ s.dhd.pinjBit + 1 < groupWidth s.dhd.pinjGroup) := by decide +kernel

/-- A frame of the direction from A at its position, without payload checks to fail. -/
def Tests.frame (s : State) (pos : Nat) : TabFrame :=
  let typ := typeAt pos
  let f : TabFrame := { header := BitVec.ofNat 128 ((nextEpoch s.sys.epoch).toNat + 2 ^ 32 * typ + 2 ^ 40 * pos + 2 ^ 56 * lenOf typ + 2 ^ 96 * tagOf .a s), payload := List.replicate (lenOf typ) 3, trailer := 0 }
  { f with trailer := (frameCrc f).setWidth 128 }

/-- A scan in which channel A stands at a position of the Tablet's order. -/
def Tests.atPos (pos : Nat) : State := { Tests.scan .run 1 with tab := { State.reset.tab with posA := pos } }

/-- A frame whose TRAILER holds its CRC and whose header fits its position passes the Tablet's own checks. -/
theorem Tests.frame_passes (src : Chan) (f : TabFrame) (s : State) (h1 : f.trailer = (frameCrc f).setWidth 128)
    (h2 : hBits f.header 40 16 = posOf s src) (h3 : hBits f.header 32 4 = typeAt (posOf s src))
    (h4 : hBits f.header 56 7 = lenOf (hBits f.header 32 4)) (h5 : f.payload.length = hBits f.header 56 7) (h6 : f.header.getLsbD 39 = (src == .b))
    (h7 : (f.header.getLsbD 63 || hBits f.header 70 26 != 0 || (hBits f.header 32 4 != 4 && hBits f.header 64 6 != 0)) = false) : tabletCheck src f s = none := by
  have ht : f.trailer.setWidth 32 = frameCrc f := by rw [h1]; ext i hi; simp
  have hs : f.trailer >>> 32 = 0 := by
    rw [h1]; ext i hi; simp only [BitVec.getElem_ushiftRight, BitVec.getLsbD_setWidth]; simp
  unfold tabletCheck
  rw [if_neg (by simp [ht]), if_neg (by simp [h2, h3]), if_neg (by simp [← h4, h5]), if_neg (fun hn => hn h6), if_neg (by simp only [h7]; decide), if_neg (by simp [hs])]

theorem witness_TabletFramesAreCheckedAndDelivered_barrier :
    let s := Tests.atPos 0; let f := Tests.frame s 0; s.ilkl.scanning = true ∧ s.tab.split = false ∧ s.tab.failedB = false ∧ s.ilkl.committed = false ∧ maySend .a s = true ∧ (hdr s pgTab).injCount = 0 ∧ cellIsolated s pgTab 0 = false ∧ f.mbx = [] ∧
      tabletCheck .a f s = none ∧ isBarrierPos s.tab.posA = true ∧ s.tab.waitB = none :=
  ⟨by decide, by decide, by decide, by decide, by decide, by decide, by decide +kernel, rfl, Tests.frame_passes _ _ _ (by unfold Tests.frame frameCrc; rfl) (by decide +kernel) (by decide +kernel) (by decide +kernel) (by decide +kernel) (by decide +kernel) (by decide +kernel),
    by decide, by decide⟩

theorem witness_TabletFramesAreCheckedAndDelivered_sample :
    let s := { Tests.atPos 1 with tab := { (Tests.atPos 1).tab with posB := 1 } }; let f := Tests.frame s 1; s.ilkl.scanning = true ∧ s.tab.split = false ∧ s.tab.failedB = false ∧ s.ilkl.committed = false ∧ maySend .a s = true ∧
      (hdr s pgTab).injCount = 0 ∧ cellIsolated s pgTab 0 = false ∧ f.mbx = [] ∧ tabletCheck .a f s = none ∧ isBarrierPos s.tab.posA = false ∧ f.inbound = [] ∧ receiverCheck .a f s = none ∧ hBits f.header 32 4 = 2 :=
  ⟨by decide, by decide, by decide, by decide, by decide, by decide, by decide +kernel, rfl, Tests.frame_passes _ _ _ (by unfold Tests.frame frameCrc; rfl) (by decide +kernel) (by decide +kernel) (by decide +kernel) (by decide +kernel) (by decide +kernel) (by decide +kernel),
    by decide, rfl, by decide +kernel, by decide +kernel⟩

theorem witness_TabletFramesAreCheckedAndDelivered_corrupt :
    let s := Tests.atPos 0; let f : TabFrame := { header := 0, payload := [], trailer := 1 }; s.ilkl.scanning = true ∧ s.tab.split = false ∧ s.tab.failedB = false ∧ s.ilkl.committed = false ∧ maySend .a s = true ∧ (hdr s pgTab).injCount = 0 ∧
      cellIsolated s pgTab 0 = false ∧ f.mbx = [] ∧ (tabletCheck .a f s).isSome = true := by decide +kernel

/-! ## Witnesses: tiles and their links -/

/-- Every tile side stands as given. -/
def Tests.sides (x : Side) (s : State) : State := { s with tiles := Vector.replicate 8 { a := x, b := x } }

/-- Every link controller stands as given. -/
def Tests.ports (l : Link) (s : State) : State := { s with links := Vector.replicate 8 l }

theorem witness_TileProtectionSwitchesOutputsOff :
    (let s := Tests.sides { cfg := Vector.replicate 16 3, supply := .ready, cmd := 0xFFFF, dark := 0xFFFF } State.reset; 5 < 6 ∧ tilePresent s.variant 5 = true ∧ 15 < 16 ∧ (List.range 8).any (fun m => drivenPin (sideOf (Tests.sides { cfg := Vector.replicate 16 (BitVec.ofNat 32 m), supply := .ready, cmd := 0xFFFF } s) 5 .a) 15) = true) ∧
    (tilePresent State.reset.variant 0 = true ∧ tilePresent State.reset.variant 7 = true) ∧
    (let s := Tests.clock 1960 State.reset; 6 ≤ 7 ∧ 7 < 8 ∧ tilePresent s.variant 7 = true ∧ (sideOf s 7 .b).acceptAt + 1960 ≤ now s ∧ watchdogFrom (now s) (sideOf s 7 .b) + 1960 ≤ now s ∧ watchdogFrom (now s) (sideOf s 5 .a) + 1960 ≤ now s) ∧
    (let s := Tests.clock 1959 State.reset; now s < watchdogFrom (now s) (sideOf s 6 .a) + 1960) := by decide +kernel

theorem witness_TileSuppliesAndResets :
    (let s := Tests.sides { supply := .ready } State.reset; tilePresent s.variant 7 = true ∧ (sideOf s 7 .b).supply = .ready ∧ Band.low ≠ .normal) ∧
    ((sideOf State.reset 0 .a).supply ≠ .ready ∧ Band.low ≠ .normal) ∧
    (let s := Tests.sides { belowAt := some 0, supply := .qualifying } (Tests.clock 98000 State.reset); (sideOf s 7 .b).belowAt = some 0 ∧ 0 + 98000 ≤ now s ∧ (sideOf s 7 .b).supply ≠ .ready) ∧
    (let s := Tests.sides { normalAt := some 0, supply := .qualifying } (Tests.clock 9800000 State.reset); (sideOf s 0 .a).normalAt = some 0 ∧ 0 + 9800000 ≤ now s ∧ (sideOf s 0 .a).supply = .qualifying) ∧
    (sideOf (Tests.sides { supply := .ready } State.reset) 0 .a).supply ≠ .qualifying ∧
    (let s := Tests.sides { dark := 1, cfg := Vector.replicate 16 2 } State.reset; (sideOf s 5 .a).dark.getLsbD 0 = true ∧ cfgMode (vGet (sideOf s 5 .a).cfg 0 0) = 2 ∧ cfgPexempt (vGet (sideOf s 5 .a).cfg 0 0) = false ∧ (sideOf s 5 .a).ended.getLsbD 0 = false) ∧
    (let s := Tests.clock 98000 State.reset; (sideOf s 7 .a).acceptAt + 98000 ≤ now s ∧ (sideOf s 7 .b).acceptAt + 98000 ≤ now s) ∧
    (let s := Tests.ports { resetSeq := true } State.reset; tilePresent s.variant 7 = true ∧ (linkOf s 7).resetSeq = true) := by decide +kernel

/-- An inbound frame with an ALIVE. -/
def Tests.inb (n : Nat) : State := Tests.ports { up := true, a := { aliveRef := some 0, inb := some { alive := BitVec.ofNat _ n } } } State.reset

theorem witness_TileLevelsInboundFramesAndLinks :
    (let s := Tests.sides { cfg := Vector.replicate 16 0xFFFFFFFF } (Tests.clock 2500000 State.reset); tilePresent s.variant 5 = true ∧ 15 < 16 ∧ (sideOf s 5 .a).fltA.getLsbD 15 ≠ true ∧ testedPath s 5 = none ∧ filterPasses (now s) (sideOf s 5 .a) 15 510000 .a = true ∧ cfgTs (vGet (sideOf s 5 .a).cfg 15 0) = true ∧ (sideOf s 5 .a).capt.length < 16) ∧
    (let s := Tests.sides { cfg := Vector.replicate 16 0xFFFFFFFF, capt := List.replicate 16 { pin := 0, path := .a, level := true, time := 0 } } (Tests.clock 2500000 State.reset); (sideOf s 0 .a).fltA.getLsbD 0 ≠ true ∧ testedPath s 0 = none ∧ filterPasses (now s) (sideOf s 0 .a) 0 510000 .a = true ∧ cfgTs (vGet (sideOf s 0 .a).cfg 0 0) = true ∧ 16 ≤ (sideOf s 0 .a).capt.length) ∧
    (let s := Tests.clock 1000000 State.reset; cfgTs (vGet (sideOf s 0 .a).cfg 0 0) = false ∧ filterPasses (now s) (sideOf s 0 .a) 0 4 .a = true ∧ filterPasses (now s) (sideOf s 0 .a) 0 3 .a = false) ∧
    (let s := Tests.inb 1; 5 < 6 ∧ (linkOf s 5).a.inb.isSome = true ∧ linkFenced 5 s = false ∧ (hdr s (pgTile 5)).injCount = 0 ∧ (linkOf s 5).a.inb.all (fun f => f.alive == (linkOf s 5).a.aliveRef.getD 0 + 1) = true) ∧
    (let s := Tests.inb 2; (linkOf s 0).a.inb.isSome = true ∧ linkFenced 0 s = false ∧ (linkOf s 0).a.inb.all (fun f => f.alive != (linkOf s 0).a.aliveRef.getD 0 + 1) = true) ∧
    ((linkOf (Tests.inb 1) 7).up = true ∧ tilePresent (Tests.inb 1).variant 7 = true) ∧ (linkOf State.reset 7).up = false := by decide +kernel

/-- An outbound frame with an ALIVE that has arrived at its tile. -/
def Tests.outb (n : Nat) : State := Tests.sides { aliveRef := some 0 } (Tests.ports { up := true, a := { out := some { alive := BitVec.ofNat _ n, cmd := 0, dark := 0, light := 0, rearm := false, ackFresh := false, cfgIdx := 0, cfgWord := 0, snapTime := 0, snapSeq := 0, rbPin := 0, rbUse := 0, epoch := 0, sentAt := 0 } } } (Tests.up .run))

theorem witness_OutboundFramesReachTheirTiles :
    (let s := Tests.ports { up := true } (Tests.up .safe); 7 < 8 ∧ tilePresent s.variant 7 = true ∧ (linkOf s 7).up = true ∧ modeWithholds 7 s = false ∧ linkFenced 7 s = false ∧ s.ast.unusableTiles.getLsbD 7 = false ∧ s.sys.mode ≠ .parked ∧ (linkOf s 7).a.stale = false) ∧
    (tilePresent State.reset.variant 7 = true ∧ (linkOf State.reset 7).up = false) ∧
    (let s := Tests.outb 1; (linkOf s 5).a.out.isSome = true ∧ vGet s.ast.tile 5 none = none ∧ (linkOf s 5).a.out.all (fun f => f.alive == (sideOf s 5 .a).aliveRef.getD 0 + 1) = true) ∧
    (let s := Tests.outb 2; (linkOf s 0).a.out.isSome = true ∧ vGet s.ast.tile 0 none = none ∧ (linkOf s 0).a.out.all (fun f => f.alive != (sideOf s 0 .a).aliveRef.getD 0 + 1) = true) := by decide +kernel

theorem witness_TileRegistersTakeWrites :
    (reaches .mgt (pgTile 7) (Tests.up .service) ∧ (Tests.up .service).sys.mode = .service ∧ 0 < cfgSlots 7 ∧ (0 : Word32) &&& 0x0000001F = 0 ∧ outcfgOk 0 = true) ∧
    (reaches .mgt (pgTile 0) (Tests.up .service) ∧ 15 < cfgSlots 0 ∧ (0 : Word32) &&& 0x0F80FF37 = 0 ∧ pincfgOk 0 = true ∧ (7 : Word32) &&& 0x0F80FF37 = 7 ∧ pincfgOk 7 = false) ∧
    (reaches .mgt (pgTile 0) (Tests.up .run) ∧ (Tests.up .run).sys.mode ≠ .service) := by
  unfold reaches; decide +kernel

/-! ## Witnesses: the Timetable -/

theorem witness_TimetableRecordsAndClaims :
    (let c : Claim := { kind := 5, index := 3, use := 2, source := 0, tperiod := 4, foff := 0, soff := 0, width := 1 }; let s := { State.reset with tbl := { State.reset.tbl with claims := some [c], overdue := [(0, 8)], now := 1608 } }
      (s.tbl.claims.getD [])[0]? = some c ∧ smGet s.tbl.overdue 0 = some 8 ∧ c.kind = 5 ∧ 8 + 400 * c.tperiod ≤ s.tbl.now) ∧
    (let c : Capture := { pin := 95, level := true, start := 0 }; let s := { State.reset with tbl := { State.reset.tbl with captures := [c], now := 40 } }
      (s.tbl.captures.find? fun x => pinTile x.pin == 5) = some c ∧ c.start + 40 ≤ s.tbl.now) ∧
    (reaches .mgt pgTbl (Tests.up .safe) ∧ (Tests.up .safe).sys.mode = .safe) ∧
    (let s := Tests.loading { op := 2 } .service; reaches .mgt pgTbl s ∧ claimCheckRun s = true) ∧
    (let s := Tests.up .safe; claimCheckRun s = false ∧ 2 ≤ (2 : BitVec 3).toNat ∧ ¬((2 : BitVec 3).toNat = 2 ∧ (31 : BitVec 7).toNat = 0) ∧ resourceExists s.variant 2 31 = true ∧ ownerOf s 2 31 = .free ∧ resourceExists s.variant 4 0 = true ∧ ownerOf s 4 0 = .free) ∧
    (let s := Tests.owned 3 8 (Tests.up .service); reaches .mgt pgTbl s ∧ claimCheckRun s = false ∧ s.sys.mode = .service ∧ resourceExists s.variant 3 7 = true ∧ ownerOf s 3 7 = .host ∧ ownerOf s 3 7 ≠ .free) := by
  unfold reaches; decide +kernel

/-! ## Witnesses: the store -/

/-- The identity of the command the witnesses use: one written to the mailbox. -/
def Tests.ident : CmdId := { src := .mbx, cid := 3 }

/-- A command that has been fetched. -/
def Tests.command (op addr len : Nat) : Cmd :=
  { id := Tests.ident, desc := { opcode := BitVec.ofNat 8 op, cid := 3, addr := BitVec.ofNat 64 addr, length := BitVec.ofNat 32 len, source := 7, cls := 2 }, stage := .fetched }

/-- The store is in service with the default layout, and the journal runs. -/
def Tests.store (m : Mode) : State :=
  { Tests.linked m with
    sto := { State.reset.sto with mapOk := true, layout := defaultLayout .gw968, floor := 2 ^ 40, ptOk := #v[true, true] }
    jrn := { State.reset.jrn with st := .running }
    boot := { State.reset.boot with sfdp := true } }

/-- The same with one command fetched. -/
def Tests.withCmd (op addr len : Nat) (s : State) : State := { s with pcie := { s.pcie with cmds := [Tests.command op addr len] } }

/-- The store with other contents. -/
def Tests.sto (f : Sto → Sto) (s : State) : State := { s with sto := f s.sto }

/-- Parking of the store has begun. -/
def Tests.parks (s : State) : State := Tests.sto (fun x => { x with parking := true }) s

theorem witness_StoreReadsDeliverTheBytes :
    (let s := Tests.parks (Tests.withCmd 1 0 16 (Tests.store .run)); fetchedCmd s Tests.ident 0x01 = some (Tests.command 1 0 16) ∧ s.sto.parking = true ∧ s.sto.parked = false) ∧
    (let s := Tests.withCmd 1 8 16 (Tests.store .run); fetchedCmd s Tests.ident 0x01 = some (Tests.command 1 8 16) ∧ s.sto.parking = false ∧ (readRefusal s 8 16).isSome = true) ∧
    (let s := Tests.withCmd 1 0 16 (Tests.store .run); fetchedCmd s Tests.ident 0x01 = some (Tests.command 1 0 16) ∧ s.sto.parking = false ∧ readRefusal s 0 16 = none ∧ Tests.ident.src = .mbx ∧ (hdr s pgSto).injCount = 0 ∧ s.sto.dead = 0 ∧
      s.sto.poison = [] ∧ s.sto.bankIso = 0) ∧
    (let s := Tests.sto (fun x => { x with poison := [1] }) (Tests.withCmd 1 16 16 (Tests.store .run)); fetchedCmd s Tests.ident 0x01 = some (Tests.command 1 16 16) ∧ s.sto.parking = false ∧ readRefusal s 16 16 = none ∧ (hdr s pgSto).injCount = 0 ∧
      s.sto.dead = 0 ∧ (Tests.command 1 16 16).desc.length = 16 ∧ physAddr s.sto 16 / 16 ∈ s.sto.poison) := by decide +kernel

/-- The write the witnesses make. -/
def Tests.waiting (atomic : Bool) (s : State) : WaitWrite := { id := Tests.ident, atomic := atomic, addr := 0, data := cmdData (Tests.command 2 0 16) [] s }

/-- Nothing locks the first ingot, and no write waits. -/
def Tests.unlocked (atomic : Bool) (s : State) : Bool :=
  !waitsFor s.sto.waits (Tests.waiting atomic s) && !(ingotsOf 0 16).any (fun k => ingotLocked s.sto k || (waitingLocks s.sto (atomicPlaces - s.sto.atomics.length) [] s.sto.waits).contains k)

theorem witness_StoreWritesLand :
    (let s := Tests.parks (Tests.withCmd 2 0 16 (Tests.store .run)); fetchedCmd s Tests.ident 0x02 = some (Tests.command 2 0 16) ∧ s.sto.parking = true ∧ s.sto.parked = false) ∧
    (let s := Tests.withCmd 2 8 16 (Tests.store .run); fetchedCmd s Tests.ident 0x02 = some (Tests.command 2 8 16) ∧ s.sto.parking = false ∧ (writeRefusal s false 8 16).isSome = true) ∧
    (let s := Tests.sto (fun x => { x with dead := 1 }) (Tests.withCmd 2 0 16 (Tests.store .run)); fetchedCmd s Tests.ident 0x02 = some (Tests.command 2 0 16) ∧ s.sto.parking = false ∧ writeRefusal s false 0 16 = none ∧ (deadAddr s 0 16).isSome = true) ∧
    (let s := Tests.withCmd 2 0 16 (Tests.store .run); fetchedCmd s Tests.ident 0x02 = some (Tests.command 2 0 16) ∧ s.sto.parking = false ∧ writeRefusal s false 0 16 = none ∧ deadAddr s 0 16 = none ∧ Tests.ident.src = .mbx ∧ (hdr s pgMgt).injCount = 0 ∧
      cellIsolated s pgMgt 0 = false ∧ Tests.unlocked false s = true ∧ (∀ i ∈ ingotsOf 0 16, ∀ j ∈ ingotsOf 0 16, physIngot s.sto i = physIngot s.sto j → i = j)) ∧
    (let s := Tests.sto (fun x => { x with atomics := [{ id := { src := .mbx, cid := 9 }, targets := [(0, 8192)], addr := 0, data := [1] }] }) (Tests.withCmd 2 0 16 (Tests.store .run)); s.sto.parking = false ∧ writeRefusal s false 0 16 = none ∧
      deadAddr s 0 16 = none ∧ (hdr s pgMgt).injCount = 0 ∧ cellIsolated s pgMgt 0 = false ∧ (ingotsOf 0 16).any (ingotLocked s.sto) = true) := by decide +kernel

/-- Empty memory is in the store's form. -/
theorem witness_StoreWritesLand_canonical : storeCanonical (Tests.withCmd 2 0 16 (Tests.store .run)) := by unfold storeCanonical; decide +kernel

theorem witness_AtomicWritesCommit :
    (let s := Tests.withCmd 3 8 16 (Tests.store .run); fetchedCmd s Tests.ident 0x03 = some (Tests.command 3 8 16) ∧ s.sto.parking = false ∧ (writeRefusal s true 8 16).isSome = true) ∧
    (let s := Tests.withCmd 3 0 16 (Tests.store .run); fetchedCmd s Tests.ident 0x03 = some (Tests.command 3 0 16) ∧ s.sto.parking = false ∧ writeRefusal s true 0 16 = none ∧ deadAddr s 0 16 = none ∧ (hdr s pgMgt).injCount = 0 ∧
      cellIsolated s pgMgt 0 = false ∧ Tests.unlocked true s = true ∧ s.sto.atomics.length < 16 ∧ (ingotsOf 0 16).length ≤ (freeShadows s).length) ∧
    (let x : Atomic := { id := Tests.ident, targets := [(0, 8192), (1, 8193)], addr := 65520, data := [1, 2, 3, 4, 5, 6, 7, 8, 9, 10, 11, 12, 13, 14, 15, 16, 17, 18, 19, 20, 21, 22, 23, 24, 25, 26, 27, 28, 29, 30, 31, 32] }
      let s := Tests.sto (fun y => { y with atomics := [x] }) (Tests.withCmd 3 65520 32 (Tests.store .run)); s.sto.atomics.find? (fun y => y.id == Tests.ident) = some x ∧ s.sto.waits = [] ∧ s.jrn.flushes = [] ∧ (s.sto.map.map Prod.fst).Nodup ∧
      1 ≤ x.targets.length ∧ x.targets.length ≤ 2 ∧ (x.targets.map Prod.fst).Nodup ∧ (x.targets.map Prod.snd).Nodup ∧ (∀ e ∈ x.targets, ∀ d ∈ x.targets, e.2 ≠ physIngot s.sto d.1) ∧
      (∀ k, k < x.data.length → (x.addr + k) / 65536 ∈ x.targets.map Prod.fst)) := by decide +kernel

theorem witness_AtomicWritesCommit_canonical : storeCanonical (Tests.sto (fun y => { y with atomics := [{ id := Tests.ident, targets := [(0, 8192)], addr := 0, data := [1] }] }) (Tests.store .run)) := by unfold storeCanonical; decide +kernel

theorem witness_StoreMigratesScrubsAndParks :
    (let s := Tests.withCmd 4 0 0 (Tests.store .run); fetchedCmd s Tests.ident 0x04 = some (Tests.command 4 0 0) ∧ pageFenced s pgSto = false ∧ jrnRefusal s = none ∧ s.jrn.flushes = [] ∧ s.jrn.waiting = [] ∧ s.jrn.buf = [] ∧ s.sto.atomics = [] ∧ s.sto.waits = []) ∧
    (let b : BufRec := { r := { time := 0, epoch := 0, source := 4, cls := 1, payload := [] }, host := false, at_ := 0, no := 5 }; let s := { Tests.withCmd 4 0 0 (Tests.store .run) with jrn := { (Tests.store .run).jrn with buf := [b], admitted := 5 } }; fetchedCmd s Tests.ident 0x04 = some (Tests.command 4 0 0) ∧ jrnRefusal s = none ∧
      s.jrn.flushes = [] ∧ ∃ b ∈ s.jrn.waiting ++ s.jrn.buf, b.no ≤ s.jrn.admitted) ∧
    ((vGet (Tests.sto (fun y => { y with migr := #v[some 3, none] }) State.reset).sto.migr 0 none).isSome = true ∧ vGet State.reset.sto.migr 1 none = none) ∧
    (let s := Tests.store .run; (hdr s pgSto).injCount = 0 ∧ s.sto.bankIso = 0 ∧ s.sto.dead = 0 ∧ s.sto.poison = [] ∧ s.sto.scrubEn = true ∧ s.sto.mapOk = true ∧ s.sto.parked = false ∧ s.sto.parking = false ∧ s.sto.scrubLine < 1023) ∧
    (let s := Tests.sto (fun y => { y with scrubLine := 1023, scrubIngot := 8230 }) (Tests.store .run); s.sto.scrubEn = true ∧ s.sto.mapOk = true ∧ 1023 ≤ s.sto.scrubLine ∧ s.sto.scrubIngot + 1 < capIngots s.variant + 40) ∧
    (let s := Tests.sto (fun y => { y with scrubLine := 1023, scrubIngot := 8231 }) (Tests.store .run); s.sto.scrubEn = true ∧ s.sto.mapOk = true ∧ 1023 ≤ s.sto.scrubLine ∧ capIngots s.variant + 40 ≤ s.sto.scrubIngot + 1) ∧
    State.reset.sto.mapOk = false ∧ reaches .mgt pgSto (Tests.up .safe) ∧
    (let s := { Tests.store .run with pwr := { State.reset.pwr with pfRun := true } }; s.pwr.pfRun = true ∧ s.sto.parking = false ∧ s.sto.parked = false ∧ s.sto.atomics.all (fun a => !([] : List CmdId).contains a.id) = true) ∧
    (State.reset.pwr.pfRun = false ∧ State.reset.rst.chip = none) ∧
    (let s := Tests.sto (fun y => { y with parking := true }) State.reset; s.sto.parking = true ∧ s.sto.atomics = []) ∧ State.reset.sto.parking = false := by unfold reaches; decide +kernel

/-- A partition table of 20 + 7920 bytes stands in the first copy: its signature, its length and one more byte. -/
def Tests.withTable : State :=
  Tests.sto (fun y => { y with ptRepair := true, ptCopy := 0, mem := let b := (2048 + 8) * 65536; [(b, 0x47), (b + 1, 0x57), (b + 2, 0x50), (b + 3, 0x54), (b + 20, 0xF0), (b + 21, 0x1E), (b + 7000, 5)] }) (Tests.store .run)

theorem witness_MapAndPartitionTable :
    (let s := { Tests.linked .run with tch := { State.reset.tch with marginDone := true } }; s.sto.mapOk = false ∧ pageFenced s pgSto = false ∧ s.tch.marginDone = true ∧ s.sto.mem = []) ∧
    State.reset.tch.marginDone = false ∧ reaches .mgt pgSto (Tests.up .safe) ∧
    (let s := Tests.withTable; s.sto.ptRepair = true ∧ s.sys.phase = 15 ∧ s.sto.parked = false ∧ s.sto.parking = false ∧ itemFree (cfgAddr (8 + (1 - s.sto.ptCopy))) 65536 s = true) ∧ State.reset.sto.ptRepair = false := by unfold reaches; decide +kernel

theorem witness_MapAndPartitionTable_image : (match (readImage (cfgAddr 8) (ascii "GWPT") 20 65536 Tests.withTable).1 with | some l => !l.isEmpty | none => false) = true := by decide +kernel

theorem witness_MapAndPartitionTable_canonical : storeCanonical Tests.withTable := by unfold storeCanonical; decide +kernel

/-! ## Witnesses: the boot window and the Brake van -/

/-- The boot window as given. -/
def Tests.boot (b : Boot) (s : State) : State := { s with boot := b }

/-- A manifest of an image of `n` bytes. -/
def Tests.manifest (n : Nat) : Manifest := { svn := 5, imageLen := n, chunks := (n + 65535) / 65536, hashes := [] }

theorem witness_BootSelectsAndLoads :
    (let s := Tests.store .run; s.boot.st = .selecting ∧ s.sto.mapOk = true ∧ s.sto.layout ≠ [] ∧ s.sto.parked = false ∧ s.sto.parking = false ∧ pageFenced s pgBoot = false ∧ pageFenced s pgSto = false ∧ s.sto.waits = [] ∧ s.sto.atomics = [] ∧ s.sto.mem = []) ∧
    (let s := Tests.boot { st := .loading, manifest := some (Tests.manifest 65537), loading := [1, 0] } (Tests.store .run); s.boot.st ≠ .selecting ∧ s.boot.manifest = some (Tests.manifest 65537) ∧ 1 ∈ s.boot.loading ∧ 2 ∉ s.boot.loading ∧
      s.sto.parked = false ∧ s.sto.parking = false ∧ (hdr s pgSto).injCount = 0 ∧ s.sto.bankIso = 0 ∧ s.sto.dead = 0 ∧ s.sto.poison = [] ∧ s.boot.chunks.length ≤ 4) ∧
    State.reset.boot.manifest = none := by decide +kernel

theorem witness_BootRearmsAndReleases :
    (let s := Tests.boot { st := .serving, lock := true, resetEnabled := true } (Tests.up .run); reaches .mgt pgBoot s ∧ s.boot.st = .serving ∧ s.boot.st ≠ .selecting ∧ s.boot.resetEnabled = true) ∧
    (let s := Tests.up .run; reaches .mgt pgBoot s ∧ s.boot.st = .selecting ∧ s.boot.st ≠ .serving ∧ s.boot.resetEnabled = false) := by unfold reaches; decide +kernel

theorem witness_BootPortServes :
    (let s := Tests.boot { ifmode := true } (Tests.up .parked); s.boot.ifmode = true ∧ s.sys.mode = .parked) ∧ State.reset.boot.ifmode = false ∧
    ((Tests.up .run).sys.mode ≠ .parked ∧ (Tests.up .run).boot.manifest = none) ∧
    (let s := Tests.boot { st := .serving, manifest := some (Tests.manifest 100), chunks := [{ n := 0, bytes := [1, 2] }], sfdp := true, wel := true } (Tests.store .run);
      s.sys.mode ≠ .parked ∧ s.boot.manifest = some (Tests.manifest 100) ∧ (Tests.manifest 100).imageLen ≤ (100 : Word32).toNat ∧ 0 < 1 ∧ (99 : Word32).toNat + 1 ≤ (Tests.manifest 100).imageLen ∧ (99 : Word32).toNat / 65536 = ((99 : Word32).toNat + 1 - 1) / 65536 ∧
      chunkOf s.boot ((99 : Word32).toNat / 65536) = some { n := 0, bytes := [1, 2] } ∧ (hdr s pgBoot).injCount = 0 ∧ cellIsolated s pgBoot 0 = false ∧ s.boot.sfdp = true ∧ s.boot.wel = true) ∧
    (∀ n < 3, let s := Tests.boot { st := .serving, manifest := some (Tests.manifest 100), fails := if n = 0 then [] else [(0, n)] } (Tests.store .run); (99 : Word32).toNat < (Tests.manifest 100).imageLen ∧ chunkOf s.boot ((99 : Word32).toNat / 65536) = none ∧
      chunkFails s.boot ((99 : Word32).toNat / 65536) = n) ∧
    State.reset.boot.sfdp = false ∧ State.reset.boot.wel = false := by decide +kernel

theorem witness_BootCommandsRewriteTheRecord :
    (let s := Tests.boot { st := .serving, manifest := some (Tests.manifest 100) } (Tests.up .run); reaches .mgt pgBoot s ∧ s.boot.run = none ∧ s.boot.st = .serving) ∧
    (let s := Tests.up .run; reaches .mgt pgBoot s ∧ s.boot.run = none ∧ s.boot.st ≠ .serving ∧ s.boot.st ≠ .released ∧ s.sto.mem = []) ∧
    (let s := Tests.boot { st := .serving, recIngot := 10, run := some { result := 0, record := some {} } } (Tests.store .run); reaches .mgt pgBoot s ∧ s.boot.run = some { result := 0, record := some {} } ∧ s.boot.run.isSome = true ∧
      s.sto.parked = false ∧ s.sto.parking = false ∧ s.sto.mapOk = true) := by unfold reaches; decide +kernel

theorem witness_BootCommandsRewriteTheRecord_trial : trialGives true .bad (Tests.up .run) := by intro d a v; rfl

theorem witness_BootCommandsRewriteTheRecord_canonical : storeCanonical (Tests.store .run) := by unfold storeCanonical; decide +kernel

/-- The Brake van changed. -/
def Tests.jrn (f : Jrn → Jrn) (s : State) : State := { s with jrn := f s.jrn }

/-- A JOURNAL_APPEND of `len` bytes of zeros. -/
def Tests.append (len source flags : Nat) (s : State) : State :=
  { s with pcie := { s.pcie with cmds := [{ Tests.command 0x10 0 len with desc := { (Tests.command 0x10 0 len).desc with source := BitVec.ofNat 16 source, flags := BitVec.ofNat 8 flags } }] } }

/-- The first of the commands, which is one. -/
def Tests.only (s : State) : Cmd := s.pcie.cmds.headD (Tests.command 0 0 0)

/-- A record that waits in the buffer. -/
def Tests.buffered (host : Bool) (no : Nat) (payload : List Byte) : BufRec := { r := { time := 9, epoch := 3, source := 0x100, cls := 1, payload := payload }, host := host, at_ := 9, no := no }

theorem witness_JournalAdmitsHostRecords :
    (let s := Tests.jrn (fun j => { j with st := .sealed }) (Tests.append 16 0x100 0 (Tests.store .run)); fetchedCmd s Tests.ident 0x10 = some (Tests.only s) ∧ firstOfQueue s (Tests.only s) = true ∧ (jrnRefusal s).isSome = true) ∧
    (let s := Tests.append 16 0xFF 0 (Tests.store .run); fetchedCmd s Tests.ident 0x10 = some (Tests.only s) ∧ firstOfQueue s (Tests.only s) = true ∧ jrnRefusal s = none ∧ (Tests.only s).desc.source.toNat < 0x100) ∧
    (let s := Tests.append 4065 0x100 0 (Tests.store .run); fetchedCmd s Tests.ident 0x10 = some (Tests.only s) ∧ firstOfQueue s (Tests.only s) = true ∧ jrnRefusal s = none ∧ 0x100 ≤ (Tests.only s).desc.source.toNat ∧ 4064 < (Tests.only s).desc.length.toNat) ∧
    (let s := Tests.jrn (fun j => { j with k := 1000000 }) (Tests.append 4064 0x100 0 (Tests.store .run)); fetchedCmd s Tests.ident 0x10 = some (Tests.only s) ∧ firstOfQueue s (Tests.only s) = true ∧ jrnRefusal s = none ∧
      0x100 ≤ (Tests.only s).desc.source.toNat ∧ (Tests.only s).desc.length.toNat ≤ 4064 ∧ (hdr s pgMgt).injCount = 0 ∧ cellIsolated s pgMgt 0 = false ∧ occHost s.jrn + 4096 ≤ windowUnits s * 65536 ∧ occHost s.jrn + 4096 ≤ lossyUnits s * 65536 ∧
      (!s.jrn.overcommit && decide (occHost s.jrn + 4096 + 262144 ≤ s.jrn.k)) = true) ∧
    (let s := Tests.append 4064 0x100 1 (Tests.store .run); fetchedCmd s Tests.ident 0x10 = some (Tests.only s) ∧ jrnRefusal s = none ∧ (Tests.only s).desc.flags.getLsbD 0 = true ∧ (!s.jrn.overcommit && decide (occHost s.jrn + 4096 + 262144 ≤ s.jrn.k)) = false) ∧
    (let s := Tests.append 4064 0x100 0 (Tests.store .run); (Tests.only s).desc.flags.getLsbD 0 = false ∧ (!s.jrn.overcommit && decide (occHost s.jrn + 4096 + 262144 ≤ s.jrn.k)) = false) ∧
    (let s := Tests.jrn (fun j => { j with k := 1000000 }) (Tests.withCmd 0x12 0 0 (Tests.store .run)); fetchedCmd s Tests.ident 0x12 = some (Tests.only s) ∧ firstOfQueue s (Tests.only s) = true ∧ jrnRefusal s = none ∧
      occHost s.jrn + 2800 ≤ windowUnits s * 65536 ∧ s.jrn.overcommit = false ∧ occHost s.jrn + 2800 + 262144 ≤ s.jrn.k ∧ latestBuf s = none) ∧
    (let b : EpochBuf := { epoch := 3, time := 9, body := List.replicate 2768 4, frames := [], crc := 0 }
      let s := { Tests.jrn (fun j => { j with k := 1000000 }) (Tests.withCmd 0x12 0 0 (Tests.store .run)) with ep := { State.reset.ep with latest := some 1, bufs := vSet State.reset.ep.bufs 1 (some b) } }
      fetchedCmd s Tests.ident 0x12 = some (Tests.only s) ∧ jrnRefusal s = none ∧ latestBuf s = some b ∧ b.body.length = 2768) := by decide +kernel

theorem witness_RecordsReceiveTheirOrder :
    (let b := { Tests.buffered true 1 [7] with cmd := some Tests.ident }; let s := Tests.jrn (fun j => { j with waiting := [b] }) (Tests.withCmd 0x10 0 16 (Tests.store .run)); jrnAdmits s.jrn = true ∧ s.fcr.inbox = [] ∧
      s.jrn.nextSeq + s.jrn.waiting.length ≤ s.sto.floor ∧ s.jrn.waiting = [b] ∧ b.cmd = some Tests.ident) ∧
    (jrnAdmits State.reset.jrn = false ∧ State.reset.jrn.floorReq = false ∧ State.reset.jrn.gapRecs = 0) ∧
    (Tests.jrn (fun j => { j with floorReq := true }) State.reset).jrn.floorReq = true ∧
    (let s := Tests.clock 100000 (Tests.jrn (fun j => { j with gapMs := 0, gapRecs := 1 }) (Tests.store .run)); s.jrn.gapMs < msNow s ∧ 0 < s.jrn.gapRecs ∧ jrnAdmits s.jrn = true) := by decide +kernel

theorem witness_CreditFollowsTheMeasurement :
    (let s := Tests.jrn (fun j => { j with judged := true, weakRaised := false, shortRaised := false }) (Tests.store .run); s.jrn.judged = true ∧ s.jrn.st ≠ .recovering ∧ creditOf 0 s.jrn.cMeas s.jrn.esr < 262144 ∧ s.jrn.weakRaised = false ∧ s.jrn.shortRaised = false) ∧
    (let s := Tests.store .run; s.jrn.meas = .idle ∧ s.pwr.pfRun = false ∧ reaches .mgt pgJrn s) ∧
    (let s := Tests.jrn (fun j => { j with meas := .due, holdV := 2979, postponed := 8 }) (Tests.store .run); s.jrn.meas = .due ∧ s.jrn.meas ≠ .idle ∧ s.jrn.holdV < 2980 ∧ s.jrn.postponed + 1 < 10 ∧ reaches .mgt pgJrn s) ∧
    (let s := Tests.jrn (fun j => { j with meas := .due, holdV := 2979, postponed := 9 }) (Tests.store .run); s.jrn.meas = .due ∧ s.jrn.holdV < 2980 ∧ 10 ≤ s.jrn.postponed + 1) ∧
    (let s := Tests.jrn (fun j => { j with meas := .due, holdV := 2980 }) (Tests.store .run); s.jrn.meas = .due ∧ 2980 ≤ s.jrn.holdV ∧ measMayStart s.jrn = true ∧ s.pwr.pfRun = false ∧ 1000 ≤ 1000 ∧ 1000 < 1001) ∧
    ((Tests.jrn (fun j => { j with meas := .sinking 2000 }) State.reset).jrn.meas = .sinking 2000 ∧ (Tests.jrn (fun j => { j with meas := .timing 0 }) State.reset).jrn.meas = .timing 0) := by unfold reaches; decide +kernel

/-- A sealed record. -/
def Tests.sealedRec : Rec := { seq := 7, time := 9, epoch := 3, source := 0x100, cls := 1, payload := [5, 6] }

/-- It stands at the first word of the ring, and is the oldest and the newest. -/
def Tests.withSealed (n : Nat) : State :=
  Tests.jrn (fun j => { j with oldestSeq := 7, sealedSeq := 7, oldestPos := 0 })
    (Tests.sto (fun x => { x with mem := (List.range 48).map fun i => ((2304 + 2) * 65536 + i, (recBytes Tests.sealedRec).getD i 0) }) (Tests.withCmd 0x11 7 n (Tests.store .run)))

theorem witness_BatchesSealMarkAndAreRead :
    (let b := Tests.buffered true 1 [7]; let s := Tests.jrn (fun j => { j with buf := [b], pos := 23060479 }) (Tests.store .run); jrnDrains s = true ∧ partOfType s.sto 4 = some { typ := 4, first := 2304, count := 5632 } ∧ 4 ≤ 5632 ∧ 5632 ≤ 8192 ∧
      (batchOf 256 65536 s.jrn.buf).getLast? = some b ∧ s.jrn.buf = [b] ∧ b.r.payload.length ≤ 4064 ∧ (hdr s pgJrn).injCount = 0 ∧ s.jrn.pos < ringWords (ringOf s) ∧ s.jrn.pos + 1 = ringWords (ringOf s)) ∧
    (let s := Tests.jrn (fun j => { j with flushes := [{ id := Tests.ident, upTo := 0, writes := [] }] }) { Tests.withCmd 4 0 0 (Tests.store .run) with pwr := { State.reset.pwr with pfRun := true } }; s.pwr.pfRun = true ∧ s.jrn.st = .running ∧
      s.tch.run = none ∧ s.jrn.flushes = [{ id := Tests.ident, upTo := 0, writes := [] }] ∧ s.hmk.atts = []) ∧
    (State.reset.pwr.pfRun = false ∧ State.reset.rst.chip = none ∧ State.reset.jrn.st ≠ .sealing ∧ jrnDrains State.reset = false ∧ State.reset.jrn.merge = none) ∧
    (let s := Tests.jrn (fun j => { j with st := .sealing }) (Tests.store .run); s.jrn.st = .sealing ∧ s.jrn.buf = [] ∧ s.jrn.waiting = [] ∧ jrnDrains s = true) ∧
    (let s := { Tests.jrn (fun j => { j with merge := some (3, 4) }) (Tests.store .run) with queues := Vector.replicate 26 { st := .joined } }; s.jrn.merge = some (3, 4) ∧ sealedUpTo s 3 = true ∧ (xq s 25).st = .joined) ∧
    reaches .mgt pgJrn (Tests.store .run) := by unfold reaches; decide +kernel

theorem witness_BatchesSealMarkAndAreRead_canonical : storeCanonical (Tests.store .run) := by unfold storeCanonical; decide +kernel

theorem witness_BatchesSealMarkAndAreRead_identity : ∀ m, 2304 ≤ m → m < 2304 + 5632 → ∀ n, 2304 ≤ n → n < 2304 + 5632 → physIngot (Tests.store .run).sto m = physIngot (Tests.store .run).sto n → m = n := by
  intro m _ _ n _ _ h; simpa [physIngot, Tests.store, Tests.linked, Tests.up, State.reset, smGetD, smGet] using h

theorem witness_BatchesSealMarkAndAreRead_read :
    (let s := Tests.jrn (fun j => { j with st := .sealed }) (Tests.withCmd 0x11 0 16 (Tests.store .run)); fetchedCmd s Tests.ident 0x11 = some (Tests.only s) ∧ (jrnRefusal s).isSome = true) ∧
    (let s := Tests.withSealed 16; fetchedCmd s Tests.ident 0x11 = some (Tests.only s) ∧ jrnRefusal s = none ∧ pageFenced s pgSto = false ∧ (hdr s pgSto).injCount = 0 ∧ s.sto.bankIso = 0 ∧ s.sto.dead = 0 ∧ s.sto.poison = [] ∧
      s.jrn.oldestSeq = (Tests.only s).desc.addr.toNat ∧ s.jrn.sealedSeq = (Tests.only s).desc.addr.toNat ∧ 16 < recOcc Tests.sealedRec ∧ Tests.sealedRec.payload.length ≤ 4064 ∧
      (∀ i, i < recOcc Tests.sealedRec / 16 → ringPeek (ringOf s) (s.jrn.oldestPos + i) s = slice (recBytes Tests.sealedRec) (16 * i) 16)) ∧
    (let s := Tests.withSealed 48; fetchedCmd s Tests.ident 0x11 = some (Tests.only s) ∧ recOcc Tests.sealedRec ≤ (Tests.only s).desc.length.toNat) ∧
    (let s := Tests.withCmd 0x11 1 16 (Tests.jrn (fun j => { j with oldestSeq := 2 }) (Tests.store .run)); fetchedCmd s Tests.ident 0x11 = some (Tests.only s) ∧ (Tests.only s).desc.addr.toNat < s.jrn.oldestSeq) ∧
    (let s := Tests.withCmd 0x11 1 1048576 (Tests.jrn (fun j => { j with oldestSeq := 1 }) (Tests.store .run)); fetchedCmd s Tests.ident 0x11 = some (Tests.only s) ∧ s.jrn.sealedSeq < (Tests.only s).desc.addr.toNat) := by decide +kernel

/-! ## Witnesses: the host interfaces, the fault collector, the check units -/

/-- Every submission queue as given, and the function may master the bus and send messages. -/
def Tests.sqs (x : Sq) (s : State) : State := { s with pcie := { s.pcie with sqs := Vector.replicate 4 x, bme := true, msixEn := true, msix := Vector.replicate 32 { ctrl := 0, addr := 7, data := 3 } } }

/-- PCIe's link is up. -/
def Tests.onLink (s : State) : State := { s with pcie := { s.pcie with linkUp := true } }

theorem witness_QueuesWindowsAndConfiguration :
    (let s := Tests.linked .run; reaches .mgt pgPcie s ∧ (sqOf s 3).st = .disabled ∧ (0xFFF : BitVec 12).toNat < 4096 ∧ 1 ≤ bits (0x101 : Word32) 8 4 ∧ bits (0xC0C : Word32) 8 4 ≤ 12 ∧ 1 ≤ bits (0x101 : Word32) 0 4 ∧ bits (0xC0C : Word32) 0 4 ≤ 12 ∧ bits (0x0 : Word32) 8 4 < 1 ∧ 12 < bits (0xD01 : Word32) 8 4) ∧
    (let s := Tests.sqs { st := .running, en := true, sqLog := 3, cqLog := 3, used := 4, cqHead := 2 } (Tests.linked .run); reaches .mgt pgPcie s ∧ (sqOf s 0).st = .running ∧ (7 : BitVec 12).toNat < sqSize (sqOf s 0) ∧ sqSize (sqOf s 0) ≤ (8 : BitVec 12).toNat ∧
      (6 : BitVec 12).toNat < cqSize (sqOf s 0) ∧ ((6 : BitVec 12).toNat + cqSize (sqOf s 0) - (sqOf s 0).cqHead.toNat) % cqSize (sqOf s 0) ≤ (sqOf s 0).used ∧ cqSize (sqOf s 0) ≤ (8 : BitVec 12).toNat ∧
      (sqOf s 0).used < ((7 : BitVec 12).toNat + cqSize (sqOf s 0) - (sqOf s 0).cqHead.toNat) % cqSize (sqOf s 0) ∧ (bits (0x303 : Word32) 8 4 = (sqOf s 0).cqLog.toNat ∧ bits (0x303 : Word32) 0 4 = (sqOf s 0).sqLog.toNat)) ∧
    (let s := Tests.sqs { st := .draining, en := true } (Tests.linked .run); (sqOf s 3).st = .draining ∧ inflightOf s 3 = 0) ∧ (sqOf State.reset 3).st ≠ .draining ∧
    (let s := Tests.onLink (Tests.sto (fun x => { x with parked := true }) (Tests.store .run)); portOpen .pcie s = true ∧ s.sto.parked = true) ∧ (let s := Tests.onLink (Tests.parks (Tests.store .run)); portOpen .pcie s = true ∧ s.sto.parking = true) ∧
    (let s := Tests.onLink (Tests.store .run); portOpen .pcie s = true ∧ s.pwr.off = false ∧ 3 ≤ s.sys.phase ∧ s.sto.parked = false ∧ s.sto.parking = false ∧ s.ast.storeBad = false ∧ pageFenced s pgSto = false ∧ (partOf s.sto (8192 * 65536 / 65536)).isNone = true ∧ (partOf s.sto ((8192 * 65536 - 1) / 65536)).isSome = true ∧
      (hdr s pgSto).injCount = 0 ∧ s.sto.bankIso = 0 ∧ s.sto.dead = 0 ∧ s.sto.poison = []) ∧
    (portOpen .pcie State.reset = false ∧ (Tests.linked .run).pcie.linkUp = true ∧ PcieReset.hot ≠ .flr ∧ (Tests.linked .run).pcie.pba = 0) := by unfold reaches; decide +kernel

/-- One decided command in flight. -/
def Tests.decided (src : CmdSrc) (orphan : Bool) (s : State) : State :=
  { s with pcie := { s.pcie with cmds := [{ Tests.command 1 0 16 with id := { src := src, cid := 9 }, stage := .decided { result := 0, data := [1] }, orphan := orphan }] } }

theorem witness_DescriptorsAndCompletions :
    (let s := Tests.sqs { st := .running, en := true, tail := 3 } (Tests.linked .run); pcieMoves s = true ∧ nextQueue s = some 0 ∧ (hdr s pgPcie).injCount = 0 ∧ cellIsolated s pgPcie 0 = false) ∧
    (pcieMoves State.reset = false ∧ nextQueue State.reset = none) ∧
    (let s := Tests.decided (.sq 2) false (Tests.sqs { st := .running, en := true } (Tests.linked .run)); (cmdOf s { src := .sq 2, cid := 9 }).any (fun c => c.stage == .decided { result := 0, data := [1] } && !c.orphan) = true ∧ pcieMoves s = true) ∧
    (let s := Tests.decided (.sq 2) true State.reset; (cmdOf s { src := .sq 2, cid := 9 }).any (fun c => c.stage == .decided { result := 0, data := [1] } && c.orphan) = true ∧ (xq s 1).st ≠ .severed) ∧
    (let s := { Tests.decided (.sq 2) true State.reset with queues := Vector.replicate 26 { st := .severed } }; (xq s 1).st = .severed ∧ (xq s 1).prodRst = false) ∧
    (let s := Tests.decided (.sq 2) false State.reset; (cmdOf s { src := .sq 2, cid := 9 }).any (fun c => c.stage == .decided { result := 0, data := [1] } && !c.orphan) = true ∧ pcieMoves s = false) ∧
    ((cmdOf (Tests.decided .mbx false State.reset) { src := .mbx, cid := 9 }).any (fun c => c.stage == .decided { result := 0, data := [1] }) = true ∧ cmdOf State.reset Tests.ident = none) ∧
    (let s := Tests.sqs { st := .running, ien := true, coalTime := 1, unsent := 1 } (Tests.linked .run); (sqOf s 3).st = .running ∧ (sqOf s 3).ien = true ∧ (sqOf s 3).coalTime ≠ 0 ∧ 0 < (sqOf s 3).unsent ∧ s.pcie.msixEn = true ∧ s.pcie.msixMask = false ∧
      (vGet s.pcie.msix (sqOf s 3).vec.toNat {}).ctrl.getLsbD 0 = false ∧ pcieMoves s = true) ∧
    (let s := { Tests.linked .run with pcie := { (Tests.linked .run).pcie with msixEn := true, msixMask := true } }; s.pcie.msixEn = true ∧ s.pcie.msixMask = true) ∧
    (let s := { Tests.sqs {} (Tests.linked .run) with pages := Vector.replicate 64 { evtRaw := 1, evtEn := 1 } }; let s := { s with pcie := { s.pcie with evtIen := true } }; reaches .mgt pgPcie s ∧ summary s = true ∧ s.pcie.evtIen = true ∧ s.pcie.msixEn = true ∧
      s.pcie.msixMask = false ∧ (vGet s.pcie.msix s.pcie.evtVec.toNat {}).ctrl.getLsbD 0 = false ∧ pcieMoves s = true) ∧
    (let s := Tests.linked .run; reaches .mgt pgPcie s ∧ summary s = false ∧ s.pcie.evtIen = false) := by unfold reaches; decide +kernel

/-- A management frame whose CRCs hold. -/
def Tests.mgtFrame (opb : BitVec 8) (addr : BitVec 24) (data : List Word32) : MgtFrame :=
  let f : MgtFrame := { opb := opb, addr := addr, hcrc := 0, data := data }
  { f with hcrc := mgtHcrc f, dcrc := mgtDcrc f }

theorem witness_ManagementDebugAndConsole :
    portOpen .mgt (Tests.up .run) = true ∧ portOpen .mgt State.reset = false ∧
    (let f := { Tests.mgtFrame 0x01 0 [] with hcrc := 5 }; mgtWritesData f = false ∧ f.hcrc ≠ mgtHcrc f) ∧
    (let f := { Tests.mgtFrame 0x02 4 [7] with dcrc := 5 }; mgtOp f = 2 ∧ f.hcrc = mgtHcrc f ∧ f.dcrc ≠ mgtDcrc f) ∧
    (let f := Tests.mgtFrame 0x04 0 []; f.hcrc = mgtHcrc f ∧ mgtMalformed f = true ∧ mgtWritesData f = false) ∧
    (let f := Tests.mgtFrame 0x01 0x40000 []; f.hcrc = mgtHcrc f ∧ mgtMalformed f = false ∧ mgtCount f = 1 ∧ mgtOp f = 1 ∧ f.addr.toNat = (0x40 : BitVec 8).toNat * 4096 ∧ pagePresent .gw968 0 = true ∧ (Tests.mgtFrame 0x01 0 []).addr.toNat = (0 : BitVec 8).toNat * 4096 ∧
      pageFenced State.reset 0 = false) ∧
    (let f := Tests.mgtFrame 0x02 0x4FC [7]; f.hcrc = mgtHcrc f ∧ f.dcrc = mgtDcrc f ∧ mgtMalformed f = false ∧ mgtCount f = 1 ∧ mgtOp f = 2 ∧ f.addr.toNat = (0 : BitVec 8).toNat * 4096 + 4 * (0x13F : BitVec 10).toNat ∧ f.mode3 = State.reset.mgt.mode3) ∧
    (let f := Tests.mgtFrame 0x03 0x401C [0xFFF000F]; f.hcrc = mgtHcrc f ∧ f.dcrc = mgtDcrc f ∧ mgtMalformed f = false ∧ mgtCount f = 1 ∧ mgtOp f = 3 ∧ f.addr.toNat = (4 : BitVec 8).toNat * 4096 + 4 * (7 : BitVec 10).toNat ∧
      lGet f.data 0 0 = fld 16 12 (0xFFF : BitVec 12).toNat ||| fld 0 4 (0xF : BitVec 4).toNat) := by decide +kernel

theorem witness_ManagementDebugAndConsole_mailbox :
    (let s := { Tests.up .run with mgt := { State.reset.mgt with mbxBusy := true } }; reaches .mgt pgMgt s ∧ s.mgt.mbxBusy = true) ∧
    (let s := { Tests.up .run with mgt := { State.reset.mgt with mbxDesc := #v[0x00030001, 0, 0, 0, 2032, 0, 16, 0, 0, 0, 0, 0, 0, 0, 0, 0] } }; reaches .mgt pgMgt s ∧ s.mgt.mbxBusy = false ∧ (mbxDescOf s).flags.getLsbD 1 = false ∧ descCheck (mbxDescOf s) = none ∧
      movesData (mbxDescOf s) = true ∧ (mbxDescOf s).hostAddr.toNat + (mbxDescOf s).length.toNat ≤ 2048) ∧
    (let s := { Tests.up .run with mgt := { State.reset.mgt with mbxDesc := #v[0x00030001, 0, 0, 0, 2048, 0, 16, 0, 0, 0, 0, 0, 0, 0, 0, 0] } }; s.mgt.mbxBusy = false ∧ descCheck (mbxDescOf s) = none ∧ movesData (mbxDescOf s) = true ∧ 2048 < (mbxDescOf s).hostAddr.toNat + (mbxDescOf s).length.toNat) ∧
    (let s := { Tests.up .run with mgt := { State.reset.mgt with mbxDesc := #v[0x000300FF, 0, 0, 0, 0, 0, 0, 0, 0, 0, 0, 0, 0, 0, 0, 0] } }; (mbxDescOf s).flags.getLsbD 1 = false ∧ (descCheck (mbxDescOf s)).isSome = true) := by unfold reaches; decide +kernel

theorem witness_ManagementDebugAndConsole_epochs :
    (let b : EpochBuf := { epoch := 3, time := 9, body := [4], frames := [], crc := 7 }
      let s := { Tests.linked .run with ep := { State.reset.ep with latest := some 1, pins := #v[some 1, some 1, some 1], bufs := vSet State.reset.ep.bufs 1 (some b) } }
      reaches .mgt pgSys s ∧ s.ep.latest = some 1 ∧ vGet s.ep.bufs 1 none = some b ∧ reaches .pcie (0x30 + 15) s ∧ (hdr s 0x30).injCount = 0 ∧ pinnedBuf s .pcie = some b ∧ (0x2F3 : BitVec 10).toNat ≤ 0x2F3 ∧ (0x021 : BitVec 10).toNat ≤ 0x021) ∧
    (let s := Tests.linked .run; reaches .mgt pgSys s ∧ s.ep.latest = none ∧ reaches .pcie 0x30 s ∧ pinnedBuf s .pcie = none ∧ 0x014 ≤ (0x3FF : BitVec 10).toNat) ∧
    ((Tests.up .safe).sys.mode ≠ .run ∧ (Tests.up .safe).ast.bscanBad = false ∧ (Tests.up .run).sys.mode = .run) ∧
    (portOpen .debug (Tests.up .safe) = true ∧ reaches .debug pgSys (Tests.up .safe) ∧ portOpen .debug State.reset = false) ∧
    ((Tests.up .safe).sys.phase ≠ 0 ∧ (Tests.up .safe).uart.queued - 0 + 512 ≤ 512 ∧ 512 < (Tests.up .safe).uart.queued - 0 + 513) := by unfold reaches; decide +kernel

theorem witness_FaultsAreJudgedAndRecorded :
    ((srcDef State.reset.variant 0x057).isSome = true ∧ srcDef State.reset.variant 511 = none) ∧
    (let s := { Tests.store .run with rst := { State.reset.rst with chip := some (.fault 5, 3) } }; let s := Tests.sto (fun x => { x with parked := true }) (Tests.jrn (fun j => { j with st := .sealed }) s); s.rst.chip = some (.fault 5, 3) ∧ s.pwr.pfSet &&& 0x2F = 0 ∧
      s.jrn.st = .sealed ∧ s.sto.parked = true) ∧
    (let s := Tests.clock 300003 { Tests.store .run with rst := { State.reset.rst with chip := some (.fault 5, 3) } }; s.rst.chip = some (.fault 5, 3) ∧ 3 + 3 * tbMs ≤ now s) ∧
    (let s := Tests.clock 100000 { Tests.up .run with fcr := { State.reset.fcr with errn := true, errnCheck := false } }; s.fcr.errn = true ∧ errnHeld s = false ∧ s.fcr.errnSince + tbMs ≤ now s) ∧
    State.reset.rst.chip = none ∧ now (Tests.clock 99999 State.reset) < State.reset.fcr.errnSince + tbMs := by decide +kernel

/-- A check unit compares 32 bytes from the last word of an ingot. -/
def Tests.checking : State := { Tests.store .safe with crc := Vector.replicate 4 { busy := true, length := 32, addr := 65520, cmpEn := true } }

theorem witness_CollectorRegistersAndCheckUnits :
    (reaches .mgt pgFcr (Tests.up .run) ∧ (Tests.up .run).sys.mode = .run ∧ notRunMode (Tests.up .run).sys.mode = false ∧ (hdr (Tests.up .run) pgFcr).injCount = 0) ∧
    (let s := { Tests.up .safe with fcr := { State.reset.fcr with srcSel := 0x1 } }; reaches .mgt pgFcr s ∧ notRunMode s.sys.mode = true ∧ (List.range 64).any (fun v => srcCfgOk s.variant s.fcr.srcSel.toNat (BitVec.ofNat 32 v)) = true ∧
      (List.range 64).any (fun v => !(srcCfgOk s.variant s.fcr.srcSel.toNat (BitVec.ofNat 32 v))) = true) ∧
    (let s := Tests.up .safe; reaches .mgt pgTbl s ∧ pageKind s.variant pgTbl ≠ .ep ∧ (List.range 64).any (fun p => pagePresent s.variant p && injectable (pageKind s.variant p) p) = true ∧ (List.range 64).any (fun p => pagePresent s.variant p && !(injectable (pageKind s.variant p) p)) = true) ∧
    (reaches .mgt (pgCrc 3) (Tests.up .safe) ∧ (crcOf (Tests.up .safe) 3).busy = false) ∧
    (let s := Tests.checking; reaches .mgt (pgCrc 2) s ∧ (crcOf s 2).busy = true ∧ (crcOf s 3).busy = true ∧ (crcOf s 3).addr.toNat % 16 = 0 ∧ s.sto.parked = false ∧ s.sto.dead = 0 ∧ s.sto.poison = [] ∧ (hdr s pgSto).injCount = 0 ∧ (hdr s (pgCrc 3)).injCount = 0 ∧
      (∀ k, k < (crcOf s 3).length.toNat / 16 → (partOf s.sto (((crcOf s 3).addr.toNat + 16 * k) / 65536)).any (fun p => p.typ != 3) = true)) ∧
    (let s := { Tests.store .run with ilkl := { State.reset.ilkl with active := some 1 }, crcRef := [(0, (64, 7)), (1, (32, 9))] }; s.dhd.frozen = false ∧ s.dhd.halted = false ∧ s.dhd.stopped = false ∧ s.ilkl.active = some 1 ∧ smGet s.crcRef 1 = some (32, 9) ∧ (crcOf s 0).busy = false) ∧
    ({ State.reset.dhd with stopped := true } : Dhd).stopped = true := by unfold reaches; decide +kernel

/-! ## Witnesses: Assay, Touchmark, Hallmark -/

/-- Assay changed. -/
def Tests.ast (f : Ast → Ast) (s : State) : State := { s with ast := f s.ast }

/-- Touchmark changed. -/
def Tests.tch (f : Tch → Tch) (s : State) : State := { s with tch := f s.tch }

/-- Hallmark changed. -/
def Tests.hmk (f : Hmk → Hmk) (s : State) : State := { s with hmk := f s.hmk }

/-- A test that the controller has begun. -/
def Tests.pinTest (op : Nat) : PinTest := { op := op, pin := 15, path := .a, typ := 1, seq := 3 }

/-- The same test as its tile holds it. -/
def Tests.tileTest (op : Nat) : TileTest := { op := op, pin := 15, path := .a, typ := 1, seq := 3 }

/-- Vcore and the monitors' references stand inside the limits that periodic tests need. -/
def Tests.inLimits (s : State) : State := { s with clkg := { s.clkg with monOk := 0x7F }, pwr := { s.pwr with rails := { s.pwr.rails with vcore := 760 } } }

theorem witness_AssayTestsBeginAndAreJudged :
    (let s := { Tests.ast (fun a => { a with retry := some (16, 19), retryMs := 149 }) State.reset with sys := { State.reset.sys with phase := 2 } }; s.sys.phase = 2 ∧ (vGet s.ast.results 15 {}).result ≠ 3 ∧ s.ast.retry = some (16, 19) ∧ 19 < 20 ∧ s.ast.retryMs < 150) ∧
    (let s := { Tests.ast (fun a => { a with retry := some (1, 20), retryMs := 150 }) State.reset with sys := { State.reset.sys with phase := 2 } }; s.sys.phase = 2 ∧ (vGet s.ast.results 0 {}).result ≠ 3 ∧ s.ast.retry = some (1, 20) ∧ 150 ≤ s.ast.retryMs) ∧
    State.reset.sys.phase ≠ 2 ∧
    (let s := Tests.ast (fun a => { a with tests := Vector.replicate 8 (some (Tests.pinTest 1)) }) (Tests.up .run); periodicOn s = true ∧ vGet s.ast.tests 7 none = some (Tests.pinTest 1)) ∧
    (let s := Tests.ports { up := true, cfg := Vector.replicate 16 1 } (Tests.inLimits (Tests.up .run)); periodicOk s = true ∧ tileReachable s 7 = true ∧ tileReachable s 5 = true ∧ vGet s.ast.tests 7 none = none ∧ vGet s.ast.tests 5 none = none ∧ nextUnit s 5 (vGet s.ast.unit 5 0) = some 0 ∧
      inSlot s (16 * 5 + 0) = false) ∧
    (let s := { Tests.ports { up := true, cfg := Vector.replicate 16 1 } (Tests.inLimits (Tests.up .run)) with tbl := { State.reset.tbl with claims := some [{ kind := 1, index := 0, use := 1, source := 80, tperiod := 1, foff := 0, soff := 0, width := 1 }] } }; periodicOk s = true ∧ tileReachable s 0 = true) ∧
    periodicOk State.reset = false ∧
    (let s := Tests.inLimits (Tests.store .run); periodicOk s = true ∧ s.ast.stoEn = true ∧ s.boot.lock = false ∧ s.clkg.monOk.getLsbD 2 = true ∧ s.sto.mapOk = true ∧ s.sto.parking = false ∧ s.sto.parked = false ∧ s.sto.dead.getLsbD 31 = false ∧
      s.ast.storeBad = false ∧ (hdr s pgAst).injCount = 0 ∧ cellIsolated s pgAst 0 = false ∧ vGet s.sto.spare (dieOf 31) none = none) ∧
    reaches .mgt pgAst (Tests.up .safe) := by unfold reaches; decide +kernel

theorem witness_TilesRunAndAnswerTests :
    (let s := Tests.ast (fun a => { a with tests := Vector.replicate 8 (some (Tests.pinTest 1)) }) (Tests.up .run); vGet s.ast.tests 7 none = some (Tests.pinTest 1) ∧ (Tests.pinTest 1).op ≠ 5 ∧ vGet s.ast.tile 7 none = none) ∧
    (let s := Tests.ast (fun a => { a with tests := Vector.replicate 8 (some (Tests.pinTest 5)) }) (Tests.up .run); vGet s.ast.tests 7 none = some (Tests.pinTest 5) ∧ (Tests.pinTest 5).op = 5) ∧
    (vGet State.reset.ast.tests 0 none = none ∧ vGet State.reset.ast.tile 7 none = none) ∧
    (let s := Tests.ast (fun a => { a with tests := Vector.replicate 8 (some (Tests.pinTest 1)), tile := Vector.replicate 8 (some (Tests.tileTest 1)), aborts := [(95, 15)] }) (Tests.up .run); vGet s.ast.tile 5 none = some (Tests.tileTest 1) ∧ (Tests.tileTest 1).result = 0 ∧
      vGet s.ast.tests 5 none = some (Tests.pinTest 1) ∧ (Tests.pinTest 1).op ≠ 5 ∧ (Tests.pinTest 1).seq = (Tests.tileTest 1).seq ∧ (Tests.pinTest 1).pin < 16 ∧ tilePresent s.variant 5 = true ∧ (Tests.tileTest 1).pin = (15 : Fin 16).val ∧
      16 ≤ smGetD s.ast.aborts (16 * 5 + 15) 0 + 1 ∧ smGetD s.ast.aborts (16 * 0 + 15) 0 + 1 < 16) := by decide +kernel

/-- Vana and the junction stand inside the programming window. -/
def Tests.window (s : State) : State := { s with pwr := { s.pwr with rails := { s.pwr.rails with vana := 1760 } }, tch := { s.tch with junction := 110 } }

/-- DATA holds `d` in every word, every row is blank and the mode is SERVICE. -/
def Tests.blank (d : Word32) : State := Tests.tch (fun t => { t with data := Vector.replicate 4 d }) (Tests.up .service)

/-- A blank row holds nothing that a pattern could meet. -/
theorem Tests.blank_unwritten (s : State) (n : Nat) (p : BitVec 140) (h : (fuseAt s (servingRow s n)).n = 0) : rowWritten s n p = false := by simp [rowWritten, h]

/-- The programming of a blank row of an allowed kind passes the checks of Table TCH-7. -/
theorem Tests.blank_passes (s : State) (n : Nat) (d : BitVec 128) (h1 : n ≤ 511) (h2 : s.sys.mode = .service) (h3 : rowReserved n = false) (h4 : s.tch.flags.getLsbD 0 = false)
    (h5 : (fuseAt s (servingRow s n)).n = 0) (h6 : n ≤ 3 → d = flagPattern) : progChecks n d s = none := by
  simp only [progChecks, h2, h3, h4, Tests.blank_unwritten s n _ h5]
  rw [if_neg (by omega)]
  simpa using h6

theorem witness_TouchmarkCommands_checks :
    progChecks 20 (tchData (Tests.blank 4)) (Tests.blank 4) = none ∧ progChecks 1 (tchData (Tests.blank 0xC3C3C3C3)) (Tests.blank 0xC3C3C3C3) = none ∧ rowWritten (Tests.blank 0) 3 (wordEncode (tchData (Tests.blank 0)) 3) = false :=
  ⟨Tests.blank_passes _ _ _ (by decide) (by decide) (by decide) (by decide) (by decide +kernel) (by decide), Tests.blank_passes _ _ _ (by decide) (by decide) (by decide) (by decide) (by decide +kernel) (fun _ => by decide +kernel),
    Tests.blank_unwritten _ _ _ (by decide +kernel)⟩

/-- The row holds a 1 where the new word has a 0, whatever the check bits are. -/
theorem witness_TouchmarkCommands_written : rowWritten (Tests.tch (fun t => { t with rows := [(20, { n := 1 })] }) (Tests.blank 4)) 20 (wordEncode (tchData (Tests.blank 4)) 20) = true := by
  have h : (fuseAt (Tests.tch (fun t => { t with rows := [(20, { n := 1 })] }) (Tests.blank 4)) (servingRow (Tests.tch (fun t => { t with rows := [(20, { n := 1 })] }) (Tests.blank 4)) 20)).n = 1 := by decide +kernel
  have hd : (tchData (Tests.blank 4)).getLsbD 0 = false := by decide +kernel
  have hw : (wordEncode (tchData (Tests.blank 4)) 20).getLsbD 0 = false := by
    simp only [wordEncode, BitVec.getLsbD_or, BitVec.getLsbD_setWidth, hd, BitVec.getLsbD_shiftLeft]; simp
  have hp : (1 &&& ~~~(wordEncode (tchData (Tests.blank 4)) 20)).getLsbD 0 = true := by rw [BitVec.getLsbD_and, BitVec.getLsbD_not, hw]; decide
  have hn : (1 &&& ~~~(wordEncode (tchData (Tests.blank 4)) 20)) ≠ 0 := fun e => by rw [e] at hp; simp at hp
  simp only [rowWritten, h, Bool.or_eq_true, bne_iff_ne, ne_eq]
  exact Or.inr hn

theorem witness_TouchmarkCommands :
    (let s := Tests.up .service; reaches .mgt pgTch s ∧ s.tch.run = none ∧ 543 < (544 : BitVec 10).toNat ∧ 48 ≤ (48 : BitVec 10).toNat ∧ (63 : BitVec 10).toNat ≤ 63 ∧ (47 : BitVec 10).toNat < 48 ∧ 63 < (64 : BitVec 10).toNat ∧ (511 : BitVec 10).toNat < 512 ∧
      512 ≤ (512 : BitVec 10).toNat ∧ (543 : BitVec 10).toNat ≤ 543 ∧ 511 < (512 : BitVec 10).toNat ∧ (511 : BitVec 10).toNat ≤ 511 ∧ s.sys.mode = .service ∧ s.tch.flags.getLsbD 0 = false ∧ (shadowOf s 511).st = .blank ∧ (fuseAt s 511).n = 0 ∧
      (List.range 512).any rowReserved = true ∧ rowReserved 3 = false ∧ tchData s ≠ flagPattern) ∧
    (let s := Tests.up .run; reaches .mgt pgTch s ∧ s.tch.run = none ∧ s.sys.mode ≠ .service ∧ s.sys.mode ≠ .incomplete) ∧
    (let s := Tests.blank 0; progWindow { s with pwr := { s.pwr with rails := { s.pwr.rails with vana := 1759 } } } = false ∧ progWindow (Tests.window s) = true ∧ (shadowOf s 5).st = .blank ∧ fuseAt (Tests.window s) 20 = {} ∧ (Tests.window s).sys.mode = .service) ∧
    (let s := Tests.tch (fun t => { t with rows := [(20, { n := 3, l := 1, h := 3 })] }) (Tests.up .service); reaches .mgt pgTch s ∧ s.tch.run = none ∧ rowReserved 20 = false ∧ s.tch.flags.getLsbD 0 = false ∧ (fuseAt s 20).n ≠ 0) ∧
    (let s := Tests.tch (fun t => { t with run := some { row := 3, data := 4, pattern := 5 } }) (Tests.up .service); reaches .mgt pgTch s ∧ s.tch.run = some { row := 3, data := 4, pattern := 5 }) := by unfold reaches; decide +kernel

theorem witness_AntifuseRowsOnlyGain :
    State.reset.tch.run = none ∧ State.reset.tch.moves = [] ∧
    (let r : ProgRun := { row := 230, data := 4, pattern := 7 }; let s := Tests.tch (fun t => { t with run := some r }) (Tests.up .service); s.tch.run = some r ∧ fuseAt s r.row = {} ∧ s.sys.mode ≠ .incomplete ∧ spareMode s r.row = false) ∧
    (let s := Tests.window (Tests.tch (fun t => { t with moves := [100], shadow := [(100, { st := .good, value := 77 })] }) (Tests.up .run)); s.tch.moves = [100] ∧ s.sys.phase = 15 ∧ progWindow s = true ∧ s.tch.run = none ∧ rowValue (shadowOf s 100) = some 77 ∧
      ((List.range 16).filter (spareFree s)).head? = some 0 ∧ (blankEntries s).head? = some 0 ∧ fuseAt s (512 + 0) = {} ∧ fuseAt s (528 + 0 / 4) = {}) ∧
    (let s := Tests.window (Tests.tch (fun t => { t with moves := [100], shadow := [(100, { st := .good, value := 77 })], rows := (List.range 16).map fun i => (512 + i, { n := 1 }) }) (Tests.up .run)); rowValue (shadowOf s 100) = some 77 ∧ (List.range 16).filter (spareFree s) = []) := by decide +kernel

/-- Among more numbers than a list is long, one is not in it. -/
theorem Tests.not_listed (n : Nat) (l : List Nat) (h : l.length < n) : ∃ k, k < n ∧ k ∉ l := by
  induction n generalizing l with
  | zero => omega
  | succ n ih =>
    by_cases hn : n ∈ l
    · obtain ⟨k, hk, hl⟩ := ih (l.erase n) (by have := List.length_erase_of_mem hn; have := List.length_pos_of_mem hn; omega)
      exact ⟨k, by omega, fun hm => hl ((List.mem_erase_of_ne (by omega)).mpr hm)⟩
    · exact ⟨n, by omega, hn⟩

/-- Whatever the columns of the check matrix are, some syndrome is uncorrectable. -/
theorem Tests.some_uncorrectable : ∃ x : BitVec 12, decodeSyndrome x = .uncorrectable := by
  obtain ⟨k, hk, hl⟩ := Tests.not_listed 4096 (0 :: ((List.range 140).map fun i => (codeColumn i).toNat) ++ (List.range 139).map fun i => (codeColumn i ^^^ codeColumn (i + 1)).toNat) (by simp)
  simp only [List.cons_append, List.mem_cons, List.mem_append, List.mem_map, not_or, not_exists, not_and] at hl
  have hx : (BitVec.ofNat 12 k).toNat = k := by simp; omega
  refine ⟨BitVec.ofNat 12 k, ?_⟩
  have h0 : BitVec.ofNat 12 k ≠ 0 := fun e => hl.1 (by rw [← hx, e]; rfl)
  have h1 : (List.range 140).find? (fun i => codeColumn i == BitVec.ofNat 12 k) = none := by
    simp only [List.find?_eq_none, beq_iff_eq]; exact fun i hi e => hl.2.1 i hi (by rw [e, hx])
  have h2 : (List.range 139).find? (fun i => codeColumn i ^^^ codeColumn (i + 1) == BitVec.ofNat 12 k) = none := by
    simp only [List.find?_eq_none, beq_iff_eq]; exact fun i hi e => hl.2.2 i hi (by rw [e, hx])
  simp only [decodeSyndrome, if_neg h0, h1, h2]

/-- The check bits of a zero word are what its home folds in. -/
theorem Tests.zero_word_check (home : Nat) : wordCheckBits 0 home = addrFold home := by
  have hc : ∀ (l : List Nat) (c : BitVec 12), l.foldl (fun c i => if (0 : BitVec 128).getLsbD i then c ^^^ codeColumn i else c) c = c := by
    intro l
    induction l with
    | nil => intro c; rfl
    | cons a l ih => intro c; rw [List.foldl_cons, if_neg (by simp)]; exact ih c
  exact hc _ _

/-- A stored word that holds check bits only. -/
theorem Tests.check_bits_only (y : BitVec 12) : (((y.setWidth 140) <<< 128 : BitVec 140)).setWidth 128 = 0 ∧ (((y.setWidth 140) <<< 128 : BitVec 140) >>> 128).setWidth 12 = y := by
  constructor
  · ext i hi
    rw [BitVec.getElem_setWidth, BitVec.getLsbD_shiftLeft]
    simp [hi]
  · ext i hi
    rw [BitVec.getElem_setWidth, BitVec.getLsbD_ushiftRight, BitVec.getLsbD_shiftLeft, BitVec.getLsbD_setWidth]
    simp [show 128 + i < 140 by omega, show i < 140 by omega, BitVec.getLsbD_eq_getElem hi]

/-- A read-back that its code rejects, of a pattern that has not blown whole. -/
theorem witness_AntifuseRowsOnlyGain_partial :
    ∃ f : Fuse, let r : ProgRun := { row := 230, data := 4, pattern := BitVec.allOnes 140 }; let s := Tests.tch (fun t => { t with run := some r }) (Tests.up .service)
      spareMode s r.row = false ∧ blow (fuseAt s r.row) r.pattern f = f ∧ wordDecode f.l r.row = none ∧ ¬(f.l = r.pattern ∧ f.h = r.pattern) := by
  obtain ⟨x, hx⟩ := Tests.some_uncorrectable
  refine ⟨{ l := ((x ^^^ addrFold 230).setWidth 140) <<< 128 }, by decide +kernel, ?_, ?_, fun e => absurd (show (0 : BitVec 140) = BitVec.allOnes 140 from e.2) (by decide)⟩
  · simp only [show fuseAt (Tests.tch (fun t => { t with run := some ({ row := 230, data := 4, pattern := BitVec.allOnes 140 } : ProgRun) }) (Tests.up .service)) 230 = {} by decide +kernel]
    simp only [blow, BitVec.and_allOnes]; simp
  · have hw : wordSyndrome (((x ^^^ addrFold 230).setWidth 140) <<< 128) 230 = x := by
      rw [wordSyndrome, (Tests.check_bits_only _).1, (Tests.check_bits_only _).2, Tests.zero_word_check, BitVec.xor_comm x, ← BitVec.xor_assoc, BitVec.xor_self, BitVec.zero_xor]
    simp only [wordDecode, hw, hx]

/-- A verification of a rank. -/
def Tests.verify (rank : Nat) : VerReq := { rank := rank, obj := 3, copy := 1, slot := 2, pk := [], msg := [], sig := [] }

theorem witness_EngineVerifiesRepairsAndSigns :
    State.reset.hmk.cur = none ∧
    (let s := Tests.hmk (fun h => { h with cur := some (Tests.verify 3), queue := [Tests.verify 1, Tests.verify 7], katOk := true }) State.reset; s.hmk.cur = some (Tests.verify 3) ∧ s.hmk.cur.isSome = true ∧ (hdr s pgHmk).injCount = 0 ∧ s.hmk.katOk = true ∧ stepRuns s.hmk = false ∧ s.hmk.atts = [] ∧ s.hmk.queue.length = 2) ∧
    (let s := Tests.hmk (fun h => { h with cur := some (Tests.verify 3), katOk := false }) State.reset; s.hmk.cur = some (Tests.verify 3) ∧ s.hmk.katOk = false ∧ s.hmk.atts = [] ∧ s.hmk.queue = [] ∧ stepRuns s.hmk = false) ∧
    reaches .mgt pgHmk (Tests.up .safe) ∧ (5 : BitVec 3).toNat < 6 ∧ State.reset.hmk.keyRepair = [] ∧ State.reset.hmk.patchRepair = none ∧
    (let s := Tests.hmk (fun h => { h with keyRepair := [1], patchRepair := some 1 }) (Tests.sto (fun y => { y with atomics := [{ id := Tests.ident, targets := [(2048 + 13, 8192), (2048 + 40, 8193)], addr := (2048 + 13) * 65536, data := [1] }] }) (Tests.store .run)); itemFree (cfgAddr (12 + 1)) 160 s = false ∧ itemFree (cfgAddr (16 + 16 * 1)) 1048576 s = false) ∧
    (let s := { Tests.withCmd 0x20 0 17440 (Tests.store .run) with sys := { (Tests.store .run).sys with phase := 7 } }; fetchedCmd s Tests.ident 0x20 = some (Tests.only s) ∧ s.sys.phase ≠ 15) ∧
    fetchedCmd State.reset Tests.ident 0x20 = none ∧
    (let s := Tests.jrn (fun j => { j with st := .sealed }) (Tests.withCmd 0x20 0 17440 (Tests.store .run)); fetchedCmd s Tests.ident 0x20 = some (Tests.only s) ∧ s.sys.phase = 15 ∧ s.jrn.st = .sealed) ∧
    (let s := Tests.withCmd 0x20 0 17439 (Tests.store .run); s.jrn.st = .running ∧ (Tests.only s).desc.length.toNat < 17440) ∧
    (let s := Tests.withCmd 0x20 0 17440 (Tests.store .run); fetchedCmd s Tests.ident 0x20 = some (Tests.only s) ∧ s.jrn.st = .running ∧ 17440 ≤ (Tests.only s).desc.length.toNat ∧ s.hmk.idOk = false) ∧
    (let s := Tests.hmk (fun h => { h with idOk := true, katOk := false }) (Tests.withCmd 0x20 0 17440 (Tests.store .run)); s.hmk.idOk = true ∧ s.hmk.katOk = false) ∧
    (let s := Tests.hmk (fun h => { h with idOk := true, katOk := true, atts := List.replicate 4 { id := Tests.ident } }) (Tests.withCmd 0x20 0 17440 (Tests.store .run)); s.hmk.katOk = true ∧ 4 ≤ s.hmk.atts.length) ∧
    (let s := Tests.hmk (fun h => { h with idOk := true, katOk := true }) (Tests.withCmd 0x20 0 17440 (Tests.store .run)); s.hmk.idOk = true ∧ s.hmk.katOk = true ∧ s.hmk.atts.length < 4 ∧ s.hmk.atts = []) ∧
    (let a : AttRun := { id := Tests.ident, body := none }; let s := Tests.hmk (fun h => { h with atts := [a] }) (Tests.withCmd 0x20 0 17440 (Tests.store .run)); s.hmk.atts = a :: [] ∧ a.body = none ∧ s.hmk.cur = none ∧ cmdOf s a.id = some (Tests.only s)) ∧
    (let a : AttRun := { id := Tests.ident, body := some [1, 2, 3] }; let s := Tests.hmk (fun h => { h with atts := [a] }) (Tests.withCmd 0x20 0 17440 (Tests.store .run)); s.hmk.atts = a :: [] ∧ a.body = some [1, 2, 3] ∧ a.paused = false ∧ s.hmk.cur = none ∧ (hdr s pgHmk).injCount = 0) := by unfold reaches; decide +kernel

theorem witness_EngineVerifiesRepairsAndSigns_steps :
    (let a : AttRun := { id := Tests.ident, body := some [1], paused := true }; let s := Tests.hmk (fun h => { h with cur := some (Tests.verify 3), atts := [a] }) (Tests.withCmd 0x20 0 17440 (Tests.store .run));
      s.hmk.cur = some (Tests.verify 3) ∧ s.hmk.cur.isSome = true ∧ s.hmk.queue = [] ∧ s.hmk.atts = a :: [] ∧ a.body = some [1] ∧ a.body.isSome = true ∧ a.paused = true ∧ cmdOf s a.id = some (Tests.only s)) ∧
    (let a : AttRun := { id := Tests.ident, body := some [1] }; let s := Tests.hmk (fun h => { h with cur := some (Tests.verify 3), atts := [a] }) (Tests.withCmd 0x20 0 17440 (Tests.store .run)); stepRuns s.hmk = true ∧ a.paused = false ∧ s.hmk.cur.isSome = true) := by decide +kernel

theorem witness_EngineVerifiesRepairsAndSigns_locked :
    (let s := Tests.hmk (fun h => { h with keyRepair := [1], patchRepair := some 1 }) (Tests.store .run); s.hmk.keyRepair = 1 :: [] ∧ s.sys.phase = 15 ∧ s.sto.parked = false ∧ s.sto.parking = false ∧ s.hmk.patchRepair = some 1 ∧ itemFree (cfgAddr (12 + 1)) 160 s = true ∧ itemFree (cfgAddr (16 + 16 * 1)) 1048576 s = true) := by decide +kernel

theorem witness_EngineVerifiesRepairsAndSigns_canonical : storeCanonical (Tests.hmk (fun h => { h with keyRepair := [1], patchRepair := some 1 }) (Tests.store .run)) := by unfold storeCanonical; decide +kernel

theorem witness_EngineVerifiesRepairsAndSigns_patch :
    (readImage (cfgAddr (16 + 16 * (1 - 1))) (ascii "GWFP") 20 1048576 (Tests.hmk (fun h => { h with patchRepair := some 1 }) (Tests.store .run))).1 = some [] ∧
    (readImage (cfgAddr (16 + 16 * (1 - 1))) (ascii "GWFP") 20 1048576 (Tests.sto (fun x => { x with poison := [(2048 + 16) * 4096] }) (Tests.hmk (fun h => { h with patchRepair := some 1 }) (Tests.store .run)))).1 = none ∧
    (∀ a, a < 16 → ∀ b, b < 16 → physIngot (Tests.store .run).sto (2048 + (16 + 16 * 1) + a) = physIngot (Tests.store .run).sto (2048 + (16 + 16 * 1) + b) → a = b) := by decide +kernel

/-! ## Witnesses: the Lengthman, supplies, modes -/

/-- The Lengthman changed, its queues joined. -/
def Tests.lmn (f : Lmn → Lmn) (s : State) : State := { s with lmn := f s.lmn, queues := Vector.replicate 26 { st := .joined } }

theorem witness_LengthmanWatchesAndAligns :
    (let s := Tests.lmn id (Tests.up .run); s.pwr.off = false ∧ (xq s 24).st = .joined ∧ (xq s 25).st = .joined ∧ s.lmn.round = none ∧ s.lmn.lastStart = none ∧ s.lmn.log = [] ∧ s.lmn.writes = []) ∧
    { State.reset.pwr with off := true }.off = true ∧
    (let s := Tests.lmn (fun l => { l with lastStart := some (0, 10), counter := 3270, log := [{ word := 5, bad := false }] }) State.reset; s.lmn.lastStart = some (0, 10) ∧ (0 + (32768 + 10 - 1) / 10) % 2 ^ 48 = (s.lmn.counter + 7) % 2 ^ 48 ∧
      ¬(0 + (32768 + 10 - 1) / 10) % 2 ^ 48 = (s.lmn.counter + 6) % 2 ^ 48 ∧ (s.lmn.rounds + 1) % 256 ≠ 0) ∧
    (let w : LmnWrite := { off := 0x060, v := 20, at_ := 0 }; let s := Tests.clock 12207 (Tests.lmn (fun l => { l with writes := [w] }) State.reset); s.lmn.writes = [w] ∧ now s < w.at_ + 12208 ∧ w.off = 0x060) ∧
    (let w : LmnWrite := { off := 0x05C, v := 0xD1, at_ := 0 }; let s := Tests.lmn (fun l => { l with writes := [w] }) State.reset; s.lmn.writes = [w] ∧ now s < w.at_ + 12208 ∧ w.off = 0x040 + 4 * (7 : Fin 8).val) ∧
    (let w : LmnWrite := { off := 0x008, v := 1, at_ := 0 }; let s := Tests.lmn (fun l => { l with attended := true, writes := [w] }) State.reset; now s < w.at_ + 12208 ∧ w.off = 0x008 ∧ bitOf w.v 0 = true ∧ s.lmn.attended = true ∧ s.lmn.wakeOut = false) ∧
    (let s := Tests.lmn (fun l => { l with wakeOut := true, wakeTest := true, wakeAt := 0, counter := 32 }) State.reset; s.lmn.wakeOut = true ∧ s.lmn.wakeTest = true ∧ 33 ≤ lmnSince s.lmn.wakeAt ((s.lmn.counter + 1) % 2 ^ 48) ∧ lmnSince s.lmn.wakeAt ((s.lmn.counter + 1) % 2 ^ 48) < 2 ^ 47) ∧
    State.reset.lmn.wakeOut = false ∧ State.reset.sys.phase = 0 ∧
    (let s := Tests.clock 7 (Tests.lmn (fun l => { l with aligned := false, lost := 1 }) (Tests.up .run)); s.lmn.aligned = false ∧ s.sys.phase ≠ 0 ∧ s.tb.running = true ∧ (xq s 24).st = .joined ∧ (xq s 25).st = .joined ∧ s.lmn.lost ≠ 0) ∧
    (let s := Tests.clock 7 (Tests.lmn (fun l => { l with aligned := false }) (Tests.up .run)); s.lmn.lost = 0 ∧ s.lmn.log.any entryVlow = false) ∧
    (let s := Tests.lmn (fun l => { l with attended := true, vLow := false }) State.reset; s.lmn.vLow = false ∧ s.lmn.attended = true) ∧
    (let s := Tests.lmn (fun l => { l with log := [{ word := 5, bad := false }, { word := 7, bad := true }], writes := List.replicate 3 { off := 0x060, v := 20, at_ := 0 } }) (Tests.up .run); reaches .mgt pgLmn s ∧ (xq s 25).st = .joined ∧
      (s.lmn.writes.filter fun w => decide (now s < w.at_ + 12208)).length < 4 ∧ s.lmn.log.length ≤ (2 : BitVec 8).toNat ∧ s.lmn.log.reverse[(1 : BitVec 8).toNat]? = some { word := 5, bad := false } ∧ s.lmn.log.reverse[(0 : BitVec 8).toNat]? = some { word := 7, bad := true } ∧
      (hdr s pgLmn).injCount = 0) ∧
    (let s := Tests.lmn (fun l => { l with writes := List.replicate 4 { off := 0x060, v := 20, at_ := 0 } }) (Tests.up .run); (xq s 25).st = .joined ∧ 4 ≤ (s.lmn.writes.filter fun w => decide (now s < w.at_ + 12208)).length) ∧
    (let s := { Tests.up .run with queues := Vector.ofFn fun q : Fin 26 => { st := if q.val < 24 then .joined else .severed } }; reaches .mgt pgLmn s ∧ (xq s 25).st = .severed ∧ (xq s 25).st ≠ .joined ∧ (xq s 25).prodRst = false) := by unfold reaches; decide +kernel

/-- A round on which an input changes that is watched for both edges, logged and waking. -/
def Tests.round (attended : Bool) : State :=
  Tests.lmn (fun l => { l with round := some { start := 5, attended := attended }, watch := Vector.replicate 8 { en := true, log := true, wake := true, trig := 3, level := some false, samples := [true, true, true, true] } }) State.reset

theorem witness_LengthmanWatchesAndAligns_round :
    ((Tests.round true).lmn.round = some { start := 5, attended := true } ∧ (Tests.round false).lmn.round = some { start := 5, attended := false }) ∧ (Tests.round false).lmn.attended = false ∧ (Tests.round false).lmn.wakeOut = false ∧
    ((List.range 8).any fun k => watchSelected (vGet (Tests.round false).lmn.watch k {}) (watchSample ((0xFF : BitVec 8).getLsbD k) (vGet (Tests.round false).lmn.watch k {}))) = true ∧
    ((List.range 8).any fun k => watchSelected (vGet State.reset.lmn.watch k {}) (watchSample ((0 : BitVec 8).getLsbD k) (vGet State.reset.lmn.watch k {}))) = false := by decide +kernel

/-- The supplies changed. -/
def Tests.pwr (f : Pwr → Pwr) (s : State) : State := { s with pwr := f s.pwr }

theorem witness_FeedsCarryAndSwitch :
    (feedSt State.reset false = .failed ∧ carried State.reset = false) ∧
    (let s := Tests.pwr (fun p => { p with feedB := .qualifying }) (Tests.up .run); feedSt s true = .qualifying ∧ s.sys.mode ≠ .parked ∧ carried s = false ∧ feedTrusted s true = true) ∧
    (let s := Tests.pwr (fun p => { p with feedA := .active, feedB := .qualifying }) (Tests.up .run); feedSt s true = .qualifying ∧ carried s = true) ∧
    (let s := Tests.pwr (fun p => { p with feedA := .qualifying, off := false, bridge := 0 }) (Tests.up .parked); feedSt s false = .qualifying ∧ s.sys.mode = .parked ∧ s.pwr.bridge = 0 ∧ s.pwr.off = false) ∧
    (let s := Tests.pwr (fun p => { p with feedA := .active, feedB := .standby }) (Tests.up .run); feedSt s false = .active ∧ feedSt s true = .standby ∧ feedTrusted s true = true ∧ s.pwr.pfRun = false ∧ swapReady s = true ∧ reaches .mgt pgPwr s) ∧
    (let s := Tests.pwr (fun p => { p with feedA := .active }) (Tests.up .run); feedSt s false = .active ∧ feedSt s true ≠ .standby ∧ carried s = true ∧ s.pwr.pfRun = false ∧ swapReady s = false) ∧
    (let s := Tests.pwr (fun p => { p with feedA := .active, pfRun := true }) (Tests.up .run); feedSt s false = .active ∧ carried s = true ∧ s.pwr.pfRun = true ∧ reaches .mgt pgPwr s) ∧
    ((Tests.pwr (fun p => { p with charging := true }) State.reset).pwr.charging = true ∧ State.reset.pwr.charging = false ∧ measStop State.reset = false) := by unfold reaches; decide +kernel

/-- Sealed and parked while the power fails. -/
def Tests.ready (pin : Bool) : State :=
  Tests.pwr (fun p => { p with pfRun := true, pfSet := 1, bridge := 3 }) (Tests.jrn (fun j => { j with st := .sealed }) (Tests.sto (fun x => { x with parked := true }) { Tests.store .run with rst := { State.reset.rst with pinAfterPark := pin } }))

theorem witness_PowerFailParksTheModule :
    State.reset.pwr.pfRun = false ∧ (8 : BitVec 4).getLsbD 3 = true ∧ (∀ j, j < 3 → (8 : BitVec 4).getLsbD j = false) ∧ (1 : BitVec 4).getLsbD 0 = true ∧
    (reaches .mgt pgPwr (Tests.up .safe) ∧ (Tests.up .safe).pwr.pfRun = false) ∧ (reaches .mgt pgPwr (Tests.up .parked) ∧ (Tests.up .parked).sys.mode = .parked) ∧
    (∀ b : Bool, let s := Tests.ready b; s.pwr.pfRun = true ∧ s.pwr.pfSet &&& 0x2F ≠ 0 ∧ s.jrn.st = .sealed ∧ s.sto.parked = true ∧ s.sys.mode ≠ .parked ∧ s.rst.pinAfterPark = b ∧ s.pwr.bridge ≠ 0) ∧
    (let s := Tests.pwr (fun p => { p with bridge := 4 }) (Tests.up .parked); s.sys.mode = .parked ∧ s.pwr.bridge ≠ 0) ∧
    ((Tests.pwr (fun p => { p with off := true }) State.reset).pwr.off = true) := by unfold reaches; decide +kernel

/-- Everything RUN asks for holds. -/
def Tests.mayRun (s : State) : State :=
  { s with
    ilkA := { s.ilkA with table := some {}, st := .halted }
    ilkB := { s.ilkB with table := some {}, st := .halted }
    dhd := { s.dhd with lockstep := true, injDone := true }
    tab := { s.tab with injDone := true }
    pwr := { s.pwr with feedA := .active }
    jrn := { s.jrn with k := 262144 }
    ilkl := { s.ilkl with active := some 0 } }

/-- A mode request pends. -/
def Tests.pends (m : Mode) (s : State) : State := { s with sys := { s.sys with modePend := some m } }

theorem witness_ModeRequestsAreJudged :
    (let s := Tests.pwr (fun p => { p with pfRun := true }) (Tests.up .safe); reaches .mgt pgSys s ∧ s.pwr.pfRun = true) ∧
    (let s := { Tests.up .starting with sys := { (Tests.up .starting).sys with phase := 7 } }; reaches .mgt pgSys s ∧ s.pwr.pfRun = false ∧ s.sys.phase ≠ 15) ∧
    (let s := Tests.pends .run (Tests.up .safe); reaches .mgt pgSys s ∧ s.sys.phase = 15 ∧ s.sys.modePend.isSome = true) ∧
    (let s := Tests.mayRun (Tests.store .safe); reaches .mgt pgSys s ∧ s.pwr.pfRun = false ∧ s.sys.phase = 15 ∧ s.sys.modePend = none ∧ s.sys.mode = .safe ∧ tableIn s = true ∧ s.ast.runBlock = false ∧ lockstepReport s = true ∧ s.dhd.cmpFail = false ∧ s.tab.cmpFail = false ∧
      logicFenced s = false ∧ fatalPend s = false ∧ s.ilkl.trip = false ∧ s.jrn.st = .running ∧ feedActive s = true ∧ 262144 ≤ s.jrn.k ∧ runCheck s = none) ∧
    (let s := Tests.jrn (fun j => { j with k := 262143 }) (Tests.mayRun (Tests.store .safe)); feedActive s = true ∧ s.jrn.k < 262144) ∧
    (let s := Tests.up .safe; tableIn s = false ∧ feedActive s = false ∧ s.jrn.st ≠ .running ∧ lockstepReport s = false) ∧
    (let s := Tests.between .run; reaches .mgt pgSys s ∧ s.pwr.pfRun = false ∧ s.sys.phase = 15 ∧ s.sys.modePend = none ∧ s.sys.mode = .run ∧ s.sys.exitPend = false ∧ scansRun s = true ∧ s.ilkl.scanning = false) := by unfold reaches; decide +kernel

theorem witness_ModeRequestsAreJudged_effect :
    ((Tests.up .run).sys.mode = .run ∧ (Tests.up .split).sys.mode ≠ .run ∧ (Tests.up .split).sys.mode ≠ .service ∧ (Tests.up .split).sys.mode ≠ .safe ∧ (Tests.up .split).sys.mode ≠ .incomplete) ∧
    scansRun (Tests.between .run) = true ∧
    (let s := Tests.pends .run (Tests.up .safe); scansRun s = false ∧ s.sys.exitPend = false ∧ s.sys.modePend = some .run ∧ (runCheck s).isSome = true) ∧
    (let s := Tests.pends .safe (Tests.up .run); scansRun s = false ∧ s.sys.modePend = some .safe ∧ s.sys.mode ≠ .service) ∧
    (let s := Tests.pends .safe (Tests.up .service); scansRun s = false ∧ s.sys.modePend = some .safe ∧ s.sys.mode = .service ∧ s.tch.flags.getLsbD 1 = false) ∧
    (let s := Tests.pends .service (Tests.up .safe); scansRun s = false ∧ s.sys.modePend = some .service) ∧
    (let s := { Tests.up .incomplete with sys := { (Tests.up .incomplete).sys with exitPend := true } }; scansRun s = false ∧ s.sys.exitPend = true ∧ s.sys.mode = .incomplete ∧ s.sys.modePend = none) := by decide +kernel

/-! ## Witnesses: resets and start-up -/

/-- One reset runs. -/
def Tests.resetting (waiting : Bool) (x : ResetTarget) (s : State) : State := { s with rst := { s.rst with running := [{ target := x, fromFcr := false, waiting := waiting }] } }

theorem witness_ResetsFenceAndRestart :
    (reaches .mgt pgRst (Tests.up .parked) ∧ (Tests.up .parked).sys.mode = .parked) ∧
    (let s := Tests.pwr (fun p => { p with pfRun := true }) (Tests.up .run); reaches .mgt pgRst s ∧ s.sys.mode ≠ .parked ∧ s.pwr.pfRun = true) ∧
    (let s := { Tests.up .starting with sys := { (Tests.up .starting).sys with phase := 7 } }; reaches .mgt pgRst s ∧ s.pwr.pfRun = false ∧ s.sys.phase ≠ 15) ∧
    (let s := Tests.up .service; reaches .mgt pgRst s ∧ s.pwr.pfRun = false ∧ s.sys.phase = 15 ∧ (List.range 5).all (fun g => (regionOf g).any fun r => resetAllowed (.region r) s.sys.mode) = true ∧ s.rst.running = [] ∧ 4 < (5 : BitVec 3).toNat ∧
      (List.range 0x30).any (fun p => pagePresent s.variant p && regionIndex p != 5 && resetAllowed (.block p) s.sys.mode) = true ∧ (List.range 64).any (fun p => pagePresent s.variant p && regionIndex p == 5) = true) ∧
    (let s := Tests.up .run; (List.range 5).any (fun g => (regionOf g).any fun r => !(resetAllowed (.region r) s.sys.mode)) = true ∧ (List.range 0x30).any (fun p => pagePresent s.variant p && regionIndex p != 5 && !(resetAllowed (.block p) s.sys.mode)) = true) ∧
    (let s := Tests.resetting true (.region .storage) (Tests.store .service); s.rst.running ≠ [] ∧ s.jrn.waiting = [] ∧ s.jrn.buf = [] ∧ s.rst.running = [{ target := .region .storage, fromFcr := false, waiting := true }]) ∧
    (let s := Tests.resetting false (.block pgDhd) (Tests.store .service); s.rst.running = { target := .block pgDhd, fromFcr := false, waiting := false } :: [] ∧ resetMayEnd { target := .block pgDhd, fromFcr := false, waiting := false } s = true) ∧
    (let s := Tests.resetting false (.region .host) (Tests.store .service); resetMayEnd { target := .region .host, fromFcr := false, waiting := false } s = true) ∧
    resetMayEnd { target := .region .storage, fromFcr := false, waiting := true } (Tests.resetting true (.region .storage) (Tests.store .service)) = false ∧
    (State.reset.rst.running = [] ∧ State.reset.rst.pinLow = false ∧ State.reset.rst.chip = none ∧ 1000 ≤ 1000) ∧
    (let s := { Tests.ready true with rst := { State.reset.rst with chip := some (.pin, 3) } }; let s := { s with sys := { s.sys with mode := .parked } }; s.rst.chip = some (.pin, 3) ∧ s.jrn.st = .sealed ∧ s.sto.parked = true ∧ s.sys.mode = .parked) ∧
    (let s := Tests.clock 300003 { Tests.up .run with rst := { State.reset.rst with chip := some (.pin, 3) } }; 3 + 3 * tbMs ≤ now s ∧ s.pwr.pfSet &&& 0x2F = 0) := by unfold reaches; decide +kernel

theorem witness_ResetsFenceAndRestart_waits :
    (let s := Tests.jrn (fun j => { j with buf := [Tests.buffered true 2 []] }) (Tests.store .service); reaches .mgt pgRst s ∧ s.pwr.pfRun = false ∧ s.sys.phase = 15 ∧
      resetAllowed (.region .storage) s.sys.mode = true ∧ resetWaits (.region .storage) s = true ∧ resetWaits (.block pgJrn) s = true ∧ s.jrn.buf ≠ []) ∧
    (let s := Tests.pwr (fun p => { p with pfRun := true }) (Tests.up .parked); s.rst.pinLow = false ∧ s.pwr.pfRun = true ∧ s.sys.mode = .parked) ∧
    (let s := Tests.pwr (fun p => { p with pfRun := true }) (Tests.up .run); s.rst.pinLow = false ∧ s.pwr.pfRun = true ∧ s.sys.mode ≠ .parked) ∧
    (let s := Tests.resetting false (.region .host) (Tests.store .service); (ResetTarget.region Region.host) = .region .host ∧ resetMayEnd { target := .region .host, fromFcr := false, waiting := false } s = true ∧
      pgPcie ∈ targetPages (.region .host) ∧ s.fab.stuck.getLsbD pgPcie = false ∧ pageInReset pgPcie { s with rst := { s.rst with running := [] } } = false) := by unfold reaches; decide +kernel

/-- Start-up stands in a phase. -/
def Tests.starting (n : Nat) (s : State) : State := { s with sys := { s.sys with phase := n, mode := .starting } }

theorem witness_StartupRunsInPhases :
    (startIn State.reset 0 = true ∧ State.reset.rst.pinLow = false ∧ State.reset.sys.sampled = false ∧ startIn State.reset 1 = false ∧ (7 : BitVec 4).getLsbD 0 = true ∧ (7 : BitVec 4).getLsbD 1 = true ∧ (7 : BitVec 4).getLsbD 2 = true) ∧
    (let s := Tests.starting 1 State.reset; startIn s 1 = true ∧ s.tch.marginDone = false ∧ feedActive s = false) ∧
    (let s := Tests.starting 1 (Tests.tch (fun t => { t with marginDone := true }) State.reset); startIn s 1 = true ∧ s.tch.marginDone = true ∧ feedActive s = false) ∧
    (let s := Tests.starting 1 (Tests.pwr (fun p => { p with feedA := .active }) State.reset); feedActive s = true) ∧
    (startIn (Tests.starting 2 State.reset) 2 = true ∧ startIn (Tests.starting 3 State.reset) 3 = true) ∧
    (let s := Tests.starting 4 State.reset; startIn s 4 = true ∧ s.sto.mapOk = false ∧ s.ast.storeBad = false) ∧
    (let s := Tests.starting 4 (Tests.store .run); startIn s 4 = true ∧ s.sto.mapOk = true) ∧
    (let s := Tests.starting 5 State.reset; startIn s 5 = true ∧ (tilesWanted s).all (tileUp s) = false ∧ (tilesWanted s).any (fun p => !(tileUp s p)) = true ∧ 19999 < vGet s.sys.phaseEnd 4 0 + 20000) ∧
    (let s := Tests.starting 6 (Tests.store .run); startIn s 6 = true ∧ s.jrn.st ≠ .recovering ∧ mergeSealed s = true ∧ 19999 < vGet s.sys.phaseEnd 5 0 + 20000) ∧
    (let s := Tests.starting 6 (Tests.jrn (fun j => { j with merge := some (3, 4), buf := [Tests.buffered true 2 []] }) (Tests.store .run)); s.jrn.st ≠ .recovering ∧ mergeSealed s = false) ∧
    (let s := Tests.starting 6 (Tests.jrn (fun j => { j with st := .recovering }) (Tests.store .run)); startIn s 6 = true ∧ s.jrn.st = .recovering ∧ s.ast.storeBad = false ∧ s.sto.mapOk = true ∧ (partOfType s.sto 4).isSome = true) ∧
    startIn (Tests.starting 7 (Tests.store .run)) 7 = true := by decide +kernel

/-! ## Witnesses: the machine -/

theorem witness_StepRunsTheFrontCommand : State.reset.pending = [] ∧ ({ State.reset with pending := [.xspiIgnored] } : State).pending = .xspiIgnored :: [] := by decide

theorem witness_EveryStepKeepsTheInvariant : storeCanonical (Tests.store .run) ∧ (((Tests.store .run).sto.map.map Prod.fst).Pairwise (· < ·) ∧ ∀ m ∈ (Tests.store .run).sto.snaps.toList, m.all (fun m => decide ((m.map.map Prod.fst).Pairwise (· < ·))) = true) := by
  unfold storeCanonical; decide +kernel

theorem witness_ChipResetClearsAndLogicResetTrips : State.reset.ilkl.trip = false := by decide

theorem witness_OnlyOwnersWriteChannelsAndTimers :
    (let s := Tests.up .run; reaches .mgt pgTbase s ∧ reaches .mgt pgTmr s ∧ hostMayWrite s 2 31 = false ∧ hostMayWrite s 3 7 = false ∧ (0x138 : BitVec 10).toNat / 8 = 8 + 31 ∧ (0x07B : BitVec 10).toNat / 8 = 8 + 7 ∧ (0x13B : BitVec 10).toNat % 8 ≤ 3 ∧ (0x13E : BitVec 10).toNat % 8 = 6) ∧
    hostMayWrite (Tests.owned 2 32 (Tests.up .run)) 2 31 = true := by unfold reaches; decide +kernel
end

section
/-! How the resets treat the interlock loader's page: the trip latch and the command images (R92, R93, R96). -/

namespace Sys2Proof.Machine

/-! ## Operations of a reset that leave ILKL as it was -/

@[simp] theorem discardRequests_ilkl (pg : Nat) (s : State) : (discardRequests pg s).ilkl = s.ilkl := by
  unfold discardRequests; split <;> rfl

@[simp] theorem cellsReset_ilkl (pg : Nat) (s : State) : (cellsReset pg s).ilkl = s.ilkl := rfl

@[simp] theorem loseQueue_ilkl (i : Nat) (s : State) : (loseQueue i s).ilkl = s.ilkl := by
  unfold loseQueue; repeat' split
  all_goals rfl

@[simp] theorem severQueue_ilkl (i : Nat) (prod cons : Bool) (s : State) : (severQueue i prod cons s).ilkl = s.ilkl := by
  unfold severQueue; split <;> simp

@[simp] theorem pcieReset_ilkl (flr : Bool) (s : State) : (pcieReset flr s).ilkl = s.ilkl := by
  simp [pcieReset, releaseLatches, releasePin]

@[simp] theorem tileReset_ilkl (p : Nat) (s : State) : (tileReset p s).ilkl = s.ilkl := rfl

@[simp] theorem ilkReset_ilkl (c : Chan) (s : State) : (ilkReset c s).ilkl = s.ilkl := by cases c <;> rfl

@[simp] theorem cancelModeReq_ilkl (code : Nat) (s : State) : (cancelModeReq code s).ilkl = s.ilkl := by
  unfold cancelModeReq; split <;> simp

/-! ## What a trip leaves in the latch -/

/-- The trip latch: whether it is set, its first cause, and TRIP_SET (R93). -/
def tripLatch (l : Ilkl) : Bool × Nat × Word32 := (l.trip, l.cause, l.tripSet)

theorem getLsbD_flag_self (n : Nat) (h : n < 32) : (flag n true).getLsbD n = true := by
  simp only [flag, if_true, BitVec.getLsbD_ofNat, h, decide_true, Nat.testBit_two_pow_self, Bool.and_self]

theorem latchTrip_cause (c : Cause) (e : Word32) (t : Nat) (l : Ilkl) (h : l.trip = false) : (latchTrip c e t l).cause = c.code := by
  simp [latchTrip, h]

/-- A latch that was clear takes the code of the cause that sets it (R93). -/
theorem trip_cause (code chan detail pg : Nat) (s : State) (h : s.ilkl.trip = false) : (trip code chan detail pg s).ilkl.cause = code := by
  simp only [trip, imagesOff, apply_ite State.ilkl, evtIf_ilkl, chanTrip_ilkl, report_ilkl, interlockRecord_ilkl, ite_self]
  split <;> exact latchTrip_cause _ _ _ _ h

/-- A detected cause trips with its code (R92, R93). -/
theorem trip_tripped (code chan detail pg : Nat) (s : State) (h : code < 32) : tripped code (trip code chan detail pg s) := by
  obtain ⟨htrip, hset, hoff⟩ := trip_ilkl code chan detail pg s
  refine ⟨htrip, ?_, hoff⟩
  rw [hset, BitVec.getLsbD_or, getLsbD_flag_self code h, Bool.or_true]

/-! ## What the resets leave in ILKL -/

/-- Closing the causes of a scan empties their list and touches nothing else of ILKL. -/
theorem closeCauses_ilkl (s : State) : (closeCauses s).ilkl = { s.ilkl with causes := [] } := by
  unfold closeCauses; split
  · rename_i h; rw [← List.isEmpty_iff.mp h]
  · simp

/-- The reset of one block leaves ILKL as it was, or as the loader's own reset leaves it. -/
theorem resetBlock_ilkl (pg : Nat) (s : State) : (resetBlock pg s).ilkl = s.ilkl ∨ (resetBlock pg s).ilkl = (ilklReset s).ilkl := by
  unfold resetBlock; dsimp only
  cases pageKind (resetHdr pg s).variant pg with
  | ilkl => exact .inr rfl
  | _ => left; simp [resetHdr, tabReset, dhdReset, tblReset, tbaseReset, astReset, tchReset, hmkReset, stoReset, linkReset, lmnLost]

/-- The trip latch stands through the reset of any block, the loader's among them (R96, R110). -/
theorem resetBlock_tripLatch (pg : Nat) (s : State) : tripLatch (resetBlock pg s).ilkl = tripLatch s.ilkl := by
  rcases resetBlock_ilkl pg s with h | h <;> rw [h]
  rfl

/-- The reset of a block never commands an output on. -/
theorem resetBlock_outputsOff (pg : Nat) (s : State) (hs : outputsOff s) : outputsOff (resetBlock pg s) := by
  unfold outputsOff at *
  rcases resetBlock_ilkl pg s with h | h <;> rw [h]
  · exact hs
  · exact ⟨rfl, rfl, rfl, rfl⟩

theorem foldl_resetBlock_tripLatch (l : List Nat) (s : State) : tripLatch (l.foldl (fun t p => resetBlock p t) s).ilkl = tripLatch s.ilkl :=
  foldl_keeps (fun t => tripLatch t.ilkl) _ (fun t p => resetBlock_tripLatch p t) l s

theorem foldl_resetBlock_outputsOff (l : List Nat) (s : State) (hs : outputsOff s) : outputsOff (l.foldl (fun t p => resetBlock p t) s) :=
  List.foldlRecOn l _ hs fun t ht p _ => resetBlock_outputsOff p t ht

/-- A chip reset returns the whole of ILKL to its reset values (R507). -/
theorem chipReset_ilkl (c : ChipCause) (s : State) : (chipReset c s).ilkl = {} := by
  unfold chipReset
  exact foldl_keeps State.ilkl _ (fun t p => by split <;> simp) _ _

/-- A Logic region reset leaves the latch that a FENCE trip sets, and every output commanded off (R96, Table RST-9). -/
theorem regionResetStart_logic_latch (s : State) :
    ∃ u : State, u.ilkl = s.ilkl ∧ tripLatch (regionResetStart .logic s).ilkl = tripLatch (trip0 0x10 0 pgIlkl u).ilkl ∧ outputsOff (regionResetStart .logic s) := by
  unfold regionResetStart; extract_lets s1 s2 s3 s4
  have h1 : s1.ilkl = s.ilkl := foldl_keeps State.ilkl _ (fun t p => by simp) _ _
  have h2 : s2.ilkl = s1.ilkl := foldl_keeps State.ilkl _ (fun t q => by simp) _ _
  have h3 : s3.ilkl = { (trip0 0x10 0 pgIlkl s2).ilkl with causes := [] } := closeCauses_ilkl _
  have hoff : outputsOff s3 := by
    obtain ⟨-, -, htripOff⟩ := trip_tripped 0x10 0 0xFFFFFF pgIlkl s2 (by decide)
    unfold outputsOff; rw [h3]; exact htripOff
  refine ⟨s2, h2.trans h1, ?_, ?_⟩
  · rw [cancelModeReq_ilkl, foldl_resetBlock_tripLatch, h3]; rfl
  · unfold outputsOff; rw [cancelModeReq_ilkl]
    exact foldl_resetBlock_outputsOff _ _ hoff

end Sys2Proof.Machine

open Sys2Proof.Machine

/-- Settles O58: a chip reset leaves ILKL at its reset values, where the latch is clear; a Logic region reset trips with FENCE before it resets its blocks, none of which clears the latch. -/
theorem chipResetClearsAndLogicResetTrips : Obligations.ChipResetClearsAndLogicResetTrips := by
  refine ⟨fun c s => ?_, fun s => ?_⟩
  · rw [chipReset_ilkl]; exact ⟨rfl, rfl⟩
  · obtain ⟨u, hu, hlatch, hoff⟩ := regionResetStart_logic_latch s
    simp only [tripLatch, Prod.mk.injEq] at hlatch
    obtain ⟨htrip, hcause, hset⟩ := hlatch
    obtain ⟨hutrip, huset, -⟩ := trip_tripped 0x10 0 0xFFFFFF pgIlkl u (by decide)
    refine ⟨⟨htrip.trans hutrip, ?_, hoff⟩, fun hclear => ?_⟩
    · rw [hset]; exact huset
    · rw [hcause]; exact trip_cause 0x10 0 0xFFFFFF pgIlkl u (hu ▸ hclear)
end

section
/-! The EDGE block (R154): Q as a function of IN and of the value of IN the block recorded in the previous scan. -/

namespace Sys2Proof.Machine

/-! ## The directions of EDGE -/

/-- IN has changed from `was` to `is` in the direction that the code of VAR[1:0] selects (Table FB-1): 1 rising, 2 falling, any other either one. -/
def edgeSeen (code : Nat) (was is : Bool) : Bool :=
  if code = 1 then is && !was else if code = 2 then !is && was else is != was

theorem edgeSeen_rising (was is : Bool) : edgeSeen 1 was is = true ↔ was = false ∧ is = true := by
  simp [edgeSeen, and_comm]

theorem edgeSeen_falling (was is : Bool) : edgeSeen 2 was is = true ↔ was = true ∧ is = false := by
  simp [edgeSeen, and_comm]

theorem edgeSeen_either (code : Nat) (was is : Bool) (hrise : code ≠ 1) (hfall : code ≠ 2) : edgeSeen code was is = true ↔ is ≠ was := by
  simp [edgeSeen, hrise, hfall]

/-! ## One scan of the block -/

/-- EDGE records IN, and its Q is FALSE in the first scan and in every other scan tells whether IN has changed in the selected direction. -/
theorem runEdge_eq (c : Ctx) (k : Blk) (m : BlkMem) :
    runEdge c k m = ({ m with f1 := boolIn c (refAt k 0) },
      [(refAt k 1, .b (!c.first && edgeSeen (varBits k 0 2) m.f1 (boolIn c (refAt k 0))))]) := by
  unfold runEdge edgeSeen
  cases c.first with
  | true => rfl
  | false =>
    dsimp only
    rw [if_neg Bool.false_ne_true, Bool.not_false, Bool.true_and]
    split
    · next hcode => simp [hcode]
    · next hcode => simp [hcode]
    · next hrise hfall =>
      rw [if_neg hrise, if_neg hfall]
      cases boolIn c (refAt k 0) <;> cases m.f1 <;> rfl

theorem runBlk_edge (c : Ctx) (k : Blk) (m : BlkMem) (h : k.typ = 0x06) : runBlk c k m = runEdge c k m := by
  simp [runBlk, h]

end Sys2Proof.Machine

open Sys2Proof.Machine

/-- Settles O60: the output of `runEdge_eq`, read in the first scan and, in every other, by the code of VAR[1:0]. -/
theorem edgeFiresForOneScan : Obligations.EdgeFiresForOneScan := by
  intro c k m htyp i
  refine ⟨!c.first && edgeSeen (varBits k 0 2) m.f1 i, (runBlk_edge c k m htyp).trans (runEdge_eq c k m),
    fun hfirst => by rw [hfirst]; rfl, fun hlater => ?_⟩
  rw [hlater, Bool.not_false, Bool.true_and]
  refine ⟨fun hcode => ?_, fun hcode => ?_, edgeSeen_either _ m.f1 i⟩
  · rw [hcode]; exact edgeSeen_rising m.f1 i
  · rw [hcode]; exact edgeSeen_falling m.f1 i

/-! ## Witness: a rising EDGE on a signal that stays TRUE -/

/-- A scan after the first, with signal 0 TRUE. -/
def Tests.signalOn : Ctx :=
  { cur := 1, prev := 0, wcur := [], wprev := [], a := {}, b := {}, split := false, ts := 0, s := 0, first := false, restart := false }

/-- An EDGE block that takes signal 0 and writes signal 2 when it rises. -/
def Tests.risingEdge : Blk := { typ := 0x06, var := 1, sb := 0, wb := 0, words := 1, refs := [⟨0, false, 0, false⟩, ⟨2, false, 0, false⟩], params := [] }

/-- The scan in which IN has become TRUE sets Q; the next one, which starts from the memory that scan left, clears it. -/
theorem witness_EdgeFiresForOneScan :
    runBlk Tests.signalOn Tests.risingEdge {} = ({ f1 := true }, [(⟨2, false, 0, false⟩, .b true)]) ∧
    runBlk Tests.signalOn Tests.risingEdge { f1 := true } = ({ f1 := true }, [(⟨2, false, 0, false⟩, .b false)]) := by
  have hin : boolIn Tests.signalOn (refAt Tests.risingEdge 0) = true := by
    simp [boolIn, sigBit, refAt, Tests.signalOn, Tests.risingEdge]
  constructor
  · obtain ⟨q, hrun, -, hlater⟩ := edgeFiresForOneScan Tests.signalOn Tests.risingEdge {} rfl
    obtain ⟨hrise, -⟩ := hlater rfl
    have hq : q = true := (hrise rfl).mpr ⟨rfl, hin⟩
    rw [hrun, hin, hq]; rfl
  · obtain ⟨q, hrun, -, hlater⟩ := edgeFiresForOneScan Tests.signalOn Tests.risingEdge { f1 := true } rfl
    obtain ⟨hrise, -⟩ := hlater rfl
    have hq : q = false := Bool.eq_false_iff.mpr fun h => absurd ((hrise rfl).mp h).1 (by decide)
    rw [hrun, hin, hq]; rfl
end

section
/-! Who may write a compare channel or a timer, and what a write through any interface comes to where the owner has not left it to the host (R242). -/

namespace Sys2Proof.Machine

/-! ## The owner's leave -/

/-- The host owns the resource, or the table owns it and leaves it to the host with HOST_ACCESS (R241, R242). -/
theorem hostMayWrite_iff (s : State) (kind index : Nat) :
    hostMayWrite s kind index = true ↔ ownerOf s kind index = .host ∨ (ownerOf s kind index = .table ∧ hostAccess s kind index = true) := by
  unfold hostMayWrite
  cases ownerOf s kind index <;> simp

/-- Ownership is read from the claims of TBL and from nothing else. -/
theorem hostMayWrite_of_tbl {s t : State} (h : t.tbl = s.tbl) (kind index : Nat) : hostMayWrite t kind index = hostMayWrite s kind index := by
  unfold hostMayWrite ownerOf hostAccess; rw [h]

theorem ownedWrite_refused (i : Iface) (pg kind n off : Nat) (f : State → State) (s : State) (h : hostMayWrite s kind n = false) :
    ownedWrite i pg kind n off f s = errStat i pg off 3 s := by
  unfold ownedWrite; rw [h]; rfl

/-! ## What an interface keeps of an access, and what an access records -/

@[simp] theorem seen_tb (i : Iface) (s : State) : (seen i s).tb = s.tb := by cases i <;> rfl
@[simp] theorem seen_tmr (i : Iface) (s : State) : (seen i s).tmr = s.tmr := by cases i <;> rfl
@[simp] theorem hdr_seen (i : Iface) (s : State) (p : Nat) : hdr (seen i s) p = hdr s p := by cases i <;> rfl

theorem hdr_updHdr_self (p : Nat) (f : PageHdr → PageHdr) (s : State) (hp : p < 64) : hdr (updHdr p f s) p = f (hdr s p) :=
  vGet_vUpd_self _ _ _ _ hp

/-- ERR_STAT of a page holds OWNER, with the interface of the last access recorded (Table HIF-1). -/
def ownerRecorded (i : Iface) (p : Nat) (s : State) : Prop := (hdr s p).errStat.getLsbD 3 = true ∧ (hdr s p).errIface = i

theorem errStat_ownerRecorded (i : Iface) (p off : Nat) (s : State) (hp : p < 64) : ownerRecorded i p (errStat i p off 3 s) := by
  unfold ownerRecorded errStat; rw [hdr_updHdr_self _ _ _ hp]
  exact ⟨by rw [getLsbD_setBit _ _ _ _ (by decide), if_pos rfl], rfl⟩

/-! ## A write that the page refuses -/

/-- The page answers a write of one of its own registers with OWNER alone, as long as the variant and the claims are those of `s`. -/
def pageRefuses (p off : Nat) (s : State) : Prop :=
  ∀ (i : Iface) (v : Word32) (t : State), t.variant = s.variant → t.tbl = s.tbl → pageWrite i p off v t = errStat i p off 3 t

/-- The bits of a register that a write reaches without the key. -/
def freeBits (k : PageKind) (off : Nat) : Word32 := (fieldsOf k off).rw ||| (fieldsOf k off).wo

/-- Beyond the header a write reaches the page's own registers, and cancels the page's key (R19, R313). -/
theorem regWrite_beyondHeader (i : Iface) (p off : Nat) (v : Word32) (s : State) (hpresent : pagePresent s.variant p = true)
    (hfence : pageFenced s p = false) (hkind : pageKind s.variant p ≠ .ep) (hoff : 0x028 ≤ off) :
    regWrite i p off v s = fieldWrite i p off ((hdr s p).key == some i) v (cancelKey p s) := by
  have hkind' : pageKind (cancelKey p s).variant p ≠ .ep := hkind
  unfold regWrite presentWrite
  rw [hpresent, hfence, if_neg (by decide), if_neg (by decide), if_neg (by omega), if_neg (fun h => hkind' h.1)]
  split
  any_goals omega
  rfl

/-- Without RWK fields, a write that the page refuses is recorded where it meets a writable field, and is ignored elsewhere. -/
theorem fieldWrite_refused (i : Iface) (p off : Nat) (keyed : Bool) (v : Word32) (s : State) (hrwk : (fieldsOf (pageKind s.variant p) off).rwk = 0)
    (hrefuses : pageRefuses p off s) :
    fieldWrite i p off keyed v s = if freeBits (pageKind s.variant p) off = 0 then s else errStat i p off 3 s := by
  unfold fieldWrite; dsimp only
  rw [if_pos hrwk, hrefuses i _ s rfl rfl]; rfl

/-- A write that the page refuses, through any interface that reaches it, leaves the Station clock's channels and the timers as they were, and is recorded where it meets a writable field. -/
theorem ifaceWrite_refused (i : Iface) (p off : Nat) (v : Word32) (s : State) (hreach : reaches i p s) (hkind : pageKind s.variant p ≠ .ep)
    (hoff : 0x028 ≤ off) (hlt : off < 4096) (h4 : off % 4 = 0) (hrwk : (fieldsOf (pageKind s.variant p) off).rwk = 0) (hrefuses : pageRefuses p off s) :
    (ifaceWrite i p off v s).tb = s.tb ∧ (ifaceWrite i p off v s).tmr = s.tmr ∧
      (freeBits (pageKind s.variant p) off ≠ 0 → ownerRecorded i p (ifaceWrite i p off v s)) := by
  obtain ⟨hopen, hpresent, hfence⟩ := hreach
  have hp : p < 64 := page_lt _ _ hpresent
  have hreg (j : Iface) (d : Dbg) (a : Arb) : regWrite j p off v { s with dbg := d, arb := a } =
      if freeBits (pageKind s.variant p) off = 0 then cancelKey p { s with dbg := d, arb := a }
      else errStat j p off 3 (cancelKey p { s with dbg := d, arb := a }) :=
    (regWrite_beyondHeader j p off v { s with dbg := d, arb := a } hpresent hfence hkind hoff).trans
      (fieldWrite_refused j p off _ v (cancelKey p { s with dbg := d, arb := a }) hrwk hrefuses)
  obtain ⟨d, a, -, hseen⟩ := seen_ifaceWrite i p off v s (by omega) hlt h4 hopen fun a => by
    rw [hreg .mgt s.dbg a]; split <;> rfl
  rw [hreg i d a] at hseen
  refine ⟨?_, ?_, fun hfree => ?_⟩
  · rw [← seen_tb i, hseen, seen_tb]; split <;> rfl
  · rw [← seen_tmr i, hseen, seen_tmr]; split <;> rfl
  · unfold ownerRecorded
    rw [← hdr_seen i, hseen, hdr_seen, if_neg hfree]
    exact errStat_ownerRecorded i p off _ hp

/-! ## The registers of a compare channel and of a timer (Tables TB-4, TB-5) -/

theorem fieldsOf_of_canonOff {k : PageKind} {a b : Nat} (h : canonOff k a = b) (hb : canonOff k b = b) : fieldsOf k a = fieldsOf k b := by
  unfold fieldsOf; rw [h, hb]

theorem canonOff_channel (n k : Nat) (hn : n < 32) (hk : k < 8) : canonOff .tbase (0x100 + 0x20 * n + 4 * k) = 0x100 + 4 * k := by
  unfold canonOff; dsimp only; rw [if_pos (by omega)]; omega

theorem canonOff_timer (n k : Nat) (hn : n < 8) (hk : k < 8) : canonOff .tmr (0x100 + 0x20 * n + 4 * k) = 0x100 + 4 * k := by
  unfold canonOff; dsimp only; rw [if_pos (by omega)]; omega

/-- Register `k` of every compare channel has the fields of that of channel 0. -/
theorem fieldsOf_channel (n k : Nat) (hn : n < 32) (hk : k < 8) : fieldsOf .tbase (0x100 + 0x20 * n + 4 * k) = fieldsOf .tbase (0x100 + 4 * k) :=
  fieldsOf_of_canonOff (canonOff_channel n k hn hk) (canonOff_channel 0 k (by decide) hk)

/-- Register `k` of every timer has the fields of that of timer 0. -/
theorem fieldsOf_timer (n k : Nat) (hn : n < 8) (hk : k < 8) : fieldsOf .tmr (0x100 + 0x20 * n + 4 * k) = fieldsOf .tmr (0x100 + 4 * k) :=
  fieldsOf_of_canonOff (canonOff_timer n k hn hk) (canonOff_timer 0 k (by decide) hk)

theorem channel0_noKeyFields : ∀ k < 8, (fieldsOf .tbase (0x100 + 4 * k)).rwk = 0 := by decide
theorem timer0_noKeyFields : ∀ k < 8, (fieldsOf .tmr (0x100 + 4 * k)).rwk = 0 := by decide

/-- CFG, INTERVAL, CMP_LO, CMP_HI and STAT of a compare channel can be written. -/
theorem channel0_writable : ∀ k < 8, k ≤ 3 ∨ k = 6 → freeBits .tbase (0x100 + 4 * k) ≠ 0 := by decide
/-- CFG, RELOAD and CMD of a timer can be written. -/
theorem timer0_writable : ∀ k < 8, k = 0 ∨ k = 1 ∨ k = 3 → freeBits .tmr (0x100 + 4 * k) ≠ 0 := by decide

/-- TBASE refuses every write of a compare channel that its owner has not left to the host. -/
theorem pageRefuses_channel (n k : Nat) (s : State) (hk : k < 8) (h : hostMayWrite s 2 n = false) : pageRefuses pgTbase (0x100 + 0x20 * n + 4 * k) s := by
  intro i v t _ htbl
  have hn : (0x100 + 0x20 * n + 4 * k - 0x100) / 0x20 = n := by omega
  show ownedWrite i pgTbase 2 ((0x100 + 0x20 * n + 4 * k - 0x100) / 0x20) _ _ t = _
  exact ownedWrite_refused _ _ _ _ _ _ _ (by rw [hn, hostMayWrite_of_tbl htbl, h])

/-- TMR refuses every write of a timer that its owner has not left to the host. -/
theorem pageRefuses_timer (n k : Nat) (s : State) (hk : k < 8) (h : hostMayWrite s 3 n = false) : pageRefuses pgTmr (0x100 + 0x20 * n + 4 * k) s := by
  intro i v t _ htbl
  have hn : (0x100 + 0x20 * n + 4 * k - 0x100) / 0x20 = n := by omega
  show ownedWrite i pgTmr 3 ((0x100 + 0x20 * n + 4 * k - 0x100) / 0x20) _ _ t = _
  exact ownedWrite_refused _ _ _ _ _ _ _ (by rw [hn, hostMayWrite_of_tbl htbl, h])

/-! ## Writes by others than the owner (R242) -/

/-- A write of register `k` of a compare channel that is not the host's to write is discarded, and recorded where the register can be written. -/
theorem channelWrite_discarded (i : Iface) (n k : Nat) (v : Word32) (s : State) (hn : n < 32) (hk : k < 8) (hreach : reaches i pgTbase s)
    (h : hostMayWrite s 2 n = false) :
    (ifaceWrite i pgTbase (0x100 + 0x20 * n + 4 * k) v s).tb = s.tb ∧
      (k ≤ 3 ∨ k = 6 → ownerRecorded i pgTbase (ifaceWrite i pgTbase (0x100 + 0x20 * n + 4 * k) v s)) := by
  have hfields := fieldsOf_channel n k hn hk
  obtain ⟨htb, -, hrecorded⟩ := ifaceWrite_refused i pgTbase (0x100 + 0x20 * n + 4 * k) v s hreach (by decide : PageKind.tbase ≠ .ep) (by omega) (by omega) (by omega)
    ((congrArg WMask.rwk hfields).trans (channel0_noKeyFields k hk)) (pageRefuses_channel n k s hk h)
  refine ⟨htb, fun hwritable => hrecorded ?_⟩
  show freeBits .tbase _ ≠ 0
  unfold freeBits; rw [hfields]
  exact channel0_writable k hk hwritable

/-- A write of register `k` of a timer that is not the host's to write is discarded, and recorded where the register can be written. -/
theorem timerWrite_discarded (i : Iface) (n k : Nat) (v : Word32) (s : State) (hn : n < 8) (hk : k < 8) (hreach : reaches i pgTmr s)
    (h : hostMayWrite s 3 n = false) :
    (ifaceWrite i pgTmr (0x100 + 0x20 * n + 4 * k) v s).tmr = s.tmr ∧
      (k = 0 ∨ k = 1 ∨ k = 3 → ownerRecorded i pgTmr (ifaceWrite i pgTmr (0x100 + 0x20 * n + 4 * k) v s)) := by
  have hfields := fieldsOf_timer n k hn hk
  obtain ⟨-, htmr, hrecorded⟩ := ifaceWrite_refused i pgTmr (0x100 + 0x20 * n + 4 * k) v s hreach (by decide : PageKind.tmr ≠ .ep) (by omega) (by omega) (by omega)
    ((congrArg WMask.rwk hfields).trans (timer0_noKeyFields k hk)) (pageRefuses_timer n k s hk h)
  refine ⟨htmr, fun hwritable => hrecorded ?_⟩
  show freeBits .tmr _ ≠ 0
  unfold freeBits; rw [hfields]
  exact timer0_writable k hk hwritable

/-- A write of CMD of a timer that is not the host's to write starts, stops and clears nothing, and is recorded. -/
theorem timerCmd_discarded (i : Iface) (n : Nat) (v : Word32) (s : State) (hn : n < 8) (hreach : reaches i pgTmr s) (h : hostMayWrite s 3 n = false) :
    (ifaceWrite i pgTmr (0x10C + 0x20 * n) v s).tmr = s.tmr ∧ ownerRecorded i pgTmr (ifaceWrite i pgTmr (0x10C + 0x20 * n) v s) := by
  obtain ⟨htmr, hrecorded⟩ := timerWrite_discarded i n 3 v s hn (by decide) hreach h
  have hoff : 0x10C + 0x20 * n = 0x100 + 0x20 * n + 4 * 3 := by omega
  rw [hoff]
  exact ⟨htmr, hrecorded (.inr (.inr rfl))⟩

/-- The number of a register in its compare channel: its offset divided by 4. -/
def cmpRegNo : CmpReg → Nat
  | .cfg => 0 | .interval => 1 | .cmpLo => 2 | .cmpHi => 3

theorem cmpRegOff_eq (r : CmpReg) : cmpRegOff r = 4 * cmpRegNo r := by cases r <;> rfl
theorem cmpRegNo_le (r : CmpReg) : cmpRegNo r ≤ 3 := by cases r <;> decide

/-- The offset of a register of block `n` of 32 bytes from offset 0x100 on. -/
theorem regOffset_eq (r n : Nat) (h : r / 8 = 8 + n) : 4 * r = 0x100 + 0x20 * n + 4 * (r % 8) := by omega

end Sys2Proof.Machine

open Sys2Proof.Machine

/-- Settles O59: a write that the owner has not left to the host is answered by the page with OWNER alone (`ifaceWrite_refused`), whichever interface and register it comes through. -/
theorem onlyOwnersWriteChannelsAndTimers : Obligations.OnlyOwnersWriteChannelsAndTimers := by
  refine ⟨hostMayWrite_iff, fun s i n v hreach hrefused => ⟨fun r => ?_, fun r hr => ?_⟩, fun s i n v hreach hrefused => ⟨fun c hc => ?_, fun r hr => ?_⟩⟩
  · have hno := cmpRegNo_le r
    obtain ⟨htb, hrecorded⟩ := channelWrite_discarded i n (cmpRegNo r) v s n.isLt (by omega) hreach hrefused
    rw [← cmpRegOff_eq] at htb hrecorded
    exact ⟨_, rfl, htb, hrecorded (.inl hno)⟩
  · have hdiscarded := channelWrite_discarded i n (r.toNat % 8) v s n.isLt (by omega) hreach hrefused
    rw [← regOffset_eq _ _ hr] at hdiscarded
    exact ⟨_, rfl, hdiscarded⟩
  · have hcmd := fun w => timerCmd_discarded i n w s n.isLt hreach hrefused
    rcases hc with rfl | rfl | rfl
    · exact ⟨_, rfl, hcmd 1⟩
    · exact ⟨_, rfl, hcmd 2⟩
    · exact ⟨_, rfl, hcmd 4⟩
  · have hdiscarded := timerWrite_discarded i n (r.toNat % 8) v s n.isLt (by omega) hreach hrefused
    rw [← regOffset_eq _ _ hr] at hdiscarded
    exact ⟨_, rfl, hdiscarded⟩
end
